-- ==== Sys2Proof/Word.lean ====
section
/-! DEFINITION. The word types of the KH-4210 (spec/00_scope.md, Conventions). -/

namespace Sys2Proof

/-- One byte of a frame, a record or the console stream. -/
abbrev Byte := BitVec 8

/-- A 16-bit code, tag, EtherType or record type. -/
abbrev Half := BitVec 16

/-- A counter: "Every counter in every block is 32 bits wide and wraps" (spec/00_scope.md). -/
abbrev Counter := BitVec 32

/-- Device time: microseconds in 48 bits, wrapping (R167). -/
abbrev Time := BitVec 48

/-- An offset in the console output stream: 48 bits, wrapping (R79). -/
abbrev Offset := BitVec 48

/-- A station address, first byte most significant. -/
abbrev Mac := BitVec 48

end Sys2Proof
end

