-- ==== Sys2Proof/Syntax.lean ====
section
/-! DEFINITION. The commands of the KH-4210: one constructor for each row of spec/opcode_table.json. -/

namespace Sys2Proof

/-- The two link ports (spec/00_scope.md). -/
inductive Port where
  | u
  | s
deriving DecidableEq, Repr

/-- The speeds a PHY reports with a link (R1). -/
inductive Speed where
  | mbit10
  | mbit100
  | mbit1000
deriving DecidableEq, Repr

/-- The two shapers, one at the head of each out-queue (2.3). -/
inductive Shaper where
  | agent
  | media
deriving DecidableEq, Repr

/-- The straps sampled at power-on (R170): LOADER_OFF, and EE_SIZE as "32 KiB". -/
structure Straps where
  loaderOff : Bool
  eeLarge : Bool
deriving DecidableEq, Repr

/-- How the EEPROM answered a load (R170): to the end, not at all, or stopping part-way. -/
inductive EepromAck where
  | complete
  | absent
  | stopped
deriving DecidableEq, Repr

/-- A command. A record command (`identify` … `restartForce`) carries no operand of its own: the record it executes stands
in State as the agent's next record, where AGENT_TAKE_FRAME put it (notes/assumptions/3.md). The operands of the others:
`frameArrival` carries the frame's bytes from the destination address up to the FCS, and whether the FCS matches them;
`rxCharacter` carries the samples after the start bit, in order, and whether RXD has risen since the falling edge;
`autobaudInterval` carries the length of the low in core cycles; `heldDeadline` names a held request by its place in the
table, oldest first; `storeComplete` says whether the EEPROM acknowledged and the read-back sum agreed. -/
inductive Instr where
  /-- POWER_ON (R170). -/
  | powerOn (straps : Straps)
  /-- LOADER_DONE (R172). -/
  | loaderDone (ack : EepromAck)
  /-- LINK_UP (R1). -/
  | linkUp (p : Port) (speed : Speed)
  /-- LINK_DOWN (R2). -/
  | linkDown (p : Port)
  /-- FRAME_ARRIVAL (R5). -/
  | frameArrival (p : Port) (bytes : List Byte) (fcsGood : Bool)
  /-- TRANSMISSION_COMPLETE (R36). -/
  | transmissionComplete (p : Port)
  /-- SHAPER_WAIT_EXPIRY (R32). -/
  | shaperWaitExpiry (sh : Shaper)
  /-- SHAPER_BLOCKED_RETRY (R33). -/
  | shaperBlockedRetry (sh : Shaper)
  /-- AGENT_TAKE_FRAME (R42). -/
  | agentTakeFrame
  /-- OUT_QUEUE_RETRY (R52). -/
  | outQueueRetry
  /-- IDENTIFY (R58). -/
  | identify
  /-- TABLE_READ (R57). -/
  | tableRead
  /-- TABLE_WRITE_UNKNOWN (R56). -/
  | tableWriteUnknown
  /-- TABLE_WRITE_DOMAIN (R10). -/
  | tableWriteDomain
  /-- TABLE_WRITE_MGMT_DOMAIN (R11). -/
  | tableWriteMgmtDomain
  /-- TABLE_WRITE_STEERING (R13). -/
  | tableWriteSteering
  /-- TABLE_WRITE_PCP_MAP (R16). -/
  | tableWritePcpMap
  /-- TABLE_WRITE_PORT (R3). -/
  | tableWritePort
  /-- TABLE_WRITE_METER (R27). -/
  | tableWriteMeter
  /-- TABLE_WRITE_METER_SETTINGS (R27). -/
  | tableWriteMeterSettings
  /-- TABLE_WRITE_QUEUE (R35). -/
  | tableWriteQueue
  /-- TABLE_WRITE_POOL (R26). -/
  | tableWritePool
  /-- TABLE_WRITE_OPERATOR (R45). -/
  | tableWriteOperator
  /-- TABLE_WRITE_CONSOLE_LINE (R60). -/
  | tableWriteConsoleLine
  /-- TABLE_WRITE_CONSOLE_HISTORY (R85). -/
  | tableWriteConsoleHistory
  /-- TABLE_WRITE_PATTERN (R91). -/
  | tableWritePattern
  /-- TABLE_WRITE_REGION (R96). -/
  | tableWriteRegion
  /-- TABLE_WRITE_MEDIA_PARAMS (R127). -/
  | tableWriteMediaParams
  /-- TABLE_WRITE_LINE (R135). -/
  | tableWriteLine
  /-- TABLE_WRITE_SENSE (R140). -/
  | tableWriteSense
  /-- TABLE_WRITE_SENSE_TRIGGER (R144). -/
  | tableWriteSenseTrigger
  /-- TABLE_WRITE_SCRIPT_DIR (R149). -/
  | tableWriteScriptDir
  /-- TABLE_WRITE_SCRIPT_STEP (R150). -/
  | tableWriteScriptStep
  /-- RECORD_UNKNOWN_TYPE (R48). -/
  | recordUnknownType
  /-- CONSOLE_BAUD (R67). -/
  | consoleBaud
  /-- CONSOLE_BAUD_AUTO (R68). -/
  | consoleBaudAuto
  /-- CONSOLE_CLAIM (R73). -/
  | consoleClaim
  /-- CONSOLE_CLAIM_FORCE (R73). -/
  | consoleClaimForce
  /-- CONSOLE_RELEASE (R74). -/
  | consoleRelease
  /-- CONSOLE_TYPE (R76). -/
  | consoleType
  /-- CONSOLE_BREAK (R77). -/
  | consoleBreak
  /-- CONSOLE_MARK (R82). -/
  | consoleMark
  /-- CONSOLE_MARKS (R82). -/
  | consoleMarks
  /-- CONSOLE_ARM (R94). -/
  | consoleArm
  /-- CONSOLE_WATCH (R83). -/
  | consoleWatch
  /-- CONSOLE_UNWATCH (R84). -/
  | consoleUnwatch
  /-- CONSOLE_FETCH (R80). -/
  | consoleFetch
  /-- MEDIA_ATTACH (R98). -/
  | mediaAttach
  /-- MEDIA_DETACH (R100). -/
  | mediaDetach
  /-- MEDIA_DETACH_DISCARD (R101). -/
  | mediaDetachDiscard
  /-- MEDIA_RESUME (R103). -/
  | mediaResume
  /-- MEDIA_STATUS (R114). -/
  | mediaStatus
  /-- POWER_REQUEST (R163). -/
  | powerRequest
  /-- POWER_CANCEL_RUNNING (R164). -/
  | powerCancelRunning
  /-- POWER_CANCEL_QUEUED (R164). -/
  | powerCancelQueued
  /-- POWER_STATUS (R165). -/
  | powerStatus
  /-- LINE_STATUS (R147). -/
  | lineStatus
  /-- TIME_SET (R168). -/
  | timeSet
  /-- STATS_READ (R169). -/
  | statsRead
  /-- STATS_READ_CLEAR (R169). -/
  | statsReadClear
  /-- STORE (R173). -/
  | store
  /-- STORE_COMPLETE (R174). -/
  | storeComplete (agreed : Bool)
  /-- RESTART (R175). -/
  | restart
  /-- RESTART_FORCE (R175). -/
  | restartForce
  /-- RESTART_BEGIN (R176). -/
  | restartBegin
  /-- RESTART_RELOAD_DONE (R177). -/
  | restartReloadDone (ack : EepromAck)
  /-- RX_CHARACTER (R65). -/
  | rxCharacter (samples : List Bool) (rose : Bool)
  /-- BREAK_DETECTED (R66). -/
  | breakDetected
  /-- BREAK_IN_END (R66). -/
  | breakInEnd
  /-- AUTOBAUD_INTERVAL (R68). -/
  | autobaudInterval (cycles : Nat)
  /-- AUTOBAUD_OVERFLOW (R68). -/
  | autobaudOverflow
  /-- AUTOBAUD_TIMEOUT (R70). -/
  | autobaudTimeout
  /-- TX_CHARACTER_DONE (R63). -/
  | txCharacterDone
  /-- BREAK_OUT_END (R71). -/
  | breakOutEnd
  /-- BREAK_GAP_END (R71). -/
  | breakGapEnd
  /-- CTS_ASSERT (R72). -/
  | ctsAssert
  /-- CONSOLE_IDLE_EXPIRY (R75). -/
  | consoleIdleExpiry
  /-- PUSH_DELAY_EXPIRY (R86). -/
  | pushDelayExpiry (w : Fin 4)
  /-- EPOCH_ANCHOR_ADVANCE (R168). -/
  | epochAnchorAdvance
  /-- BLK_READ (R107). -/
  | blkRead
  /-- BLK_WRITE (R109). -/
  | blkWrite
  /-- BLK_INQUIRE (R106). -/
  | blkInquire
  /-- BLK_SYNC (R110). -/
  | blkSync
  /-- BLK_MALFORMED (R181). -/
  | blkMalformed
  /-- IMG_INFO (R129). -/
  | imgInfo
  /-- IMG_DATA (R130). -/
  | imgData
  /-- IMG_WRITE_ACK (R131). -/
  | imgWriteAck
  /-- IMG_MALFORMED_ANSWER (R182). -/
  | imgMalformedAnswer
  /-- TRANSFER_ISSUE (R122). -/
  | transferIssue
  /-- TRANSFER_DEADLINE (R124). -/
  | transferDeadline (e : Fin 16)
  /-- RESOURCE_RESCAN (R120). -/
  | resourceRescan
  /-- HELD_DEADLINE (R112). -/
  | heldDeadline (k : Nat)
  /-- SCRIPT_DELAY_EXPIRY (R153). -/
  | scriptDelayExpiry
  /-- STEP_PAUSE (R154). -/
  | stepPause
  /-- STEP_BOOT_OPEN (R146). -/
  | stepBootOpen
  /-- STEP_BOOT_CLOSE (R146). -/
  | stepBootClose
  /-- STEP_HOLD_S (R7). -/
  | stepHoldS
  /-- STEP_RELEASE_S (R7). -/
  | stepReleaseS
  /-- STEP_MARK (R154). -/
  | stepMark
  /-- STEP_NOTIFY (R154). -/
  | stepNotify
  /-- STEP_FAIL (R154). -/
  | stepFail
  /-- STEP_DRIVE (R155). -/
  | stepDrive
  /-- STEP_CALL (R157). -/
  | stepCall
  /-- STEP_END (R157). -/
  | stepEnd
  /-- AWAIT_TIMEOUT (R156). -/
  | awaitTimeout
  /-- GUARD_WAIT_EXPIRY (R155). -/
  | guardWaitExpiry
  /-- BOOT_WINDOW_EXPIRY (R146). -/
  | bootWindowExpiry
  /-- SENSE_RAW_CHANGE (R142). -/
  | senseRawChange (k : Fin 4) (level : Bool)
  /-- SENSE_CHANGE_DUE (R142). -/
  | senseChangeDue (k : Fin 4)
  /-- SENSE_ESTABLISHMENT_DUE (R141). -/
  | senseEstablishmentDue (k : Fin 4)
  /-- RXD_FALLING_EDGE (R64). -/
  | rxdFallingEdge
  /-- FALSE_START (R64). -/
  | falseStart
  /-- CTS_DEASSERT (R72). -/
  | ctsDeassert
  /-- POWER_LOSS (R174). -/
  | powerLoss
deriving DecidableEq, Repr

end Sys2Proof
end

