-- ==== Sys2Proof/Decode.lean ====
section
/-! DEFINITION. Reading a command from a word. No row of spec/opcode_table.json gives bits (spec/98_reader.md counts 0 rows
with fixed bits and 0 with fields), so no word spells a command. -/

namespace Sys2Proof

/-- The command a word spells by the table's bits: none, since no row has bits. -/
def decodeTableWord (_nbits _w : Nat) : Option Instr := none

end Sys2Proof
end

