-- ==== Sys2Proof/Config.lean ====
section
/-! DEFINITION. The capacities and fixed codes of the part (R58, spec/00_scope.md, spec/11_frame_and_record_layouts.md).
The spec calls no result of any command undefined, so there is no free value here. -/

namespace Sys2Proof.Config

/-- Cells of the pool (R22). -/
def poolCells : Nat := 8192
/-- Bytes of one cell (R22). -/
def cellBytes : Nat := 128
/-- Cells of one sector-cache line (R22). -/
def lineCells : Nat := 4
/-- Frames the agent inbox holds (R8, R23). -/
def agentInboxLimit : Nat := 32
/-- Frames the media inbox holds (R9, R23). -/
def mediaInboxLimit : Nat := 16
/-- Frames an out-queue holds (R23). -/
def outQueueLimit : Nat := 16
/-- Frames a class queue holds (R34). -/
def classQueueLimit : Nat := 256
/-- Shortest and longest legal frame (R5). -/
def minFrame : Nat := 64
def maxFrame : Nat := 1522
/-- The charge of a frame is its length plus this (R29). -/
def chargeExtra : Nat := 20
/-- Room for records in a frame the agent builds (11.2). -/
def recordRoom : Nat := 1479
/-- Longest record (R178). -/
def maxRecord : Nat := 1400
/-- Most records of one frame (R178). -/
def maxRecords : Nat := 16
/-- Items of the console input FIFO (R71). -/
def fifoLimit : Nat := 256
/-- Bytes of the history ring (R79). -/
def ringBytes : Nat := 65536
/-- Marks of the mark list (R81). -/
def markLimit : Nat := 32
/-- Entries of the notice queue (R89). -/
def noticeLimit : Nat := 16
/-- Most bytes of one CONSOLE_DATA push and of one CONSOLE_FETCH (R80, R88). -/
def chunkBytes : Nat := 1024
/-- Entries of the held-request table (R111). -/
def heldLimit : Nat := 16
/-- FETCH entries that may be in use at once (R119). -/
def fetchLimit : Nat := 12
/-- Lines in DIRTY, FLUSHING or REDIRTIED state (R109, R116). -/
def dirtyLimit : Nat := 256
/-- Bytes of a sector. -/
def sectorBytes : Nat := 512
/-- Failures in a row that fault a region (R126). -/
def failureLimit : Nat := 4
/-- Entries of the power-request queue (R159). -/
def requestLimit : Nat := 8
/-- Return steps of the call stack (R157). -/
def callDepth : Nat := 4
/-- Valid intervals of an auto-baud measurement (R69). -/
def autobaudIntervals : Nat := 16
/-- Longest valid auto-baud interval in core cycles (R68). -/
def autobaudMax : Nat := 65535
/-- Time limit of an auto-baud measurement, in microseconds (R70). -/
def autobaudLimit : Nat := 10000000
/-- Core clock in cycles per second, and cycles in a microsecond (R61, spec/00_scope.md). -/
def coreHz : Nat := 100000000
def coreCyclesPerUs : Nat := 100
/-- Range of DIV (R60). -/
def divMin : Nat := 32
def divMax : Nat := 65535

def etherTypeControl : Half := 0x88B5
def etherTypeMedia : Half := 0x88B6
/-- The two bytes that say a frame is tagged (R6). -/
def etherTypeTag : Half := 0x8100
def broadcast : Mac := 0xFFFFFFFFFFFF
/-- PART MAC of the factory (R3). -/
def factoryMac : Mac := 0x024B48000001
/-- The image's magic value (11.3). -/
def imageMagic : BitVec 32 := 0x4B485449
/-- Bytes of the image header (11.3). -/
def imageHeader : Nat := 12
def vendorCode : Half := 0x0D6E
def partCode : Half := 0x4210
/-- Codes of the marks of the boot window (8.4). -/
def markWindowClosed : Half := 0xFF00
def markWindowOpened : Half := 0xFF01
def markWindowExpired : Half := 0xFF02

end Sys2Proof.Config
end

