-- ==== Sys2Proof/Machine/State.lean ====
section
/-! DEFINITION. The state of the part as plain data, every piece the spec names (INVENTORY.md, State), and the state in which
RESET_N releases it. -/

namespace Sys2Proof.Machine

open Sys2Proof

/-! ### Outcomes -/

/-- No command stops the part with a fault: the spec names no fault, trap or stop, and every arrival, request, expiry and
completion changes state, is refused with a status, or is dropped and counted. So there is no constructor to raise. -/
inductive Fault where
deriving DecidableEq, Repr

/-- Why a command has no meaning in this model. -/
inductive Refusal where
  /-- Raised by an arm of `exec` whose command has no meaning yet; safe, for nothing is claimed of it. No arm raises it. -/
  | notModelled (mnemonic : String)
deriving DecidableEq, Repr

/-! ### Ports and the frame path (spec/01) -/

/-- One thing for each of ports U and S. -/
structure PerPort (α : Type) where
  u : α
  s : α
deriving DecidableEq, Repr

/-- A subset of the ports U, S and M (11.1: bits 0, 1, 2). -/
structure PortSet where
  u : Bool
  s : Bool
  m : Bool
deriving DecidableEq, Repr

/-- A VLAN tag as the part reads it: PCP and VID (R6). -/
structure Tag where
  pcp : Fin 8
  vid : Nat
deriving DecidableEq, Repr

/-- A frame without its FCS; `payload` is every byte after the EtherType, padding included. -/
structure Frame where
  dst : Mac
  src : Mac
  tag : Option Tag
  etherType : Half
  payload : List Byte
deriving DecidableEq, Repr

/-- Who built a frame, with what its builder must learn when it goes: a passed-through frame, a reply frame, the reply frame
of an accepted RESTART (R55), a push frame, a request frame of a transfer with its index and generation (R123), or a reply to
the server. -/
inductive Origin where
  | passThrough
  | reply
  | restartReply
  | push
  | media (idx : Fin 16) (gen : Byte)
  | blkReply
deriving DecidableEq, Repr

/-- A frame in its egress form, in a class queue or in transmission (R20, R22). -/
structure QFrame where
  frame : Frame
  origin : Origin
deriving DecidableEq, Repr

/-- A frame as built, in an out-queue, with the domain it was built in (2.3). -/
structure OutFrame where
  frame : Frame
  domain : Fin 16
  origin : Origin
deriving DecidableEq, Repr

/-- A frame of the media inbox, with its arrival port and the domain it was resolved in (R9, R105). -/
structure MediaIn where
  port : Port
  domain : Fin 16
  frame : Frame
deriving DecidableEq, Repr

/-- PORT entries 0 and 1 (R3). -/
structure PortSettings where
  pvid : Nat
  defaultClass : Fin 4
deriving DecidableEq, Repr

/-- The counters of a port (R4, R41). -/
structure PortCounters where
  rxFrames : Counter := 0
  rxBytes : Counter := 0
  runt : Counter := 0
  oversize : Counter := 0
  fcsErr : Counter := 0
  domainMiss : Counter := 0
  held : Counter := 0
  controlFromServer : Counter := 0
  agentFull : Counter := 0
  mediaFull : Counter := 0
  steerDrop : Counter := 0
  meterDrop : Counter := 0
  egressNotMember : Counter := 0
  tagOversize : Counter := 0
  linkDown : Counter := 0
  linkFlush : Counter := 0
  txFrames : Counter := 0
  txBytes : Counter := 0
  linkChanges : Counter := 0
  queueFull : Counter := 0
  poolFull : Counter := 0
  holdFlush : Counter := 0
deriving DecidableEq, Repr

/-- The link ports: link states (`none` is DOWN, a speed is UP at it), settings, counters, PART MAC and the port-S hold. -/
structure Ports where
  link : PerPort (Option Speed)
  set : PerPort PortSettings
  cnt : PerPort PortCounters
  partMac : Mac
  holdS : Bool
deriving DecidableEq, Repr

/-- A domain entry (1.3). `tag` is the tag-on-egress set; its `m` is unused and false. -/
structure Domain where
  valid : Bool
  vid : Nat
  members : PortSet
  tag : PortSet
deriving DecidableEq, Repr

/-- The domain table with its settings entry (1.3). -/
structure Domains where
  entries : Vector Domain 16
  mgmt : Fin 16
deriving DecidableEq, Repr

/-- A steering entry (1.4). Codes and numbers are kept as written, since an invalid entry may carry any fields (R13).
`action` is FORWARD 0 or DROP 1. -/
structure Steering where
  valid : Bool
  ingress : PortSet
  hasDst : Bool
  hasSrc : Bool
  hasVid : Bool
  hasType : Bool
  hasPcp : Bool
  dst : Mac
  src : Mac
  vid : Nat
  etherType : Half
  pcp : Nat
  action : Nat
  override : Option Nat
  meter : Option Nat
  rewrite : Option Nat
  hits : Counter
deriving DecidableEq, Repr

/-! ### Cell pool, meters and egress (spec/02) -/

/-- The cell pool: free count, settings and counters (2.1, R41). -/
structure Pool where
  free : Nat
  reserve : Nat
  ceiling : Nat
  cacheAlloc : Counter := 0
  cacheEvict : Counter := 0
  cacheAllocFail : Counter := 0
  ceilingEvict : Counter := 0
  lowFree : Nat
deriving DecidableEq, Repr

/-- The mode of a meter in its policing role (2.2). -/
inductive MeterMode where
  | policeDrop
  | policeDemote
deriving DecidableEq, Repr

/-- A meter: RATE in kB/s, BURST in bytes, credit in milli-bytes (2.2). -/
structure Meter where
  rate : Nat
  burst : Nat
  mode : MeterMode
  credit : Nat
  last : Time
  conform : Counter := 0
  exceed : Counter := 0
deriving DecidableEq, Repr

/-- The meter bank with its settings entry (R27). -/
structure Meters where
  bank : Vector Meter 16
  agentMeter : Fin 16
  mediaMeter : Fin 16
deriving DecidableEq, Repr

/-- The state of a shaper between steps (2.3). BLOCKED keeps the egress form and class fixed at the test that conformed,
whether the extra cell was what it lacked, and how many retries its events still owe it (R33, notes/assumptions/8.md). -/
inductive ShaperState where
  | idle
  | waiting (expiry : Time)
  | blocked (form : Frame) (cls : Fin 4) (forCell : Bool) (retries : Nat)
deriving DecidableEq, Repr

/-- An out-queue with the shaper at its head (2.3). -/
structure OutQueue where
  frames : List OutFrame
  shaper : ShaperState
deriving DecidableEq, Repr

/-- A class queue (2.5); its frame and cell counts are those of `frames`. -/
structure ClassQueue where
  frames : List QFrame
  cellLimit : Nat
  weight : Nat
  deficit : Nat
deriving DecidableEq, Repr

/-- The scheduler mode of a port (R35). -/
inductive SchedMode where
  | strict
  | weighted
deriving DecidableEq, Repr

/-- The frame being sent, when its sending began, and how long it lasts in nanoseconds (R36). -/
structure Sending where
  q : QFrame
  since : Time
  duration : Nat
deriving DecidableEq, Repr

/-- The egress side of a port: class queues, scheduler and transmitter (2.5). -/
structure Egress where
  queues : Vector ClassQueue 4
  mode : SchedMode
  visit : Fin 4
  granted : Bool
  tx : Option Sending
deriving DecidableEq, Repr

/-- Both egress sides with QUEUE entry 10 (R35). -/
structure Scheduler where
  port : PerPort Egress
  mgmtClass : Fin 4
  mediaClass : Fin 4
deriving DecidableEq, Repr

/-! ### Control agent (spec/03) -/

/-- The five privileges (3.2). -/
structure Privileges where
  view : Bool
  typing : Bool
  media : Bool
  power : Bool
  admin : Bool
deriving DecidableEq, Repr

/-- An operator entry (3.2). -/
structure Operator where
  valid : Bool
  wildcard : Bool
  addr : Mac
  privs : Privileges
  admitted : Counter
deriving DecidableEq, Repr

/-- The status codes, in the order that codes them (R179). -/
inductive Status where
  | ok
  | denied
  | noSuch
  | range
  | malformed
  | busy
  | conflict
  | state
  | lastAdmin
  | dirty
deriving DecidableEq, Repr

/-- A record as the walk yields it (R178). -/
structure Rec where
  type : Half
  tag : Half
  flags : Byte
  body : List Byte
deriving DecidableEq, Repr

/-- A reply record (R49). -/
structure Reply where
  type : Half
  tag : Half
  status : Status
  body : List Byte
deriving DecidableEq, Repr

/-- The agent's states (3.1). -/
inductive AgentState where
  | idle
  | executing
  | waiting
  | restartPending
deriving DecidableEq, Repr

/-- The kind of frame last placed in the agent out-queue (R52). -/
inductive PlacedKind where
  | reply
  | push
deriving DecidableEq, Repr

/-- The counters of the AGENT group (R59). -/
structure AgentCounters where
  framesTaken : Counter := 0
  unknownSource : Counter := 0
  badHeader : Counter := 0
  records : Counter := 0
  denied : Counter := 0
  malformed : Counter := 0
  replyFrames : Counter := 0
  pushFrames : Counter := 0
  outWait : Counter := 0
deriving DecidableEq, Repr

/-- The control agent (3.1). `todo` are the records still to execute, first the next; `trailing` the type and tag of the
walk's MALFORMED reply, due after them; `openReplies` the reply frame being built; `closed` the closed reply frames not yet
placed, oldest first; `restartAccepted` says that the open reply frame ends with an accepted RESTART's reply and waits for the
closed ones (R51, R52, R55); `retries` the placement retries that the events of R52 still owe the claimants that wait
(notes/assumptions/8.md). -/
structure Agent where
  inbox : List Frame
  state : AgentState
  op : Fin 8
  src : Mac
  todo : List Rec
  trailing : Option (Half × Half)
  openReplies : List Reply
  closed : List OutFrame
  restartForce : Bool
  restartAccepted : Bool
  restartGone : Bool
  lastPlaced : PlacedKind
  retries : Nat
  cnt : AgentCounters
deriving DecidableEq, Repr

/-! ### Console line (spec/04) -/

/-- Parity, in the order that codes it (11.1). -/
inductive Parity where
  | none
  | even
  | odd
deriving DecidableEq, Repr

/-- CONSOLE entry 0 (R60). -/
structure LineSettings where
  eight : Bool
  parity : Parity
  twoStop : Bool
  rtsCts : Bool
  div : Nat
  idleLimit : Nat
deriving DecidableEq, Repr

/-- The settings one character is framed with, fixed when it begins (R63, R64). -/
structure CharSettings where
  eight : Bool
  parity : Parity
  twoStop : Bool
  div : Nat
deriving DecidableEq, Repr

/-- The line state (R68). While MEASURING, `low` is when the low interval being counted began, if one is open. -/
inductive LineState where
  | running
  | measuring (count : Nat) (smallest : Option Nat) (start : Time) (low : Option Time)
deriving DecidableEq, Repr

/-- The receiver states (R64), with the settings taken at the falling edge and its time. -/
inductive Receiver where
  | ready
  | start (cfg : CharSettings) (edge : Time)
  | character (cfg : CharSettings) (edge : Time)
  | lowWait (cfg : CharSettings) (edge : Time)
  | brk
deriving DecidableEq, Repr

/-- An item of the input FIFO (4.4): a byte, or a BREAK of so many milliseconds. -/
inductive FifoItem where
  | byte (b : Byte)
  | brk (ms : Nat)
deriving DecidableEq, Repr

/-- The transmitter (R71): IDLE, sending a character, sending a break with the settings its gap will have (R63), or in the gap
of so many core cycles after one. -/
inductive Transmitter where
  | idle
  | character (b : Byte) (cfg : CharSettings) (since : Time)
  | brk (ms : Nat) (cfg : CharSettings) (since : Time)
  | gap (cycles : Nat) (since : Time)
deriving DecidableEq, Repr

/-- The owner of console input and the time of its last activity (4.5). -/
structure Owner where
  op : Fin 8
  last : Time
deriving DecidableEq, Repr

/-- The console line's counters (R78). -/
structure LineCounters where
  rxChars : Counter := 0
  framingErr : Counter := 0
  parityErr : Counter := 0
  breakIn : Counter := 0
  txChars : Counter := 0
  breakOut : Counter := 0
  ctsWait : Counter := 0
  autobaudOvf : Counter := 0
  autobaudOk : Counter := 0
  autobaudFail : Counter := 0
  typeShort : Counter := 0
deriving DecidableEq, Repr

/-- The console line (chapter 4). `ctsCounted` says that the present wait for CTS has been counted (R72). -/
structure ConsoleLine where
  set : LineSettings
  state : LineState
  rx : Receiver
  fifo : List FifoItem
  tx : Transmitter
  ctsCounted : Bool
  rts : Bool
  owner : Option Owner
  cnt : LineCounters
deriving DecidableEq, Repr

/-! ### Power unit and scripts: the types other blocks name (spec/08, spec/09) -/

/-- The server power state (R143). -/
inductive PowerState where
  | unknown
  | on
  | off
deriving DecidableEq, Repr

/-- Who asked for a script (R151). -/
inductive Source where
  | operator (i : Fin 8)
  | pattern (n : Fin 8)
  | trigger (n : Fin 8)
deriving DecidableEq, Repr

/-- How a script finished (9.4). -/
inductive ScriptOutcome where
  | ok
  | failed (code : Half)
  | fault
  | aborted
deriving DecidableEq, Repr

/-! ### Media: the types other blocks name (spec/06) -/

/-- The states of a region (6.1). -/
inductive RegionState where
  | detached
  | attaching
  | attached
  | detaching
  | faulted
deriving DecidableEq, Repr

/-- The codes of the last error (6.1). -/
inductive ErrorCode where
  | unknownImage
  | badInfo
  | inquireFailed
  | fetchFailed
  | flushFailed
deriving DecidableEq, Repr

/-- The last error of a region (6.1). -/
structure LastError where
  code : ErrorCode
  sector : Option Nat
  time : Time
deriving DecidableEq, Repr

/-! ### Console history (spec/05) -/

/-- The kinds of mark (5.2). -/
inductive MarkKind where
  | breakIn
  | pattern
  | power
  | autobaud
  | ownerChange
  | restart
  | operator
  | powerState
deriving DecidableEq, Repr

/-- A mark (5.2). -/
structure Mark where
  kind : MarkKind
  seq : Counter
  offset : Offset
  time : Time
  epoch : Option Nat
  code : Half
deriving DecidableEq, Repr

/-- Why the ownership of console input changed (4.5). -/
inductive OwnerCause where
  | claim
  | forced
  | released
  | idle
  | operatorWrite
deriving DecidableEq, Repr

/-- A notice: its kind and body (R90). -/
inductive Notice where
  | powerState (former new : PowerState)
  | scriptStart (script : Fin 16) (source : Source) (prio : Nat)
  | scriptEnd (script : Fin 16) (outcome : ScriptOutcome) (step : Nat)
  | scriptDropped (script : Fin 16) (source : Source) (prio : Nat)
  | scriptNote (script : Fin 16) (step : Nat) (code : Half)
  | regionState (region : Fin 4) (state : RegionState) (err : Option LastError)
  | patternHit (index : Fin 8) (offset : Offset) (hits : Counter) (request : Bool)
  | consoleOwner (former new : Option (Fin 8)) (cause : OwnerCause)
  | consoleGap (former resume : Offset) (lost : Nat)
  | autobaudDone (div baud m : Nat) (std : Option Nat)
  | autobaudFailed (count : Nat)
  | storeDone (good : Bool)
deriving DecidableEq, Repr

/-- An entry of the notice queue: what was raised, when, and the watchers still owed it (R89). -/
structure NoticeEntry where
  notice : Notice
  time : Time
  epoch : Option Nat
  owed : List (Fin 4)
deriving DecidableEq, Repr

/-- A watcher (5.3). `due` is its dueness as last judged (R86, notes/assumptions/22.md). -/
structure Watcher where
  op : Fin 8
  addr : Mac
  wantsData : Bool
  wantsNotices : Bool
  next : Offset
  pendingSince : Option Time
  lost : Counter
  due : Bool
deriving DecidableEq, Repr

/-- A pattern entry (5.5). Codes and numbers are kept as written, since an invalid entry may carry any fields (R91).
`qualifier` is ANY 0, POWER_ON 1, BOOT_OPEN 2; `mode` ONCE 0, REPEAT 1. `window` is oldest byte first. -/
structure Pattern where
  valid : Bool
  len : Nat
  bytes : List Byte
  fold : Bool
  qualifier : Nat
  mark : Bool
  notify : Bool
  request : Bool
  script : Nat
  prio : Nat
  preempt : Bool
  mode : Nat
  armed : Bool
  hits : Counter
  window : List Byte
deriving DecidableEq, Repr

/-- The history counters (R95). -/
structure HistoryCounters where
  markDropped : Counter := 0
  dataPushes : Counter := 0
  dataBytes : Counter := 0
  gaps : Counter := 0
  gapBytes : Counter := 0
  notices : Counter := 0
  noticeLost : Counter := 0
  patternHits : Counter := 0
deriving DecidableEq, Repr

/-- The console history (chapter 5). `ring` is newest byte first, so the byte at offset x is the one
(NEWEST − x) mod 2^48 places back, counted from 1; H is its length. -/
structure History where
  ring : List Byte
  newest : Offset
  marks : List Mark
  nextMark : Counter
  watchers : Vector (Option Watcher) 4
  lastServed : Option (Fin 4)
  notices : List NoticeEntry
  offerWaiting : Bool
  patterns : Vector Pattern 8
  threshold : Nat
  delay : Nat
  cnt : HistoryCounters
deriving DecidableEq, Repr

/-! ### Media engine (spec/06, spec/07) -/

/-- The configuration part of a region (6.1). Codes and numbers are kept as written, since an invalid entry may carry any
fields (R96). `service` is HOLD 0, PROMPT 1. -/
structure RegionConfig where
  valid : Bool
  server : Mac
  domain : Nat
  imageId : BitVec 32
  writeProtect : Bool
  bootOnly : Bool
  service : Nat
  prefetch : Nat
  holdMs : Nat
  autoAttach : Bool
deriving DecidableEq, Repr

/-- A region: configuration and runtime part (6.1). -/
structure Region where
  cfg : RegionConfig
  state : RegionState
  sectors : Nat
  writable : Bool
  failures : Nat
  err : Option LastError
deriving DecidableEq, Repr

/-- The op of a held request (6.7). -/
inductive HeldOp where
  | read
  | sync
deriving DecidableEq, Repr

/-- A held request (6.7). -/
structure Held where
  mac : Mac
  domain : Fin 16
  unit : Fin 4
  op : HeldOp
  tag : Half
  first : Nat
  count : Nat
  deadline : Time
  awaiting : List Nat
deriving DecidableEq, Repr

/-- The state of a cache line, with the transfer entry that covers it (7.1). -/
inductive LineCond where
  | filling (e : Fin 16)
  | clean
  | dirty
  | flushing (e : Fin 16)
  | redirtied (e : Fin 16)
deriving DecidableEq, Repr

/-- A line of the sector cache (7.1). -/
structure CacheLine where
  region : Fin 4
  sector : Nat
  cond : LineCond
  data : List Byte
deriving DecidableEq, Repr

/-- The kinds of transfer (7.3). -/
inductive TransferKind where
  | inquire
  | fetch
  | flush
deriving DecidableEq, Repr

/-- A transfer entry in use, but for its generation and its place in the issue list (7.3). -/
structure Transfer where
  kind : TransferKind
  region : Fin 4
  first : Nat
  count : Nat
  received : List Nat
  attempts : Nat
  deadline : Option Time
deriving DecidableEq, Repr

/-- An entry of the transfer table: "A free entry holds its generation and nothing more" (7.3). -/
structure TransferEntry where
  gen : Byte
  use : Option Transfer
deriving DecidableEq, Repr

/-- The counters of the region and block-protocol rules (R114). -/
structure BlockCounters where
  requests : Counter := 0
  replyOk : Counter := 0
  replyNotReady : Counter := 0
  replyBusy : Counter := 0
  replyNoUnit : Counter := 0
  replyRange : Counter := 0
  replyProtected : Counter := 0
  replyMediaError : Counter := 0
  replyMalformed : Counter := 0
  replyDrop : Counter := 0
  badSource : Counter := 0
  duplicate : Counter := 0
  heldEntered : Counter := 0
  heldExpired : Counter := 0
  writeBusy : Counter := 0
  dirtyLost : Counter := 0
deriving DecidableEq, Repr

/-- The counters of the cache and the transfers (R134). -/
structure TransferCounters where
  fillsStarted : Counter := 0
  fillSectors : Counter := 0
  fillDeferred : Counter := 0
  fetchDone : Counter := 0
  fetchFailed : Counter := 0
  flushesStarted : Counter := 0
  flushDone : Counter := 0
  flushFailed : Counter := 0
  timeouts : Counter := 0
  retries : Counter := 0
  refusals : Counter := 0
  stale : Counter := 0
  dataDiscard : Counter := 0
  imgMalformed : Counter := 0
  issueWait : Counter := 0
deriving DecidableEq, Repr

/-- The media engine (chapters 6 and 7). `lines` is the order of use, least recently used first; `held` is in the order the
entries were made; `issueWaiting` says that the present wait of the issue list's head has been counted (R122); `rescans`
counts the freed entries and returns of cells still to be offered (R120, notes/assumptions/8.md). -/
structure Media where
  regions : Vector Region 4
  inbox : List MediaIn
  held : List Held
  lines : List CacheLine
  dirtyOrder : List (Fin 4 × Nat)
  table : Vector TransferEntry 16
  issue : List (Fin 16)
  issueWaiting : Bool
  waitingInquiries : List (Fin 4)
  fillWaiting : Bool
  rescans : Nat
  timeoutMs : Nat
  retryCount : Nat
  blk : BlockCounters
  xfer : TransferCounters
deriving DecidableEq, Repr

/-! ### Power unit (spec/08) -/

/-- The class of an output line (8.1). -/
inductive LineClass where
  | momentary
  | latching
deriving DecidableEq, Repr

/-- An output line (8.1). -/
structure OutLine where
  cls : LineClass
  idle : Bool
  level : Bool
  driven : Bool
  byScript : Bool
deriving DecidableEq, Repr

/-- The OUTLET guard record (R138): the time of the fall and the guard time in seconds then in force. -/
structure GuardRecord where
  fall : Time
  secs : Nat
deriving DecidableEq, Repr

/-- What is pending on a sense line: nothing, an establishment (R141), or a change (R142), with its due time. -/
inductive SensePending where
  | none
  | establishing (due : Time)
  | change (due : Time)
deriving DecidableEq, Repr

/-- A sense line but for its raw level, which is a pin; `level` is the debounced level, `none` for UNKNOWN. -/
structure SenseLine where
  debounce : Nat
  level : Option Bool
  pending : SensePending
deriving DecidableEq, Repr

/-- A sense-trigger entry (8.3), numbers as written. `edge` is RISE 0, FALL 1, BOTH 2. -/
structure Trigger where
  valid : Bool
  line : Nat
  edge : Nat
  script : Nat
  prio : Nat
  preempt : Bool
  hits : Counter
deriving DecidableEq, Repr

/-- The power unit's counters (R148). -/
structure PowerCounters where
  drives : Counter := 0
  guardHolds : Counter := 0
  rises : Vector Counter 4 := Vector.replicate 4 0
  falls : Vector Counter 4 := Vector.replicate 4 0
  glitches : Vector Counter 4 := Vector.replicate 4 0
  stateChanges : Counter := 0
  bootOpens : Counter := 0
  bootCloses : Counter := 0
deriving DecidableEq, Repr

/-- The power unit (chapter 8). `window` is the boot window's close time while OPEN. -/
structure PowerUnit where
  lines : Vector OutLine 6
  guardSecs : Nat
  guardRec : Option GuardRecord
  sense : Vector SenseLine 4
  state : PowerState
  stateAt : Time
  triggers : Vector Trigger 8
  window : Option Time
  cnt : PowerCounters
deriving DecidableEq, Repr

/-! ### Script engine (spec/09) -/

/-- A script directory entry (R149). -/
structure ScriptDir where
  valid : Bool
  first : Nat
  prio : Nat
  preemptible : Bool
deriving DecidableEq, Repr

/-- A step of the step store (R150); `op` is its code, which may be unknown; `delay` is in milliseconds. -/
structure Step where
  op : Nat
  operand : Nat
  arg : Nat
  delay : Nat
deriving DecidableEq, Repr

/-- A power request, presented or queued (9.5). -/
structure Request where
  script : Fin 16
  source : Source
  prio : Nat
  preempt : Bool
  arrival : Time
deriving DecidableEq, Repr

/-- What a running script's engine is doing (9.2), with the wait expiry (R151). -/
inductive Wait where
  | delaying (till : Time)
  | acting
  | awaiting (till : Time)
  | guardWait (till : Time)
deriving DecidableEq, Repr

/-- The running-script context (R151), with the content of the current step as read when it was begun (R150). -/
structure Running where
  script : Fin 16
  source : Source
  prio : Nat
  preemptible : Bool
  start : Time
  cur : Nat
  step : Step
  stack : List Nat
  wait : Wait
deriving DecidableEq, Repr

/-- The last-outcome record (R158). -/
structure LastOutcome where
  script : Fin 16
  source : Source
  prio : Nat
  outcome : ScriptOutcome
  step : Nat
  start : Time
  finish : Time
deriving DecidableEq, Repr

/-- The script engine's counters (R166). -/
structure ScriptCounters where
  started : Counter := 0
  finishedOk : Counter := 0
  finishedFailed : Counter := 0
  finishedFault : Counter := 0
  finishedAborted : Counter := 0
  steps : Counter := 0
  awaitTimeouts : Counter := 0
  queued : Counter := 0
  coalesced : Counter := 0
  displaced : Counter := 0
  preemptions : Counter := 0
  cancelled : Counter := 0
  requestLost : Counter := 0
  requestInvalid : Counter := 0
deriving DecidableEq, Repr

/-- The script engine (chapter 9); `running` is `none` while it is IDLE; `queue` is head first. -/
structure ScriptEngine where
  dir : Vector ScriptDir 16
  steps : Vector Step 256
  running : Option Running
  queue : List Request
  last : Option LastOutcome
  cnt : ScriptCounters
deriving DecidableEq, Repr

/-! ### Time base and loader (spec/10) -/

/-- The epoch anchor (R168). -/
structure EpochAnchor where
  value : Nat
  at' : Time
deriving DecidableEq, Repr

/-- Device time and epoch (10.1). -/
structure Clock where
  now : Time
  anchor : Option EpochAnchor
deriving DecidableEq, Repr

/-- The source of the tables at the last load (10.3). -/
inductive ImageSource where
  | image
  | noEeprom
  | invalid
  | loaderOff
deriving DecidableEq, Repr

/-- The EEPROM state since the last load (10.3). -/
inductive EepromState where
  | asLoaded
  | stored
  | invalid
deriving DecidableEq, Repr

/-- The image status (10.3). -/
structure ImageStatus where
  source : ImageSource
  length : Nat
  applied : Nat
  skipped : Nat
  eeprom : EepromState
deriving DecidableEq, Repr

/-- What the EEPROM holds: the header, whose magic value may be erased (R174), and the record bytes (11.3). -/
structure Eeprom where
  magic : Option (BitVec 32)
  length : Nat
  sum : BitVec 32
  records : List Byte
deriving DecidableEq, Repr

/-- The store state (R173): IDLE, or IN_PROGRESS with the record bytes being written. -/
inductive StoreState where
  | idle
  | inProgress (records : List Byte)
deriving DecidableEq, Repr

/-- The last start cause. -/
inductive StartCause where
  | powerOn
  | restart
deriving DecidableEq, Repr

/-- The start record (R172, R176). -/
structure StartRecord where
  cause : StartCause
  force : Bool
  dirtyLost : Nat
  scriptAborted : Bool
  storeAbandoned : Bool
deriving DecidableEq, Repr

/-- The configuration loader (10.3). -/
structure Loader where
  straps : Straps
  image : ImageStatus
  store : StoreState
  start : StartRecord
  eeprom : Eeprom
deriving DecidableEq, Repr

/-- Where the part stands in its starts: without supply (R174), loading at power-on (R170), in service (R172), or reloading
after a RESTART (R177). -/
inductive Phase where
  | off
  | loading
  | running
  | reloading
deriving DecidableEq, Repr

/-- The levels the outside holds on the part's inputs: what each PHY reports (`none` is link lost), CTS asserted, RXD high,
and the raw levels of the sense lines. -/
structure Pins where
  phy : PerPort (Option Speed)
  cts : Bool
  rxd : Bool
  raw : Vector Bool 4
deriving DecidableEq, Repr

/-! ### The whole part -/

/-- The state of the part, with the queue of commands that wait. -/
structure State where
  pending : List Instr
  phase : Phase
  pins : Pins
  clock : Clock
  loader : Loader
  ports : Ports
  dom : Domains
  steer : Vector Steering 64
  pcp : Vector (Fin 4) 8
  pool : Pool
  meters : Meters
  sched : Scheduler
  agentOut : OutQueue
  mediaOut : OutQueue
  agent : Agent
  operators : Vector Operator 8
  line : ConsoleLine
  hist : History
  media : Media
  power : PowerUnit
  script : ScriptEngine
deriving DecidableEq, Repr

/-! ### Factory content of the tables -/

namespace Factory

/-- R10. -/
def noPorts : PortSet := ⟨false, false, false⟩
def noDomain : Domain := ⟨false, 0, noPorts, noPorts⟩
def domains : Domains :=
  { entries := ((Vector.replicate 16 noDomain).set 0 ⟨true, 1, ⟨true, false, true⟩, noPorts⟩).set 1
      ⟨true, 2, ⟨true, true, true⟩, noPorts⟩
    mgmt := 0 }

/-- R13. -/
def steeringEntry : Steering :=
  { valid := false, ingress := noPorts, hasDst := false, hasSrc := false, hasVid := false, hasType := false, hasPcp := false,
    dst := 0, src := 0, vid := 0, etherType := 0, pcp := 0, action := 0, override := none, meter := none, rewrite := none,
    hits := 0 }

/-- R16. -/
def pcp : Vector (Fin 4) 8 := #v[0, 0, 1, 1, 2, 2, 3, 3]

/-- R3. -/
def portSettings : PerPort PortSettings := ⟨⟨1, 0⟩, ⟨2, 0⟩⟩

/-- R27: the credit is BURST × 1000 and the last update the device time at which the entry is set. -/
def meter (now : Time) : Meter :=
  { rate := 0, burst := 1542, mode := .policeDrop, credit := 1542000, last := now }

def meters (now : Time) : Meters :=
  { bank := Vector.replicate 16 (meter now), agentMeter := 14, mediaMeter := 15 }

/-- R35. -/
def classQueue (weight : Nat) : ClassQueue := ⟨[], 512, weight, 0⟩
def egress : Egress :=
  { queues := #v[classQueue 1, classQueue 2, classQueue 4, classQueue 8], mode := .weighted, visit := 3, granted := false,
    tx := none }
def scheduler : Scheduler := { port := ⟨egress, egress⟩, mgmtClass := 3, mediaClass := 2 }

/-- R26, R22, R41. -/
def pool : Pool := { free := Config.poolCells, reserve := 1024, ceiling := 2048, lowFree := Config.poolCells }

/-- R44. -/
def noPrivileges : Privileges := ⟨false, false, false, false, false⟩
def adminOnly : Privileges := ⟨false, false, false, false, true⟩
def noOperator : Operator := ⟨false, false, 0, noPrivileges, 0⟩
/-- R44; the address held in the wildcard entry 0 is 0 (notes/assumptions/7.md). -/
def operators : Vector Operator 8 := (Vector.replicate 8 noOperator).set 0 ⟨true, true, 0, adminOnly, 0⟩

/-- R60. -/
def lineSettings : LineSettings :=
  { eight := true, parity := .none, twoStop := false, rtsCts := false, div := 868, idleLimit := 900 }

/-- R91. -/
def pattern : Pattern :=
  { valid := false, len := 0, bytes := List.replicate 16 0, fold := false, qualifier := 0, mark := false, notify := false,
    request := false, script := 0, prio := 0, preempt := false, mode := 0, armed := false, hits := 0, window := [] }

/-- R96, R97. -/
def regionConfig : RegionConfig :=
  { valid := false, server := 0, domain := 0, imageId := 0, writeProtect := false, bootOnly := false, service := 0,
    prefetch := 1, holdMs := 500, autoAttach := false }
def region : Region :=
  { cfg := regionConfig, state := .detached, sectors := 0, writable := false, failures := 0, err := none }

/-- R135, R136: until the loader has applied the LINE table every line is undriven. -/
def outLine (cls : LineClass) (idle : Bool) : OutLine := ⟨cls, idle, false, false, false⟩
def outLines : Vector OutLine 6 :=
  #v[outLine .momentary false, outLine .momentary false, outLine .latching true, outLine .latching false,
    outLine .momentary false, outLine .momentary false]

/-- R140, R141. -/
def senseLine : SenseLine := ⟨20, none, .none⟩

/-- R144. -/
def trigger : Trigger := ⟨false, 0, 0, 0, 0, false, 0⟩

/-- R149, R150. -/
def scriptDir : ScriptDir := ⟨false, 0, 0, true⟩
def step : Step := ⟨0, 0, 0, 0⟩

end Factory

/-! ### Power-on -/

/-- The control agent at power-on (R42, R59). -/
def Agent.powerOn : Agent :=
  { inbox := [], state := .idle, op := 0, src := 0, todo := [], trailing := none, openReplies := [], closed := [],
    restartForce := false, restartAccepted := false, restartGone := false, lastPlaced := .reply, retries := 0, cnt := {} }

/-- The console line at power-on (R60, R63, R64, R71, R72, R74). -/
def ConsoleLine.powerOn : ConsoleLine :=
  { set := Factory.lineSettings, state := .running, rx := .ready, fifo := [], tx := .idle, ctsCounted := false, rts := false,
    owner := none, cnt := {} }

/-- The console history at power-on (R79, R81, R84, R85, R89, R91). -/
def History.powerOn : History :=
  { ring := [], newest := 0, marks := [], nextMark := 0, watchers := Vector.replicate 4 none, lastServed := none,
    notices := [], offerWaiting := false, patterns := Vector.replicate 8 Factory.pattern, threshold := 256, delay := 20,
    cnt := {} }

/-- The media engine at power-on (R97, R111, R115, R120, R121, R127). -/
def Media.powerOn : Media :=
  { regions := Vector.replicate 4 Factory.region, inbox := [], held := [], lines := [], dirtyOrder := [],
    table := Vector.replicate 16 ⟨0, none⟩, issue := [], issueWaiting := false, waitingInquiries := [], fillWaiting := false,
    rescans := 0, timeoutMs := 200, retryCount := 2, blk := {}, xfer := {} }

/-- The power unit at power-on (R135, R136, R138, R141, R143, R144, R146). -/
def PowerUnit.powerOn : PowerUnit :=
  { lines := Factory.outLines, guardSecs := 10, guardRec := none, sense := Vector.replicate 4 Factory.senseLine,
    state := .unknown, stateAt := 0, triggers := Vector.replicate 8 Factory.trigger, window := none, cnt := {} }

/-- The script engine at power-on (R149, R150, R151). -/
def ScriptEngine.powerOn : ScriptEngine :=
  { dir := Vector.replicate 16 Factory.scriptDir, steps := Vector.replicate 256 Factory.step, running := none, queue := [],
    last := none, cnt := {} }

/-- The link ports at power-on (R1, R3, R4, R7). -/
def Ports.powerOn : Ports :=
  { link := ⟨none, none⟩, set := Factory.portSettings, cnt := ⟨{}, {}⟩, partMac := Config.factoryMac, holdS := false }

/-- The loader at power-on, before the image is read (R170); the source is set when the load ends. -/
def Loader.powerOn (straps : Straps) (eeprom : Eeprom) : Loader :=
  { straps := straps, image := ⟨.invalid, 0, 0, 0, .asLoaded⟩, store := .idle, start := ⟨.powerOn, false, 0, false, false⟩,
    eeprom := eeprom }

/-- The part at power-on (R170), with the levels the outside holds on its pins and the content of the EEPROM. -/
def State.powerOn (phase : Phase) (straps : Straps) (pins : Pins) (eeprom : Eeprom) (pending : List Instr) : State :=
  { pending := pending, phase := phase, pins := pins, clock := ⟨0, none⟩, loader := Loader.powerOn straps eeprom,
    ports := Ports.powerOn, dom := Factory.domains, steer := Vector.replicate 64 Factory.steeringEntry, pcp := Factory.pcp,
    pool := Factory.pool, meters := Factory.meters 0, sched := Factory.scheduler, agentOut := ⟨[], .idle⟩,
    mediaOut := ⟨[], .idle⟩, agent := Agent.powerOn, operators := Factory.operators, line := ConsoleLine.powerOn,
    hist := History.powerOn, media := Media.powerOn, power := PowerUnit.powerOn, script := ScriptEngine.powerOn }

/-- An erased EEPROM. -/
def Eeprom.blank : Eeprom := ⟨none, 0, 0, []⟩

/-- The levels on the pins at reset (DESIGN CHOICE, unsafe, notes/assumptions/5.md). -/
def Pins.reset : Pins := { phy := ⟨none, none⟩, cts := false, rxd := true, raw := Vector.replicate 4 false }

/-- The part as RESET_N releases it: power-on state, straps sampled, the image being read (R170). The straps, the pins and
the EEPROM's content come from outside (DESIGN CHOICE, unsafe, notes/assumptions/4.md, 5.md, 29.md). -/
def State.reset : State := State.powerOn .loading ⟨false, false⟩ Pins.reset Eeprom.blank []

end Sys2Proof.Machine
end

