-- ==== Sys2Proof/Machine/Operands.lean ====
section
/-! DEFINITION. Reading the bytes a command finds and writing the bytes it answers: byte order, frames, records, table entries
and media frames (spec/11_frame_and_record_layouts.md). -/

namespace Sys2Proof.Machine

/-! ### Bytes and numbers: "Multi-byte fields on the wire are sent most-significant byte first" -/

/-- The number a run of bytes spells. -/
def beNat (bs : List Byte) : Nat := bs.foldl (fun a b => a * 256 + b.toNat) 0

/-- `v` in `n` bytes. -/
def natBytes : Nat → Nat → List Byte
  | 0, _ => []
  | n + 1, v => natBytes n (v / 256) ++ [BitVec.ofNat 8 v]

/-- The number in the `n` bytes at offset `off`. -/
def fieldAt (off n : Nat) (bs : List Byte) : Nat := beNat ((bs.drop off).take n)

/-- "A flag byte of 0 is clear, and any other value is set" (11.1). -/
def flagAt (off : Nat) (bs : List Byte) : Bool := fieldAt off 1 bs != 0

def flagByte (b : Bool) : List Byte := [if b then 1 else 0]
def timeBytes (t : Time) : List Byte := natBytes 6 t.toNat
def macBytes (m : Mac) : List Byte := natBytes 6 m.toNat
def counterBytes (c : Counter) : List Byte := natBytes 4 c.toNat
def macAt (off : Nat) (bs : List Byte) : Mac := BitVec.ofNat 48 (fieldAt off 6 bs)

/-- Epoch seconds: a presence byte, then 5 bytes (11.1). -/
def epochBytes : Option Nat → List Byte
  | none => natBytes 6 0
  | some e => 1 :: natBytes 5 e

/-- Any other optional value of `n` bytes: a presence byte, then the value, zeros when absent (11.1). -/
def optBytes (n : Nat) : Option Nat → List Byte
  | none => natBytes (n + 1) 0
  | some v => 1 :: natBytes n v

def optTimeBytes (t : Option Time) : List Byte := optBytes 6 (t.map (·.toNat))

/-- An optional index read from its presence byte and value byte (11.3: "1 + 1"). 11.1 gives a presence byte two values, 0 absent and
1 present; that any other is taken as present, as 11.1 takes a flag byte, and so reads back as 1, is the model's choice
(notes/assumptions/39.md). -/
def optAt (off : Nat) (bs : List Byte) : Option Nat := if flagAt off bs then some (fieldAt (off + 1) 1 bs) else none

/-- Bit `i` of the mask byte at `off` (11.1: bit 0 least significant). -/
def maskBit (off i : Nat) (bs : List Byte) : Bool := (fieldAt off 1 bs).testBit i

/-- A mask byte from its bits, bit 0 first. -/
def maskByte (bits : List Bool) : List Byte :=
  [BitVec.ofNat 8 (bits.foldr (fun b a => 2 * a + (if b then 1 else 0)) 0)]

/-! ### Addresses -/

/-- A group (multicast or broadcast) address: the low bit of its first byte is set (PRESUMED, notes/assumptions/10.md). -/
def isGroup (m : Mac) : Bool := m.getLsbD 40

/-! ### Frames -/

/-- The length of a frame: addresses, EtherType, FCS, tag and payload (spec/00_scope.md: first byte of the destination
address through the last byte of the FCS; a tag adds 4). -/
def Frame.length (f : Frame) : Nat := 18 + (if f.tag.isSome then 4 else 0) + f.payload.length

/-- Cells a frame of this length occupies: ceil(L / 128) (R22). -/
def cellsOf (len : Nat) : Nat := (len + Config.cellBytes - 1) / Config.cellBytes

def Frame.cells (f : Frame) : Nat := cellsOf f.length

/-- The frame in the bytes from the destination address up to the FCS. A tag is there when the two bytes after the source
address are 0x8100; a second one is not read as a tag (R6). -/
def parseFrame (bs : List Byte) : Frame :=
  let dst := macAt 0 bs
  let src := macAt 6 bs
  let t := BitVec.ofNat 16 (fieldAt 12 2 bs)
  if t = Config.etherTypeTag then
    let tci := fieldAt 14 2 bs
    { dst := dst, src := src, tag := some ⟨⟨tci / 8192 % 8, Nat.mod_lt _ (by decide)⟩, tci % 4096⟩,
      etherType := BitVec.ofNat 16 (fieldAt 16 2 bs), payload := bs.drop 18 }
  else { dst := dst, src := src, tag := none, etherType := t, payload := bs.drop 14 }

/-- Zero bytes up to the least length of a frame (11, R20). -/
def Frame.padded (f : Frame) : Frame :=
  { f with payload := f.payload ++ List.replicate (Config.minFrame - f.length) 0 }

/-- A frame the part builds: untagged and padded (11, R51, R105, R122). -/
def builtFrame (dst src : Mac) (etherType : Half) (payload : List Byte) : Frame :=
  Frame.padded { dst := dst, src := src, tag := none, etherType := etherType, payload := payload }

/-! ### Codes -/

/-- Status codes in replies (R179). -/
def Status.code : Status → Nat
  | .ok => 0 | .denied => 1 | .noSuch => 2 | .range => 3 | .malformed => 4
  | .busy => 5 | .conflict => 6 | .state => 7 | .lastAdmin => 8 | .dirty => 9

def Parity.code : Parity → Nat
  | .none => 0 | .even => 1 | .odd => 2

def LineState.code : LineState → Nat
  | .running => 0 | .measuring _ _ _ _ => 1

def Receiver.code : Receiver → Nat
  | .ready => 0 | .start _ _ => 1 | .character _ _ => 2 | .lowWait _ _ => 3 | .brk => 4

def Transmitter.code : Transmitter → Nat
  | .idle => 0 | .character _ _ _ => 1 | .brk _ _ _ => 2 | .gap _ _ => 3

def AgentState.code : AgentState → Nat
  | .idle => 0 | .executing => 1 | .waiting => 2 | .restartPending => 3

def MarkKind.code : MarkKind → Nat
  | .breakIn => 0 | .pattern => 1 | .power => 2 | .autobaud => 3
  | .ownerChange => 4 | .restart => 5 | .operator => 6 | .powerState => 7

def OwnerCause.code : OwnerCause → Nat
  | .claim => 0 | .forced => 1 | .released => 2 | .idle => 3 | .operatorWrite => 4

def PowerState.code : PowerState → Nat
  | .unknown => 0 | .on => 1 | .off => 2

def RegionState.code : RegionState → Nat
  | .detached => 0 | .attaching => 1 | .attached => 2 | .detaching => 3 | .faulted => 4

def ErrorCode.code : ErrorCode → Nat
  | .unknownImage => 0 | .badInfo => 1 | .inquireFailed => 2 | .fetchFailed => 3 | .flushFailed => 4

def ImageSource.code : ImageSource → Nat
  | .image => 0 | .noEeprom => 1 | .invalid => 2 | .loaderOff => 3

def EepromState.code : EepromState → Nat
  | .asLoaded => 0 | .stored => 1 | .invalid => 2

def StoreState.code : StoreState → Nat
  | .idle => 0 | .inProgress _ => 1

def StartCause.code : StartCause → Nat
  | .powerOn => 0 | .restart => 1

def LineClass.code : LineClass → Nat
  | .momentary => 0 | .latching => 1

def SchedMode.code : SchedMode → Nat
  | .strict => 0 | .weighted => 1

def MeterMode.code : MeterMode → Nat
  | .policeDrop => 0 | .policeDemote => 1

/-- A debounced level: 0, 1 or UNKNOWN, in that order (R141). -/
def levelCode : Option Bool → Nat
  | some false => 0 | some true => 1 | none => 2

def boolNat (b : Bool) : Nat := if b then 1 else 0

/-- A power-request source: kind, then index (11.1). -/
def Source.bytes : Source → List Byte
  | .operator i => [0, BitVec.ofNat 8 i.val]
  | .pattern n => [1, BitVec.ofNat 8 n.val]
  | .trigger n => [2, BitVec.ofNat 8 n.val]

/-- The outcome of a script, with its code as an optional value (11.1, notes/assumptions/15.md). -/
def ScriptOutcome.bytes : ScriptOutcome → List Byte
  | .ok => natBytes 1 0 ++ optBytes 2 none
  | .failed c => natBytes 1 1 ++ optBytes 2 (some c.toNat)
  | .fault => natBytes 1 2 ++ optBytes 2 none
  | .aborted => natBytes 1 3 ++ optBytes 2 none

/-- The last error: code, sector and device time, as an optional value (6.1, notes/assumptions/15.md). -/
def lastErrorBytes : Option LastError → List Byte
  | none => natBytes 13 0
  | some e => 1 :: natBytes 1 e.code.code ++ optBytes 4 e.sector ++ timeBytes e.time

/-- The owner in a reply, as an optional value also where an owner always exists (R49, R60, R73, R179, notes/assumptions/39.md). -/
def ownerBytes (o : Option (Fin 8)) : List Byte := optBytes 1 (o.map (·.val))

/-- A notice's kind code (R179). -/
def Notice.kindCode : Notice → Nat
  | .powerState _ _ => 1 | .scriptStart _ _ _ => 2 | .scriptEnd _ _ _ => 3 | .scriptDropped _ _ _ => 4
  | .scriptNote _ _ _ => 5 | .regionState _ _ _ => 6 | .patternHit _ _ _ _ => 7 | .consoleOwner _ _ _ => 8
  | .consoleGap _ _ _ => 9 | .autobaudDone _ _ _ _ => 10 | .autobaudFailed _ => 11 | .storeDone _ => 12

/-- A notice's kind body: the list of the table in R90, coded by 11.1. Bauds, intervals and the bytes lost of a CONSOLE_GAP, for
which 11.1 lists no width, go in 4 bytes each; of a loss of 2^32 bytes or more the low 4 bytes are sent (notes/assumptions/14.md). -/
def Notice.bodyBytes : Notice → List Byte
  | .powerState f n => natBytes 1 f.code ++ natBytes 1 n.code
  | .scriptStart sc src p => natBytes 1 sc.val ++ src.bytes ++ natBytes 1 p
  | .scriptEnd sc o st => natBytes 1 sc.val ++ o.bytes ++ natBytes 1 st
  | .scriptDropped sc src p => natBytes 1 sc.val ++ src.bytes ++ natBytes 1 p
  | .scriptNote sc st c => natBytes 1 sc.val ++ natBytes 1 st ++ natBytes 2 c.toNat
  | .regionState r st e => natBytes 1 r.val ++ natBytes 1 st.code ++ lastErrorBytes e
  | .patternHit i o h rq => natBytes 1 i.val ++ timeBytes o ++ counterBytes h ++ flagByte rq
  | .consoleOwner f n c => ownerBytes f ++ ownerBytes n ++ natBytes 1 c.code
  | .consoleGap f r l => timeBytes f ++ timeBytes r ++ natBytes 4 l
  | .autobaudDone d b m s => natBytes 4 d ++ natBytes 4 b ++ natBytes 4 m ++ optBytes 4 s
  | .autobaudFailed c => natBytes 4 c
  | .storeDone g => natBytes 1 (if g then 0 else 1)

/-! ### Records -/

/-- A record's bytes: header of 8, then the body (11.2). -/
def recordBytes (type tag : Half) (status flags : Nat) (body : List Byte) : List Byte :=
  natBytes 2 type.toNat ++ natBytes 2 (8 + body.length) ++ natBytes 2 tag.toNat ++ natBytes 1 status ++ natBytes 1 flags ++ body

/-- A reply record: record flags 0 (R179). -/
def Reply.bytes (r : Reply) : List Byte := recordBytes r.type r.tag r.status.code 0 r.body

def Reply.length (r : Reply) : Nat := 8 + r.body.length

/-- What the walk found after the records it yielded: nothing more, or a record it answers MALFORMED (R178). -/
abbrev WalkEnd := Option (Half × Half)

/-- The length walk over what remains of the frame, yielding at most `k` records (R178). -/
def walk : Nat → List Byte → List Rec × WalkEnd
  | 0, _ => ([], none)
  | k + 1, bs =>
    let len := fieldAt 2 2 bs
    if bs.length < 8 ∨ len = 0 then ([], none)
    else
      let type := BitVec.ofNat 16 (fieldAt 0 2 bs)
      let tag := BitVec.ofNat 16 (fieldAt 4 2 bs)
      if len < 8 ∨ Config.maxRecord < len ∨ bs.length < len then ([], some (type, tag))
      else
        let rest := walk k (bs.drop len)
        (⟨type, tag, BitVec.ofNat 8 (fieldAt 7 1 bs), (bs.drop 8).take (len - 8)⟩ :: rest.1, rest.2)

/-- The walk over a frame's bytes after the EtherType: from offset 3, with the header's record count taken as at most 16; one
that yields nothing yields one MALFORMED reply of type 0 and tag 0 (R178). -/
def walkFrame (payload : List Byte) : List Rec × WalkEnd :=
  let w := walk (min (fieldAt 2 1 payload) Config.maxRecords) (payload.drop 3)
  match w with
  | ([], none) => ([], some (0, 0))
  | _ => w

/-- Bit 0 of the record flags: the further flag of 11.2. -/
def Rec.flag (r : Rec) : Bool := r.flags.getLsbD 0

/-- The seventeen tables (11.3). -/
inductive TableId where
  | domain | steering | pcpMap | port | meter | queue | pool | operator | console
  | pattern | region | mediaParams | line | sense | senseTrigger | scriptDir | scriptStep
deriving DecidableEq, Repr

def TableId.code : TableId → Nat
  | .domain => 1 | .steering => 2 | .pcpMap => 3 | .port => 4 | .meter => 5 | .queue => 6 | .pool => 7 | .operator => 8
  | .console => 9 | .pattern => 10 | .region => 11 | .mediaParams => 12 | .line => 13 | .sense => 14
  | .senseTrigger => 15 | .scriptDir => 16 | .scriptStep => 17

def TableId.ofCode : Nat → Option TableId
  | 1 => some .domain | 2 => some .steering | 3 => some .pcpMap | 4 => some .port | 5 => some .meter | 6 => some .queue
  | 7 => some .pool | 8 => some .operator | 9 => some .console | 10 => some .pattern | 11 => some .region
  | 12 => some .mediaParams | 13 => some .line | 14 => some .sense | 15 => some .senseTrigger | 16 => some .scriptDir
  | 17 => some .scriptStep | _ => none

/-- Entries of a table: indexes 0 up to one less (3.5). -/
def TableId.entries : TableId → Nat
  | .domain => 17 | .steering => 64 | .pcpMap => 8 | .port => 3 | .meter => 17 | .queue => 11 | .pool => 1 | .operator => 8
  | .console => 2 | .pattern => 8 | .region => 4 | .mediaParams => 1 | .line => 6 | .sense => 4
  | .senseTrigger => 8 | .scriptDir => 16 | .scriptStep => 256

/-- The length of an entry of a table (11.3). -/
def TableId.entryLength (t : TableId) (idx : Nat) : Nat :=
  match t with
  | .domain => if idx < 16 then 5 else 1
  | .steering => 27
  | .pcpMap => 1
  | .port => if idx < 2 then 3 else 6
  | .meter => if idx < 16 then 9 else 2
  | .queue => if idx < 8 then 3 else if idx < 10 then 1 else 2
  | .pool => 4
  | .operator => 9
  | .console => if idx = 0 then 10 else 4
  | .pattern => 25
  | .region => 19
  | .mediaParams => 3
  | .line => 4
  | .sense => 2
  | .senseTrigger => 6
  | .scriptDir => 5
  | .scriptStep => 6

/-- The body-form test on an entry: "For an index beyond the table's entries, any entry length passes" (R180). -/
def TableId.entryForm (t : TableId) (idx : Nat) (entry : List Byte) : Bool :=
  t.entries ≤ idx || entry.length == t.entryLength idx

/-- Table id, index and entry of a TABLE_WRITE body. -/
def Rec.tableCode (r : Rec) : Nat := fieldAt 0 1 r.body
def Rec.tableIndex (r : Rec) : Nat := fieldAt 1 1 r.body
def Rec.tableEntry (r : Rec) : List Byte := r.body.drop 2

/-- The command that executes a record: its type of 11.2, told apart further by its table, index, flag or target where the
opcode table has more than one row for a type (notes/assumptions/3.md). -/
def Rec.command (r : Rec) : Instr :=
  match r.type.toNat with
  | 0x0001 => .identify
  | 0x0002 => .tableRead
  | 0x0003 =>
    match if r.body.isEmpty then none else TableId.ofCode r.tableCode with
    | none => .tableWriteUnknown
    | some .domain => if r.tableIndex = 16 then .tableWriteMgmtDomain else .tableWriteDomain
    | some .steering => .tableWriteSteering
    | some .pcpMap => .tableWritePcpMap
    | some .port => .tableWritePort
    | some .meter => if r.tableIndex = 16 then .tableWriteMeterSettings else .tableWriteMeter
    | some .queue => .tableWriteQueue
    | some .pool => .tableWritePool
    | some .operator => .tableWriteOperator
    | some .console => if r.tableIndex = 1 then .tableWriteConsoleHistory else .tableWriteConsoleLine
    | some .pattern => .tableWritePattern
    | some .region => .tableWriteRegion
    | some .mediaParams => .tableWriteMediaParams
    | some .line => .tableWriteLine
    | some .sense => .tableWriteSense
    | some .senseTrigger => .tableWriteSenseTrigger
    | some .scriptDir => .tableWriteScriptDir
    | some .scriptStep => .tableWriteScriptStep
  | 0x0010 => if r.flag then .consoleBaudAuto else .consoleBaud
  | 0x0011 => if r.flag then .consoleClaimForce else .consoleClaim
  | 0x0012 => .consoleRelease
  | 0x0013 => .consoleType
  | 0x0014 => .consoleBreak
  | 0x0015 => .consoleMark
  | 0x0016 => .consoleArm
  | 0x0017 => .consoleWatch
  | 0x0018 => .consoleUnwatch
  | 0x0019 => .consoleFetch
  | 0x001A => .consoleMarks
  | 0x0020 => .mediaAttach
  | 0x0021 => if r.flag then .mediaDetachDiscard else .mediaDetach
  | 0x0022 => .mediaResume
  | 0x0023 => .mediaStatus
  | 0x0030 => .powerRequest
  | 0x0031 => if fieldAt 0 1 r.body = 0 then .powerCancelRunning else .powerCancelQueued
  | 0x0032 => .powerStatus
  | 0x0033 => .lineStatus
  | 0x0040 => .timeSet
  | 0x0041 => if r.flag then .statsReadClear else .statsRead
  | 0x0042 => .store
  | 0x0043 => if r.flag then .restartForce else .restart
  | _ => .recordUnknownType

/-- The privileges a record may need (3.2). -/
inductive Need where
  | none | view | typing | media | power | admin
deriving DecidableEq, Repr

/-- What a record needs (R48), the further privilege for its flag included: each further privilege is ADMIN, which grants
the record's own. -/
def Rec.need (r : Rec) : Need :=
  match r.type.toNat with
  | 0x0001 => .none
  | 0x0002 => .view
  | 0x0003 => .admin
  | 0x0010 => .admin
  | 0x0011 => if r.flag then .admin else .typing
  | 0x0012 | 0x0013 | 0x0014 | 0x0015 | 0x0016 => .typing
  | 0x0017 | 0x0018 | 0x0019 | 0x001A => .view
  | 0x0020 | 0x0021 | 0x0022 => .media
  | 0x0023 => .view
  | 0x0030 | 0x0031 => .power
  | 0x0032 | 0x0033 => .view
  | 0x0040 => .admin
  | 0x0041 => if r.flag then .admin else .view
  | 0x0042 | 0x0043 => .admin
  | _ => .none

/-- Whether a privilege set grants a need: ADMIN grants all five (3.2). -/
def Privileges.grants (p : Privileges) : Need → Bool
  | .none => true
  | .view => p.admin || p.view
  | .typing => p.admin || p.typing
  | .media => p.admin || p.media
  | .power => p.admin || p.power
  | .admin => p.admin

def Privileges.bytes (p : Privileges) : List Byte := maskByte [p.view, p.typing, p.media, p.power, p.admin]

/-- The body lengths 11.2 allows, for the types whose body is not a table's. -/
def bodyLengthOk (type n : Nat) : Bool :=
  match type with
  | 0x0001 | 0x0011 | 0x0012 | 0x0018 | 0x0032 | 0x0033 | 0x0042 | 0x0043 => n == 0
  | 0x0010 => n == 4
  | 0x0013 => n ≤ 1392
  | 0x0014 | 0x0015 => n == 2
  | 0x0016 | 0x0020 | 0x0021 | 0x0022 | 0x0023 | 0x0041 => n == 1
  | 0x0017 => n == 9
  | 0x0019 => n == 8
  | 0x001A => n == 0 || n == 4
  | 0x0030 => n == 1 || n == 2
  | 0x0031 => n == 2
  | 0x0040 => n == 5
  | _ => true

/-! ### Table entries: reading (11.3) -/

def portSetAt (off : Nat) (bs : List Byte) : PortSet := ⟨maskBit off 0 bs, maskBit off 1 bs, maskBit off 2 bs⟩
/-- A subset of U and S: the other bits name nothing and are ignored (11.1). -/
def portPairAt (off : Nat) (bs : List Byte) : PortSet := ⟨maskBit off 0 bs, maskBit off 1 bs, false⟩

def readDomain (bs : List Byte) : Domain := ⟨flagAt 0 bs, fieldAt 1 2 bs, portSetAt 3 bs, portPairAt 4 bs⟩

def readSteering (bs : List Byte) : Steering :=
  { valid := flagAt 0 bs, ingress := portPairAt 1 bs, hasDst := maskBit 2 0 bs, hasSrc := maskBit 2 1 bs,
    hasVid := maskBit 2 2 bs, hasType := maskBit 2 3 bs, hasPcp := maskBit 2 4 bs, dst := macAt 3 bs, src := macAt 9 bs,
    vid := fieldAt 15 2 bs, etherType := BitVec.ofNat 16 (fieldAt 17 2 bs), pcp := fieldAt 19 1 bs, action := fieldAt 20 1 bs,
    override := optAt 21 bs, meter := optAt 23 bs, rewrite := optAt 25 bs, hits := 0 }

def readOperator (bs : List Byte) : Operator :=
  ⟨flagAt 0 bs, flagAt 1 bs, macAt 2 bs, ⟨maskBit 8 0 bs, maskBit 8 1 bs, maskBit 8 2 bs, maskBit 8 3 bs, maskBit 8 4 bs⟩, 0⟩

def readPattern (bs : List Byte) : Pattern :=
  { valid := flagAt 0 bs, len := fieldAt 1 1 bs, bytes := (bs.drop 2).take 16, fold := flagAt 18 bs,
    qualifier := fieldAt 19 1 bs, mark := maskBit 20 0 bs, notify := maskBit 20 1 bs, request := maskBit 20 2 bs,
    script := fieldAt 21 1 bs, prio := fieldAt 22 1 bs, preempt := flagAt 23 bs, mode := fieldAt 24 1 bs,
    armed := flagAt 0 bs, hits := 0, window := [] }

def readRegionConfig (bs : List Byte) : RegionConfig :=
  { valid := flagAt 0 bs, server := macAt 1 bs, domain := fieldAt 7 1 bs, imageId := BitVec.ofNat 32 (fieldAt 8 4 bs),
    writeProtect := flagAt 12 bs, bootOnly := flagAt 13 bs, service := fieldAt 14 1 bs, prefetch := fieldAt 15 1 bs,
    holdMs := fieldAt 16 2 bs, autoAttach := flagAt 18 bs }

def readTrigger (bs : List Byte) : Trigger :=
  ⟨flagAt 0 bs, fieldAt 1 1 bs, fieldAt 2 1 bs, fieldAt 3 1 bs, fieldAt 4 1 bs, flagAt 5 bs, 0⟩

def readScriptDir (bs : List Byte) : ScriptDir := ⟨flagAt 0 bs, fieldAt 1 2 bs, fieldAt 3 1 bs, flagAt 4 bs⟩

def readStep (bs : List Byte) : Step := ⟨fieldAt 0 1 bs, fieldAt 1 1 bs, fieldAt 2 2 bs, fieldAt 4 2 bs⟩

/-! ### Table entries: writing (11.3) -/

def PortSet.bytes (p : PortSet) : List Byte := maskByte [p.u, p.s, p.m]

def Domain.bytes (d : Domain) : List Byte := flagByte d.valid ++ natBytes 2 d.vid ++ d.members.bytes ++ d.tag.bytes

def Steering.bytes (e : Steering) : List Byte :=
  flagByte e.valid ++ e.ingress.bytes ++ maskByte [e.hasDst, e.hasSrc, e.hasVid, e.hasType, e.hasPcp] ++ macBytes e.dst ++
    macBytes e.src ++ natBytes 2 e.vid ++ natBytes 2 e.etherType.toNat ++ natBytes 1 e.pcp ++ natBytes 1 e.action ++
    optBytes 1 e.override ++ optBytes 1 e.meter ++ optBytes 1 e.rewrite

def PortSettings.bytes (p : PortSettings) : List Byte := natBytes 2 p.pvid ++ natBytes 1 p.defaultClass.val

def Meter.bytes (m : Meter) : List Byte := natBytes 4 m.rate ++ natBytes 4 m.burst ++ natBytes 1 m.mode.code

def ClassQueue.bytes (q : ClassQueue) : List Byte := natBytes 2 q.cellLimit ++ natBytes 1 q.weight

def Operator.bytes (o : Operator) : List Byte := flagByte o.valid ++ flagByte o.wildcard ++ macBytes o.addr ++ o.privs.bytes

def LineSettings.bytes (l : LineSettings) : List Byte :=
  natBytes 1 (if l.eight then 8 else 7) ++ natBytes 1 l.parity.code ++ natBytes 1 (if l.twoStop then 2 else 1) ++
    natBytes 1 (boolNat l.rtsCts) ++ natBytes 4 l.div ++ natBytes 2 l.idleLimit

def Pattern.entryBytes (p : Pattern) : List Byte :=
  flagByte p.valid ++ natBytes 1 p.len ++ p.bytes ++ flagByte p.fold ++ natBytes 1 p.qualifier ++
    maskByte [p.mark, p.notify, p.request] ++ natBytes 1 p.script ++ natBytes 1 p.prio ++ flagByte p.preempt ++ natBytes 1 p.mode

def RegionConfig.bytes (c : RegionConfig) : List Byte :=
  flagByte c.valid ++ macBytes c.server ++ natBytes 1 c.domain ++ natBytes 4 c.imageId.toNat ++ flagByte c.writeProtect ++
    flagByte c.bootOnly ++ natBytes 1 c.service ++ natBytes 1 c.prefetch ++ natBytes 2 c.holdMs ++ flagByte c.autoAttach

def Trigger.bytes (t : Trigger) : List Byte :=
  flagByte t.valid ++ natBytes 1 t.line ++ natBytes 1 t.edge ++ natBytes 1 t.script ++ natBytes 1 t.prio ++ flagByte t.preempt

def ScriptDir.bytes (d : ScriptDir) : List Byte :=
  flagByte d.valid ++ natBytes 2 d.first ++ natBytes 1 d.prio ++ flagByte d.preemptible

def Step.bytes (t : Step) : List Byte := natBytes 1 t.op ++ natBytes 1 t.operand ++ natBytes 2 t.arg ++ natBytes 2 t.delay

/-- An output line's entry; the guard field of lines other than OUTLET reads back as 0 (R135). -/
def OutLine.bytes (l : OutLine) (guardSecs : Nat) : List Byte :=
  natBytes 1 l.cls.code ++ natBytes 1 (boolNat l.idle) ++ natBytes 2 guardSecs

/-! ### Media frames (11.4) -/

/-- Whether a frame of the media inbox is the one a command takes: from port S by its type byte and op, from port U by its type
byte and length (R181, R182). -/
def MediaIn.command (m : MediaIn) : Instr :=
  let p := m.frame.payload
  match m.port with
  | .s =>
    if fieldAt 0 1 p = 0x01 then
      match fieldAt 2 1 p with
      | 0 => .blkRead
      | 1 => .blkWrite
      | 2 => .blkInquire
      | 3 => .blkSync
      | _ => .blkMalformed
    else .blkMalformed
  | .u =>
    match fieldAt 0 1 p with
    | 0x11 => if p.length < 13 then .imgMalformedAnswer else .imgInfo
    | 0x13 =>
      if p.length < 9 then .imgMalformedAnswer
      else
        let n := fieldAt 8 1 p
        if fieldAt 7 1 p = 0 ∧ (n = 0 ∨ 2 < n ∨ p.length < 9 + n * 516) then .imgMalformedAnswer else .imgData
    | 0x15 => if p.length < 8 then .imgMalformedAnswer else .imgWriteAck
    | _ => .imgMalformedAnswer

/-- The reply statuses of the server block protocol (6.6), in the order that codes them (11.4). -/
inductive BlkStatus where
  | ok | notReady | busy | noUnit | range | prot | mediaError | malformed
deriving DecidableEq, Repr

def BlkStatus.code : BlkStatus → Nat
  | .ok => 0 | .notReady => 1 | .busy => 2 | .noUnit => 3 | .range => 4 | .prot => 5 | .mediaError => 6 | .malformed => 7

/-- The fields of a block request (11.4). -/
structure BlkRequest where
  mac : Mac
  domain : Fin 16
  type : Nat
  unit : Nat
  op : Nat
  count : Nat
  tag : Half
  first : Nat
  data : List Byte
deriving DecidableEq, Repr

def MediaIn.request (m : MediaIn) : BlkRequest :=
  let p := m.frame.payload
  { mac := m.frame.src, domain := m.domain, type := fieldAt 0 1 p, unit := fieldAt 1 1 p, op := fieldAt 2 1 p, count := fieldAt 3 1 p,
    tag := BitVec.ofNat 16 (fieldAt 4 2 p), first := fieldAt 6 4 p, data := p.drop 10 }

/-- The type byte of a BLK_REQUEST (11.4). -/
def blkRequestType : Nat := 0x01

/-- A BLK_REPLY's bytes: type, unit, op and tag as received (11.4, R181, notes/assumptions/17.md). -/
def blkReplyBytes (type unit op count : Nat) (tag : Half) (first : Nat) (st : BlkStatus) (body : List Byte) : List Byte :=
  natBytes 1 type ++ natBytes 1 unit ++ natBytes 1 op ++ natBytes 1 count ++ natBytes 2 tag.toNat ++ natBytes 4 first ++
    natBytes 1 st.code ++ body

/-- The fields every IMG frame has (11.4). -/
def imgIndex (p : List Byte) : Nat := fieldAt 1 1 p
def imgGen (p : List Byte) : Byte := BitVec.ofNat 8 (fieldAt 2 1 p)
def imgId (p : List Byte) : BitVec 32 := BitVec.ofNat 32 (fieldAt 3 4 p)
def imgStatus (p : List Byte) : Nat := fieldAt 7 1 p

/-- The sectors an IMG_DATA carries, in order: number and 512 bytes each (11.4). -/
def imgSectors : Nat → List Byte → List (Nat × List Byte)
  | 0, _ => []
  | n + 1, bs => (fieldAt 0 4 bs, (bs.drop 4).take Config.sectorBytes) :: imgSectors n (bs.drop 516)

/-- The header of an IMG frame: type byte, transfer index, generation, image id (11.4). -/
def imgHeader (type : Nat) (idx : Fin 16) (gen : Byte) (id : BitVec 32) : List Byte :=
  natBytes 1 type ++ natBytes 1 idx.val ++ natBytes 1 gen.toNat ++ natBytes 4 id.toNat

end Sys2Proof.Machine
end

