-- ==== Sys2Proof/Machine/Flags.lean ====
section
/-! DEFINITION. The computed conditions and arithmetic the rules speak of: times, credits, ring offsets, character judgement,
readability of lines and the like. None of these changes the state. -/

namespace Sys2Proof.Machine

/-! ### Numbers -/

/-- "clamped to the nearest end of the range" (spec/00_scope.md, R50). -/
def clamp (lo hi v : Nat) : Nat := max lo (min hi v)

/-- A class, clamped to 0..3 (R3, R16, R35). -/
def clampClass (v : Nat) : Fin 4 := ⟨min v 3, Nat.lt_of_le_of_lt (Nat.min_le_right v 3) (by decide)⟩

/-- An index when it lies in the table. -/
def idx? (n v : Nat) : Option (Fin n) := if h : v < n then some ⟨v, h⟩ else none

/-- The first index, from 0 upwards, at which a test holds. -/
def firstIdx (n : Nat) (p : Fin n → Bool) : Option (Fin n) := (List.finRange n).find? p

/-! ### Device time (R167) -/

/-- Microseconds from `since` to `now`, modulo 2^48. -/
def elapsed (now since : Time) : Nat := (now - since).toNat

/-- A device time has been reached: deadlines are set less than 2^47 µs ahead, so one not reached lies that far ahead at
most (R167, notes/assumptions/36.md). -/
def reached (now due : Time) : Bool := elapsed now due < 2 ^ 47

def afterUs (t : Time) (us : Nat) : Time := t + BitVec.ofNat 48 us
def afterMs (t : Time) (ms : Nat) : Time := afterUs t (ms * 1000)
def afterSecs (t : Time) (secs : Nat) : Time := afterUs t (secs * 1000000)

/-- A duration in core cycles that began in the microsecond `since` may have ended by `now`: it is not surely early
(notes/assumptions/28.md). -/
def mayHavePassed (now since : Time) (cycles : Nat) : Bool := cycles < (elapsed now since + 1) * Config.coreCyclesPerUs

/-- A duration in core cycles that began in the microsecond `since` has surely ended by `now`. -/
def surelyPassed (now since : Time) (cycles : Nat) : Bool :=
  cycles + Config.coreCyclesPerUs ≤ elapsed now since * Config.coreCyclesPerUs

/-- A count of whole core cycles that began in the microsecond `since` may end by `now` with this value
(notes/assumptions/28.md). -/
def mayHaveCounted (now since : Time) (cycles : Nat) : Bool :=
  mayHavePassed now since cycles && !surelyPassed now since (cycles + 1)

/-- The same for a duration in nanoseconds. -/
def mayHavePassedNs (now since : Time) (ns : Nat) : Bool := ns < (elapsed now since + 1) * 1000

/-- The epoch at the present device time, absent until TIME_SET (R168). -/
def Clock.epoch (c : Clock) : Option Nat :=
  c.anchor.map fun a => (a.value + elapsed c.now a.at' / 1000000) % 2 ^ 40

/-! ### Ports -/

def PerPort.get {α : Type} (x : PerPort α) : Port → α
  | .u => x.u
  | .s => x.s

def PerPort.set {α : Type} (x : PerPort α) (p : Port) (v : α) : PerPort α :=
  match p with
  | .u => { x with u := v }
  | .s => { x with s := v }

def oppositePort : Port → Port
  | .u => .s
  | .s => .u

def PortSet.has (m : PortSet) : Port → Bool
  | .u => m.u
  | .s => m.s

/-- Nanoseconds for one byte at a speed: 8 bits (R36). -/
def nsPerByte : Speed → Nat
  | .mbit10 => 800
  | .mbit100 => 80
  | .mbit1000 => 8

/-- How long a transmission lasts: egress length plus 20 bytes (R36). -/
def transmissionNs (sp : Speed) (f : Frame) : Nat := (f.length + Config.chargeExtra) * nsPerByte sp

/-! ### Domains and steering (R6, R10 to R18) -/

/-- The valid domain entry with a VID (R6). -/
def Domains.find (d : Domains) (vid : Nat) : Option (Fin 16) := firstIdx 16 fun i => d.entries[i].valid && d.entries[i].vid == vid

/-- The resolved VID of a frame at a port: none for VID 4095 (R6). -/
def resolveVid (pvid : Nat) (f : Frame) : Option Nat :=
  match f.tag with
  | none => some pvid
  | some t => if t.vid = 0 then some pvid else if t.vid = 4095 then none else some t.vid

/-- What R11 asks of the entry MGMT_DOMAIN names. -/
def Domain.managementOk (d : Domain) : Bool := d.valid && d.members.u && d.members.m && !d.members.s

/-- Whether a valid steering entry names a domain as VID rewrite target (R11, R12). -/
def rewritesTo (st : Vector Steering 64) (i : Fin 16) : Bool := st.toList.any fun e => e.valid && e.rewrite == some i.val

/-- Whether a valid region names a domain as its image domain (R12). -/
def imageDomainOf (rs : Vector Region 4) (i : Fin 16) : Bool := rs.toList.any fun r => r.cfg.valid && r.cfg.domain == i.val

/-- R14: every present match field holds, and the arrival port is in the ingress set. -/
def Steering.matches (e : Steering) (p : Port) (vid : Nat) (f : Frame) : Bool :=
  e.valid && e.ingress.has p && (!e.hasDst || e.dst == f.dst) && (!e.hasSrc || e.src == f.src) && (!e.hasVid || e.vid == vid) &&
    (!e.hasType || e.etherType == f.etherType) &&
    (!e.hasPcp || (match f.tag with
      | none => false
      | some t => e.pcp == t.pcp.val))

/-- The first matching entry (R14). -/
def steeringMatch (st : Vector Steering 64) (p : Port) (vid : Nat) (f : Frame) : Option (Fin 64) :=
  firstIdx 64 fun i => st[i].matches p vid f

/-- R16: class override, then the map for a tagged frame's PCP, then the port's default class. -/
def frameClass (override : Option Nat) (map : Vector (Fin 4) 8) (dflt : Fin 4) (f : Frame) : Fin 4 :=
  match override with
  | some c => clampClass c
  | none =>
    match f.tag with
    | some t => map[t.pcp]
    | none => dflt

/-- The PCP of a tag the part adds: the lowest PCP mapped to the class, or 0 (R20). -/
def addedPcp (map : Vector (Fin 4) 8) (cls : Fin 4) : Fin 8 := (firstIdx 8 fun i => map[i] == cls).getD 0

/-- The egress form of a frame, none where adding a tag would take it beyond 1522 bytes (R20). -/
def egressForm (tagged : Bool) (vid : Nat) (pcp : Fin 8) (f : Frame) : Option Frame :=
  if tagged then
    match f.tag with
    | some t => some { f with tag := some { t with vid := vid } }
    | none =>
      let g := { f with tag := some ⟨pcp, vid⟩ }
      if Config.maxFrame < g.length then none else some g
  else some (Frame.padded { f with tag := none })

/-! ### Meters (R28, R29, R31) -/

/-- The charge of a frame of this length (R29). -/
def chargeOf (len : Nat) : Nat := len + Config.chargeExtra

/-- The credit updated to the present device time, for a RATE other than 0 (R28). -/
def Meter.creditAt (m : Meter) (now : Time) : Nat :=
  let full := m.burst * 1000
  let e := elapsed now m.last
  if (full + m.rate - 1) / m.rate ≤ e then full else min full (m.credit + e * m.rate)

/-- A frame of this charge is presented to the meter: the meter after, and whether the frame conforms (R28, R29). -/
def Meter.present (m : Meter) (now : Time) (q : Nat) : Meter × Bool :=
  if m.rate = 0 then ({ m with conform := m.conform + 1 }, true)
  else
    let c := m.creditAt now
    if q * 1000 ≤ c then ({ m with credit := c - q * 1000, last := now, conform := m.conform + 1 }, true)
    else ({ m with credit := c, last := now, exceed := m.exceed + 1 }, false)

/-- The wait of a frame that did not conform: ceil((q × 1000 − c′) / r) µs, with the credit as updated (R31). -/
def Meter.waitUs (m : Meter) (q : Nat) : Nat := (q * 1000 - m.credit + m.rate - 1) / m.rate

/-! ### Queues -/

def ClassQueue.cells (q : ClassQueue) : Nat := (q.frames.map fun f => f.frame.cells).sum

/-- Whether a class queue's own limits have room for so many cells (R34). -/
def ClassQueue.room (q : ClassQueue) (cells : Nat) : Bool :=
  q.frames.length < Config.classQueueLimit && q.cells + cells ≤ q.cellLimit

def outCells (fs : List OutFrame) : Nat := (fs.map fun f => f.frame.cells).sum

/-- The head of the highest-numbered non-empty class (R37). -/
def Egress.strictClass (e : Egress) : Option (Fin 4) := [3, 2, 1, 0].find? fun c : Fin 4 => !e.queues[c].frames.isEmpty

def Egress.empty (e : Egress) : Bool := e.queues.toList.all fun q => q.frames.isEmpty

/-- The egress side with the frames of one class replaced. -/
def Egress.withFrames (e : Egress) (c : Fin 4) (fs : List QFrame) (deficit : Nat) : Egress :=
  { e with queues := e.queues.set c { e.queues[c] with frames := fs, deficit := deficit } }

/-- The visit ends and the pointer moves to the next class of the order 3, 2, 1, 0, 3 (R38). -/
def Egress.moveOn (e : Egress) : Egress := { e with visit := e.visit - 1, granted := false }

/-- A choice in STRICT mode (R37). -/
def Egress.strictPick (e : Egress) : Option (QFrame × Fin 4 × Egress) :=
  match e.strictClass with
  | none => none
  | some c =>
    match e.queues[c].frames with
    | [] => none
    | f :: rest => some (f, c, e.withFrames c rest e.queues[c].deficit)

/-- A choice in WEIGHTED mode: the walk of the visit pointer (R38), over at most `fuel` visits. When the chosen frame empties
the queue the visit ends and the pointer moves on (notes/assumptions/33.md). -/
def Egress.weightedPick : Nat → Egress → Option (QFrame × Fin 4 × Egress)
  | 0, _ => none
  | fuel + 1, e =>
    let q := e.queues[e.visit]
    match q.frames with
    | [] => weightedPick fuel (e.withFrames e.visit [] 0).moveOn
    | f :: rest =>
      let d := if e.granted then q.deficit else q.deficit + q.weight * 256
      if f.frame.length ≤ d then
        if rest.isEmpty then some (f, e.visit, (e.withFrames e.visit [] 0).moveOn)
        else some (f, e.visit, { (e.withFrames e.visit rest (d - f.frame.length)) with granted := true })
      else weightedPick fuel (e.withFrames e.visit q.frames d).moveOn

/-- Visits that are enough for a choice: a frame of 1,522 bytes is chosen within six visits to its class (R38). -/
def walkFuel : Nat := 32

/-- A choice by the port's mode; none when all four queues are empty (R36). -/
def Egress.pick (e : Egress) : Option (QFrame × Fin 4 × Egress) :=
  if e.empty then none
  else
    match e.mode with
    | .strict => e.strictPick
    | .weighted => e.weightedPick walkFuel

/-! ### Operators (R43, R45) -/

/-- The entry that admits a source address: the first valid one with that address or the wildcard (R43). -/
def admittedBy (ops : Vector Operator 8) (src : Mac) : Option (Fin 8) :=
  firstIdx 8 fun i => ops[i].valid && (ops[i].wildcard || ops[i].addr == src)

/-- Some valid entry holds ADMIN (R45). -/
def someAdmin (ops : Vector Operator 8) : Bool := ops.toList.any fun o => o.valid && o.privs.admin

/-! ### Console line (R60 to R70) -/

def LineSettings.char (l : LineSettings) : CharSettings := ⟨l.eight, l.parity, l.twoStop, l.div⟩

def CharSettings.dataBits (c : CharSettings) : Nat := if c.eight then 8 else 7
def CharSettings.parityBits (c : CharSettings) : Nat := if c.parity = .none then 0 else 1
def CharSettings.stopBits (c : CharSettings) : Nat := if c.twoStop then 2 else 1

/-- F, the bits of one character frame (4.1). -/
def CharSettings.frameBits (c : CharSettings) : Nat := 1 + c.dataBits + c.parityBits + c.stopBits

/-- One character lasts F × DIV cycles (4.1). -/
def CharSettings.cycles (c : CharSettings) : Nat := c.frameBits * c.div

/-- The cycles from the falling edge to the k-th sample after the start bit; k = 0 is the start bit's own (R64). -/
def CharSettings.samplePoint (c : CharSettings) (k : Nat) : Nat := k * c.div + c.div / 2

/-- The data bits of a byte, least significant first (R62, R63). -/
def dataBitsOf (c : CharSettings) (b : Byte) : List Bool := (List.range c.dataBits).map fun i => b.getLsbD i

def oddOnes (bits : List Bool) : Bool := bits.foldl (fun a b => a != b) false

/-- The parity bit: it makes the number of high bits even under EVEN, odd under ODD (R62). -/
def parityBitOf (p : Parity) (data : List Bool) : List Bool :=
  match p with
  | .none => []
  | .even => [oddOnes data]
  | .odd => [!oddOnes data]

/-- The levels a character puts on TX, one for each bit time (R62, R63). -/
def wireBits (c : CharSettings) (b : Byte) : List Bool :=
  let data := dataBitsOf c b
  false :: data ++ parityBitOf c.parity data ++ List.replicate c.stopBits true

/-- The level of TX so many core cycles after the transmitter came to what it does (R63, R71): high but for the low bits of a
character and for a break. -/
def Transmitter.level (cycles : Nat) : Transmitter → Bool
  | .idle => true
  | .character b c _ => (wireBits c b).getD (cycles / c.div) true
  | .brk _ _ _ => false
  | .gap _ _ => true

/-- The value of data bits, least significant first (R65). -/
def dataValue (bits : List Bool) : Byte := BitVec.ofNat 8 (bits.foldr (fun b a => 2 * a + boolNat b) 0)

/-- A character's value, framing error and parity error, from the samples after the start bit (R65). -/
def judgeCharacter (c : CharSettings) (samples : List Bool) : Byte × Bool × Bool :=
  let data := samples.take c.dataBits
  let par := (samples.drop c.dataBits).take c.parityBits
  let stop := samples.drop (c.dataBits + c.parityBits)
  (dataValue data, stop.any (fun b => !b), par != parityBitOf c.parity data)

/-- DIV for a requested baud: the quotient to the nearest integer, halves up, clamped (R61). -/
def divOfBaud (b : Nat) : Nat := clamp Config.divMin Config.divMax ((Config.coreHz + b / 2) / b)

/-- The obtained baud (R61). -/
def obtainedBaud (div : Nat) : Nat := Config.coreHz / div

/-- The standard rates with their divisors (4.3). -/
def standardRates : List (Nat × Nat) :=
  [(2400, 41667), (4800, 20833), (9600, 10417), (19200, 5208), (38400, 2604), (57600, 1736), (115200, 868), (230400, 434),
    (460800, 217), (921600, 109)]

def distance (a b : Nat) : Nat := (a - b) + (b - a)

/-- The nearer of two rates to an interval, the earlier where they are as near. -/
def nearer (m : Nat) (best : Option (Nat × Nat)) (r : Nat × Nat) : Option (Nat × Nat) :=
  match best with
  | none => some r
  | some b => if distance m r.2 < distance m b.2 then some r else some b

/-- The standard rate a smallest interval snaps to: |m − D| × 100 ≤ 3 × D, with the least |m − D| (R69). -/
def snapRate (m : Nat) : Option (Nat × Nat) :=
  (standardRates.filter fun r => distance m r.2 * 100 ≤ 3 * r.2).foldl (nearer m) none

/-- DIV from the smallest interval (R69). -/
def divOfInterval (m : Nat) : Nat :=
  ((snapRate m).map (·.2)).getD (clamp Config.divMin Config.divMax m)

/-- The idle limit has passed since the owner's last activity (R75). -/
def idleExpired (now : Time) (limit : Nat) (o : Owner) : Bool := limit != 0 && limit * 1000000 ≤ elapsed now o.last

/-! ### Console history (R79, R80, R86, R92) -/

/-- H, the number of bytes the ring holds (R79). -/
def History.held (h : History) : Nat := h.ring.length

/-- OLDEST (R79). -/
def History.oldest (h : History) : Offset := h.newest - BitVec.ofNat 48 h.held

/-- How far an offset lies behind NEWEST, modulo 2^48 (5.1). -/
def History.behind (h : History) (x : Offset) : Nat := (h.newest - x).toNat

/-- How an offset stands to the ring (5.1). -/
inductive OffsetRelation where
  | held
  | ahead
  | below
deriving DecidableEq, Repr

def History.relation (h : History) (x : Offset) : OffsetRelation :=
  let d := h.behind x
  if d = 0 ∨ 2 ^ 47 ≤ d then .ahead else if d ≤ h.held then .held else .below

/-- `n` bytes of the ring from offset `x`, which lies in OLDEST..NEWEST (R80, R88). -/
def History.slice (h : History) (x : Offset) (n : Nat) : List Byte :=
  (((h.ring.take (h.behind x)).reverse).take n)

/-- The push delay has passed since a watcher's pending-since time (R86). -/
def delayPassed (h : History) (now : Time) (w : Watcher) : Bool :=
  match w.pendingSince with
  | none => false
  | some t => h.delay * 1000 ≤ elapsed now t

/-- The conditions of dueness (R86). -/
def watcherDue (h : History) (now : Time) (w : Watcher) : Bool :=
  w.wantsData && (h.threshold ≤ h.behind w.next || delayPassed h now w)

/-- Under case-fold each of A to Z is taken as equal to a to z (R92). -/
def foldByte (b : Byte) : Byte := if 0x41 ≤ b.toNat ∧ b.toNat ≤ 0x5A then b + 0x20 else b

/-- The match window after a byte: the last L bytes (R92). -/
def Pattern.push (p : Pattern) (b : Byte) : List Byte :=
  let w := p.window ++ [b]
  w.drop (w.length - p.len)

/-- The window holds L bytes and equals the pattern (R92). -/
def Pattern.windowMatches (p : Pattern) (w : List Byte) : Bool :=
  w.length == p.len &&
    (if p.fold then w.map foldByte == (p.bytes.take p.len).map foldByte else w == p.bytes.take p.len)

/-- The qualifier holds (R92). -/
def qualifierHolds (q : Nat) (ps : PowerState) (windowOpen : Bool) : Bool :=
  match q with
  | 0 => true
  | 1 => ps == .on
  | 2 => windowOpen
  | _ => false

/-! ### Media (R106 to R133) -/

/-- DIRTY, FLUSHING or REDIRTIED. -/
def LineCond.isDirty : LineCond → Bool
  | .filling _ => false
  | .clean => false
  | .dirty => true
  | .flushing _ => true
  | .redirtied _ => true

/-- Readable by the server (7.1). -/
def LineCond.readable : LineCond → Bool
  | .filling _ => false
  | .clean => true
  | .dirty => true
  | .flushing _ => true
  | .redirtied _ => true

/-- The index of the state in the list of 7.1: FILLING, CLEAN, DIRTY, FLUSHING, REDIRTIED. -/
def LineCond.code : LineCond → Nat
  | .filling _ => 0 | .clean => 1 | .dirty => 2 | .flushing _ => 3 | .redirtied _ => 4

def CacheLine.isFor (g : Fin 4) (x : Nat) (l : CacheLine) : Bool := l.region == g && l.sector == x

def Media.findLine (m : Media) (g : Fin 4) (x : Nat) : Option CacheLine := m.lines.find? (CacheLine.isFor g x)

/-- A held READ awaits every line whose sector lies in its requested range (R111). -/
def Held.awaitsLine (h : Held) (l : CacheLine) : Bool :=
  h.op == .read && h.unit == l.region && h.first ≤ l.sector && l.sector < h.first + h.count

/-- R117. -/
def Media.evictable (m : Media) (l : CacheLine) : Bool := l.cond == .clean && !m.held.any (fun h => h.awaitsLine l)

/-- The number of DIRTY, FLUSHING and REDIRTIED lines across all regions (R116). -/
def Media.dirtyCount (m : Media) : Nat := m.lines.countP fun l => l.cond.isDirty

def Media.regionDirty (m : Media) (g : Fin 4) : Nat := m.lines.countP fun l => l.region == g && l.cond.isDirty

/-- Lines of a region in the state with this code (R114). -/
def Media.regionLines (m : Media) (g : Fin 4) (code : Nat) : Nat := m.lines.countP fun l => l.region == g && l.cond.code == code

def Media.linesIn (m : Media) (code : Nat) : Nat := m.lines.countP fun l => l.cond.code == code

/-- Transfer entries of a kind in use (R119, R127). -/
def Media.inUse (m : Media) (k : TransferKind) : Nat :=
  m.table.toList.countP fun t => match t.use with
    | none => false
    | some u => u.kind == k

/-- The lowest free transfer entry (R121). -/
def Media.freeEntry (m : Media) : Option (Fin 16) := firstIdx 16 fun i => m.table[i].use.isNone

/-- The requested sectors: first, and first + 1 when the count is 2 (R106). -/
def sectorsOf (first count : Nat) : List Nat := (List.range count).map fun i => first + i

/-- R118: the end of x's aligned block, or the sector count. -/
def runEnd (prefetch sectors x : Nat) : Nat := min ((x / prefetch + 1) * prefetch) sectors

/-- The run of a fill: from x through each following sector below the end that has no line (R118). -/
def Media.runFrom (m : Media) (g : Fin 4) (x limit : Nat) : Nat → List Nat
  | 0 => []
  | fuel + 1 => if x < limit ∧ (m.findLine g x).isNone then x :: m.runFrom g (x + 1) limit fuel else []

/-- Sectors of a FETCH not yet received, in order (R122, R125). -/
def Transfer.missing (t : Transfer) : List Nat := (sectorsOf t.first t.count).filter fun x => !t.received.contains x

/-- The span a FETCH asks for: from the first unreceived sector to the last (R122). -/
def Transfer.span (t : Transfer) : Nat × Nat :=
  match t.missing with
  | [] => (t.first, t.count)
  | a :: rest => (a, (a :: rest).getLast (by simp) + 1 - a)

/-- What the request frame of a FETCH asks for: all of it, and on a retry the span (R122). -/
def Transfer.asked (t : Transfer) : Nat × Nat := if t.attempts = 1 then (t.first, t.count) else t.span

/-- Readable: the sector has a line in a readable state (R107). -/
def Media.sectorReadable (m : Media) (g : Fin 4) (x : Nat) : Bool :=
  match m.findLine g x with
  | none => false
  | some l => l.cond.readable

/-- What a readable sector's line holds (R107). -/
def Media.sectorData (m : Media) (g : Fin 4) (x : Nat) : List Byte :=
  match m.findLine g x with
  | none => []
  | some l => l.data

/-! ### Power (R138, R145, R150, R161) -/

/-- The guard's expiry: the fall plus the guard time recorded (R138). -/
def GuardRecord.expiry (g : GuardRecord) : Time := afterSecs g.fall g.secs

/-- A drive of OUTLET to 1 passes the guard test (R138). -/
def guardPasses (now : Time) : Option GuardRecord → Bool
  | none => true
  | some g => g.secs == 0 || g.secs * 1000000 ≤ elapsed now g.fall

/-- Whether a trigger's edge is the one raised; `rise` for RISE (R145). -/
def edgeMatches (edge : Nat) (rise : Bool) : Bool :=
  match edge with
  | 0 => rise
  | 1 => !rise
  | 2 => true
  | _ => false

/-- The ops of the step store, by code (11.3). -/
inductive StepOp where
  | finish | pause | drive | await | bootOpen | bootClose | holdS | releaseS | mark | notify | call | fail
deriving DecidableEq, Repr

def StepOp.ofCode : Nat → Option StepOp
  | 0 => some .finish | 1 => some .pause | 2 => some .drive | 3 => some .await | 4 => some .bootOpen | 5 => some .bootClose
  | 6 => some .holdS | 7 => some .releaseS | 8 => some .mark | 9 => some .notify | 10 => some .call | 11 => some .fail
  | _ => none

/-- R161: the preempt flag, a strictly greater priority, and a preemptible script. -/
def Request.preempts (r : Request) (c : Running) : Bool := r.preempt && c.prio < r.prio && c.preemptible

/-- A request's place: after every entry of higher or equal priority (R159). -/
def insertRequest (r : Request) : List Request → List Request
  | [] => [r]
  | q :: rest => if r.prio ≤ q.prio then q :: insertRequest r rest else r :: q :: rest

/-- The position a request takes (R163). -/
def requestPosition (r : Request) (q : List Request) : Nat := q.countP fun e => r.prio ≤ e.prio

/-- The entry of a full queue to be displaced: of the lowest priority, the one that arrived last, which stands last (R159,
R162). -/
def lowestEntry (q : List Request) : Option Request := q.getLast?

end Sys2Proof.Machine
end

