-- ==== Sys2Proof/Machine/Ops.lean ====
section
/-! DEFINITION. The named operations over the state: changing one block, the cell pool, the class queues, scheduler and
transmitters of both ports, and the shapers at the heads of the out-queues (spec/01, section 1.5; spec/02). -/

namespace Sys2Proof.Machine

/-! ### Changing one block -/

def State.setPhase (s : State) (p : Phase) : State := { s with phase := p }
def State.onPins (s : State) (f : Pins → Pins) : State := { s with pins := f s.pins }
def State.onClock (s : State) (f : Clock → Clock) : State := { s with clock := f s.clock }
def State.onLoader (s : State) (f : Loader → Loader) : State := { s with loader := f s.loader }
def State.onPorts (s : State) (f : Ports → Ports) : State := { s with ports := f s.ports }
def State.onDom (s : State) (f : Domains → Domains) : State := { s with dom := f s.dom }
def State.setSteering (s : State) (i : Fin 64) (e : Steering) : State := { s with steer := s.steer.set i e }
def State.setPcp (s : State) (i : Fin 8) (k : Fin 4) : State := { s with pcp := s.pcp.set i k }
def State.onPool (s : State) (f : Pool → Pool) : State := { s with pool := f s.pool }
def State.onMeters (s : State) (f : Meters → Meters) : State := { s with meters := f s.meters }
def State.onSched (s : State) (f : Scheduler → Scheduler) : State := { s with sched := f s.sched }
def State.onAgent (s : State) (f : Agent → Agent) : State := { s with agent := f s.agent }
def State.setOperator (s : State) (i : Fin 8) (o : Operator) : State := { s with operators := s.operators.set i o }
def State.onLine (s : State) (f : ConsoleLine → ConsoleLine) : State := { s with line := f s.line }
def State.onHist (s : State) (f : History → History) : State := { s with hist := f s.hist }
def State.onMedia (s : State) (f : Media → Media) : State := { s with media := f s.media }
def State.onPower (s : State) (f : PowerUnit → PowerUnit) : State := { s with power := f s.power }
def State.onScript (s : State) (f : ScriptEngine → ScriptEngine) : State := { s with script := f s.script }

def State.onCnt (s : State) (p : Port) (f : PortCounters → PortCounters) : State :=
  s.onPorts fun x => { x with cnt := x.cnt.set p (f (x.cnt.get p)) }
def State.onEgress (s : State) (p : Port) (f : Egress → Egress) : State :=
  s.onSched fun x => { x with port := x.port.set p (f (x.port.get p)) }
def State.onAgentCnt (s : State) (f : AgentCounters → AgentCounters) : State :=
  s.onAgent fun a => { a with cnt := f a.cnt }
def State.onLineCnt (s : State) (f : LineCounters → LineCounters) : State := s.onLine fun l => { l with cnt := f l.cnt }
def State.onHistCnt (s : State) (f : HistoryCounters → HistoryCounters) : State := s.onHist fun h => { h with cnt := f h.cnt }
def State.onBlk (s : State) (f : BlockCounters → BlockCounters) : State := s.onMedia fun m => { m with blk := f m.blk }
def State.onXfer (s : State) (f : TransferCounters → TransferCounters) : State := s.onMedia fun m => { m with xfer := f m.xfer }
def State.onPowerCnt (s : State) (f : PowerCounters → PowerCounters) : State := s.onPower fun p => { p with cnt := f p.cnt }
def State.onScriptCnt (s : State) (f : ScriptCounters → ScriptCounters) : State :=
  s.onScript fun e => { e with cnt := f e.cnt }
def State.setPhy (s : State) (p : Port) (v : Option Speed) : State := s.onPins fun x => { x with phy := x.phy.set p v }
def State.setLink (s : State) (p : Port) (v : Option Speed) : State := s.onPorts fun x => { x with link := x.link.set p v }
def State.setHoldS (s : State) (v : Bool) : State := s.onPorts fun x => { x with holdS := v }
def State.setMeter (s : State) (i : Fin 16) (m : Meter) : State := s.onMeters fun x => { x with bank := x.bank.set i m }

/-- The out-queue a shaper stands at. -/
def State.outQueue (s : State) : Shaper → OutQueue
  | .agent => s.agentOut
  | .media => s.mediaOut
def State.setOutQueue (s : State) (sh : Shaper) (q : OutQueue) : State :=
  match sh with
  | .agent => { s with agentOut := q }
  | .media => { s with mediaOut := q }
def State.setShaper (s : State) (sh : Shaper) (x : ShaperState) : State :=
  s.setOutQueue sh { s.outQueue sh with shaper := x }

/-! ### The cell pool (R22 to R25) -/

/-- Cells leave the free count on admission or allocation (R23, R25); LOW_FREE keeps the lowest value (R41). -/
def State.takeCells (s : State) (n : Nat) : State :=
  s.onPool fun p => { p with free := p.free - n, lowFree := min p.lowFree (p.free - n) }

/-- A shaper whose head waits for an extra cell hears of every return of cells (R24, R33). -/
def ShaperState.oweCell : ShaperState → ShaperState
  | .blocked f c true n => .blocked f c true (n + 1)
  | x => x

/-- A shaper BLOCKED on a class queue hears of a removal from it (R33). -/
def ShaperState.oweRoom (removed : Fin 4 → Bool) : ShaperState → ShaperState
  | .blocked f c w n => .blocked f c w (if removed c then n + 1 else n)
  | x => x

def State.mapShapers (s : State) (f : ShaperState → ShaperState) : State :=
  { s with
    agentOut := { s.agentOut with shaper := f s.agentOut.shaper }
    mediaOut := { s.mediaOut with shaper := f s.mediaOut.shaper } }

/-- One more retry of the placement in the agent out-queue is due to the claimants that wait (R52). -/
def State.oweRetry (s : State) : State := s.onAgent fun a => { a with retries := a.retries + 1 }

/-- Cells return to the free count, and every party that waits for cells is told (R24, R52, notes/assumptions/8.md). -/
def State.returnCells (s : State) (n : Nat) : State :=
  let s1 := (s.onPool fun p => { p with free := p.free + n }).mapShapers ShaperState.oweCell
  s1.oweRetry.onMedia fun m => { m with rescans := m.rescans + 1 }

/-! ### The scheduler and the class queues (R34, R36 to R40) -/

/-- Removals from class queues of port U reach the shapers BLOCKED there; port S has no such shaper (R33). -/
def State.announceRoom (s : State) (p : Port) (removed : Fin 4 → Bool) : State :=
  match p with
  | .u => s.mapShapers (ShaperState.oweRoom removed)
  | .s => s

/-- An IDLE transmitter of a port that is UP chooses a frame, if there is one, and begins to send it (R36). -/
def State.choose (s : State) (p : Port) : State :=
  match s.ports.link.get p, (s.sched.port.get p).tx, (s.sched.port.get p).pick with
  | some speed, none, some (f, k, e) =>
    (s.onEgress p fun _ => { e with tx := some ⟨f, s.clock.now, transmissionNs speed f.frame⟩ }).announceRoom p (· == k)
  | _, _, _ => s

/-- What became of a frame offered to a class queue (R21, R34). -/
inductive Offer where
  | admitted
  | linkDown
  | held
  | queueFull
  | poolFull
deriving DecidableEq, Repr

/-- A frame in its egress form joins the tail of a class queue. -/
def State.joinClass (s : State) (p : Port) (k : Fin 4) (q : QFrame) : State :=
  s.onEgress p fun e => e.withFrames k (e.queues[k].frames ++ [q]) e.queues[k].deficit

/-- A frame in its egress form is offered to a class queue, needing `need` free cells of the pool (R21, R34). -/
def State.offerClass (s : State) (p : Port) (k : Fin 4) (need : Nat) (q : QFrame) : Offer × State :=
  if (s.ports.link.get p).isNone then (.linkDown, s.onCnt p fun c => { c with linkDown := c.linkDown + 1 })
  else if p = .s ∧ s.ports.holdS = true then (.held, s.onCnt p fun c => { c with held := c.held + 1 })
  else if !(s.sched.port.get p).queues[k].room q.frame.cells then
    (.queueFull, s.onCnt p fun c => { c with queueFull := c.queueFull + 1 })
  else if s.pool.free < need then (.poolFull, s.onCnt p fun c => { c with poolFull := c.poolFull + 1 })
  else (.admitted, ((s.takeCells need).joinClass p k q).choose p)

/-- The egress judgement of a frame for a port in a domain and class (R19, R20). -/
inductive Judgement where
  | notMember
  | tagOversize
  | form (f : Frame)
deriving DecidableEq, Repr

def State.judgeEgress (s : State) (p : Port) (d : Fin 16) (k : Fin 4) (f : Frame) : Judgement :=
  let dom := s.dom.entries[d]
  if dom.valid && dom.members.has p then
    match egressForm (dom.tag.has p) dom.vid (addedPcp s.pcp k) f with
    | none => .tagOversize
    | some g => .form g
  else .notMember

/-- A frame is offered to a port in a domain and class: judgement, then enqueue, taking its cells anew (R19 to R21, R34).
Whether it was enqueued. -/
def State.offerEgress (s : State) (p : Port) (d : Fin 16) (k : Fin 4) (f : Frame) (o : Origin) : Bool × State :=
  match s.judgeEgress p d k f with
  | .notMember => (false, s.onCnt p fun c => { c with egressNotMember := c.egressNotMember + 1 })
  | .tagOversize => (false, s.onCnt p fun c => { c with tagOversize := c.tagOversize + 1 })
  | .form g =>
    let r := s.offerClass p k g.cells ⟨g, o⟩
    (r.1 == .admitted, r.2)

/-- The agent hears that the RESTART reply frame has gone: sent, dropped, flushed or abandoned (R55). -/
def State.noteGone (s : State) (os : List Origin) : State :=
  if os.contains .restartReply then s.onAgent fun a => { a with restartGone := true } else s

/-- The deficits, the visit pointer and the queues of a port after a flush (R39, R40). -/
def Egress.flushed (e : Egress) : Egress :=
  { e with queues := Vector.ofFn fun k => { e.queues[k] with frames := [], deficit := 0 }, visit := 3, granted := false }

def Egress.queued (e : Egress) : List QFrame := (e.queues.toList.map fun q => q.frames).flatten

def queuedCells (fs : List QFrame) : Nat := (fs.map fun f => f.frame.cells).sum

/-- What a loss of the port's link discards: every queued frame, and the frame in transmission (R39). -/
def Egress.discarded (e : Egress) : List QFrame :=
  e.queued ++ (match e.tx with
    | none => []
    | some x => [x.q])

/-- The loss of a port's link discards its queued frames and the frame in transmission (R2, R39). -/
def State.flushLink (s : State) (p : Port) : State :=
  let e := s.sched.port.get p
  let gone := e.discarded
  let s1 := s.onEgress p fun e => { e.flushed with tx := none }
  let s2 := s1.onCnt p fun c => { c with linkFlush := c.linkFlush + BitVec.ofNat 32 gone.length }
  let s3 := (s2.announceRoom p fun k => !e.queues[k].frames.isEmpty).noteGone (gone.map QFrame.origin)
  if gone.isEmpty then s3 else s3.returnCells (queuedCells gone)

/-- HOLD_S flushes port S's class queues; the frame in transmission goes on (R40). -/
def State.flushHold (s : State) : State :=
  let gone := s.sched.port.s.queued
  let s1 := s.onEgress .s Egress.flushed
  let s2 := s1.onCnt .s fun c => { c with holdFlush := c.holdFlush + BitVec.ofNat 32 gone.length }
  if gone.isEmpty then s2 else s2.returnCells (queuedCells gone)

/-! ### The shapers (R24, R31 to R33, R123) -/

/-- The meter and the class a shaper uses, as the tables stand (R27, R35). -/
def State.shaperMeter (s : State) : Shaper → Fin 16
  | .agent => s.meters.agentMeter
  | .media => s.meters.mediaMeter
def State.shaperClass (s : State) : Shaper → Fin 4
  | .agent => s.sched.mgmtClass
  | .media => s.sched.mediaClass

/-- The media engine is told of a departure: the deadline of the attempt the frame carries starts (R123). -/
def State.departed (s : State) : Origin → State
  | .media i g =>
    let e := s.media.table[i]
    match e.use with
    | none => s
    | some t =>
      if e.gen = g ∧ t.deadline = none then
        s.onMedia fun m => { m with
          table := m.table.set i { e with use := some { t with deadline := some (afterMs s.clock.now m.timeoutMs) } } }
      else s
  | _ => s

/-- A frame leaves the head of an out-queue: of the agent's, its claimants are told (R52). -/
def State.leftHead (s : State) : Shaper → State
  | .agent => s.oweRetry
  | .media => s

/-- The head frame leaves an out-queue, with a report to its builder (R31, R33, R52). -/
def State.popHead (s : State) (sh : Shaper) : State :=
  match (s.outQueue sh).frames with
  | [] => s
  | h :: rest => ((s.setOutQueue sh { s.outQueue sh with frames := rest }).leftHead sh).departed h.origin

/-- The head frame of an out-queue is dropped: its cells return (R24, R31, R33). -/
def State.dropHead (s : State) (sh : Shaper) : State :=
  match (s.outQueue sh).frames with
  | [] => s
  | h :: _ => ((s.popHead sh).noteGone [h.origin]).returnCells h.frame.cells

/-- The move of a head frame into its class queue of port U (R24, R33): true when the frame left the head, moved or dropped
for a DOWN port; else the shaper is BLOCKED, with so many retries still owed. -/
def State.moveHead (s : State) (sh : Shaper) (k : Fin 4) (g : Frame) (h : OutFrame) (owed : Nat) : Bool × State :=
  match s.offerClass .u k (g.cells - h.frame.cells) ⟨g, h.origin⟩ with
  | (.admitted, s1) => (true, s1.popHead sh)
  | (.queueFull, s1) => (false, s1.setShaper sh (.blocked g k false owed))
  | (.poolFull, s1) => (false, s1.setShaper sh (.blocked g k true owed))
  | (_, s1) => (true, s1.dropHead sh)

/-- The head of an out-queue is judged and tested, and the next after it, until one stays or the queue is empty (R31);
`fuel` is the number of frames. -/
def State.testHead (sh : Shaper) : Nat → State → State
  | 0, s => s.setShaper sh .idle
  | fuel + 1, s =>
    match (s.outQueue sh).frames with
    | [] => s.setShaper sh .idle
    | h :: _ =>
      let k := s.shaperClass sh
      match s.judgeEgress .u h.domain k h.frame with
      | .notMember =>
        testHead sh fuel ((s.onCnt .u fun c => { c with egressNotMember := c.egressNotMember + 1 }).dropHead sh)
      | .tagOversize =>
        testHead sh fuel ((s.onCnt .u fun c => { c with tagOversize := c.tagOversize + 1 }).dropHead sh)
      | .form g =>
        let i := s.shaperMeter sh
        let q := chargeOf g.length
        let r := s.meters.bank[i].present s.clock.now q
        let s1 := s.setMeter i r.1
        if r.2 then
          match s1.moveHead sh k g h 0 with
          | (true, s2) => testHead sh fuel s2
          | (false, s2) => s2
        else s1.setShaper sh (.waiting (afterUs s.clock.now (r.1.waitUs q)))

/-- The shaper takes the frame that has reached the head into TESTING (R31). -/
def State.runShaper (s : State) (sh : Shaper) : State := s.testHead sh (s.outQueue sh).frames.length

/-- A WAITING shaper re-tests at once (R32). -/
def State.retestWaiting (s : State) (sh : Shaper) : State :=
  match (s.outQueue sh).shaper with
  | .waiting _ => s.runShaper sh
  | _ => s

/-- A built frame is admitted to an out-queue when there are fewer than 16 and its cells are free (R23); into an empty queue
it comes at the head and is tested (R31). -/
def State.placeOut (s : State) (sh : Shaper) (f : OutFrame) : Option State :=
  let q := s.outQueue sh
  if q.frames.length < Config.outQueueLimit ∧ f.frame.cells ≤ s.pool.free then
    let s1 := (s.takeCells f.frame.cells).setOutQueue sh { q with frames := q.frames ++ [f] }
    some (if q.frames.isEmpty then s1.runShaper sh else s1)
  else none

end Sys2Proof.Machine
end

