-- ==== Sys2Proof/Machine/FramePath.lean ====
section
/-! DEFINITION. The commands of the frame path: links, frame arrivals, transmissions and the shapers (spec/01, spec/02). -/

namespace Sys2Proof.Machine

/-- LINK_UP: a DOWN port of a part in service comes UP at the reported speed; a repeated report changes nothing (R1). -/
def State.linkUp (p : Port) (speed : Speed) (s : State) : State :=
  let s1 := s.setPhy p (some speed)
  if (s.phase = .running ∨ s.phase = .reloading) ∧ s.ports.link.get p = none then
    (s1.setLink p (some speed)).onCnt p fun c => { c with linkChanges := c.linkChanges + 1 }
  else s1

def execLinkUp (p : Port) (speed : Speed) (s : State) : Host.Outcome State Fault Refusal := .next (s.linkUp p speed)

/-- LINK_DOWN: an UP port goes DOWN and is flushed (R1, R2, R39). -/
def State.linkDown (p : Port) (s : State) : State :=
  let s1 := s.setPhy p none
  match s.ports.link.get p with
  | none => s1
  | some _ => ((s1.setLink p none).onCnt p fun c => { c with linkChanges := c.linkChanges + 1 }).flushLink p

def execLinkDown (p : Port) (s : State) : Host.Outcome State Fault Refusal := .next (s.linkDown p)

/-! ### Frame arrival -/

/-- A control frame addressed to the part at U: into the agent inbox, or dropped (R8). -/
def State.admitAgent (f : Frame) (s : State) : State :=
  if s.agent.inbox.length < Config.agentInboxLimit ∧ f.cells ≤ s.pool.free then
    (s.takeCells f.cells).onAgent fun a => { a with inbox := a.inbox ++ [f] }
  else s.onCnt .u fun c => { c with agentFull := c.agentFull + 1 }

/-- A media frame addressed to the part: into the media inbox, or dropped (R9). -/
def State.admitMedia (p : Port) (d : Fin 16) (f : Frame) (s : State) : State :=
  if s.media.inbox.length < Config.mediaInboxLimit ∧ f.cells ≤ s.pool.free then
    (s.takeCells f.cells).onMedia fun m => { m with inbox := m.inbox ++ [⟨p, d, f⟩] }
  else s.onCnt p fun c => { c with mediaFull := c.mediaFull + 1 }

/-- A pass-through frame is offered to the opposite port in its domain and class (R19 to R21, R34). -/
def State.forward (p : Port) (d : Fin 16) (k : Fin 4) (f : Frame) (s : State) : State :=
  (s.offerEgress (oppositePort p) d k f .passThrough).2

/-- The domain a forwarded frame goes on in (R18): the rewrite's, or the one it was resolved in; none where the rewrite names
no valid domain. -/
def State.rewriteDomain (s : State) (d : Fin 16) (rewrite : Option Nat) : Option (Fin 16) :=
  match rewrite with
  | none => some d
  | some r => (idx? 16 r).filter fun i => s.dom.entries[i].valid

/-- After class and meter, the rewrite and the egress check (R18, R19). -/
def State.rewriteForward (p : Port) (d : Fin 16) (k : Fin 4) (rewrite : Option Nat) (f : Frame) (s : State) : State :=
  match s.rewriteDomain d rewrite with
  | none => s.onCnt p fun c => { c with domainMiss := c.domainMiss + 1 }
  | some d' => s.forward p d' k f

/-- The policing of a forwarded frame (R17). -/
def State.police (p : Port) (d : Fin 16) (k : Fin 4) (e : Steering) (f : Frame) (s : State) : State :=
  match e.meter.bind (idx? 16) with
  | none => s.rewriteForward p d k e.rewrite f
  | some i =>
    let m := s.meters.bank[i]
    let r := m.present s.clock.now (chargeOf f.length)
    let s1 := s.setMeter i r.1
    if r.2 then s1.rewriteForward p d k e.rewrite f
    else match m.mode with
      | .policeDrop => s1.onCnt p fun c => { c with meterDrop := c.meterDrop + 1 }
      | .policeDemote => s1.rewriteForward p d 0 e.rewrite f

/-- The steering of a frame in its domain, with its resolved VID (R14 to R18). -/
def State.steerFrame (p : Port) (d : Fin 16) (vid : Nat) (f : Frame) (s : State) : State :=
  let dflt := (s.ports.set.get p).defaultClass
  match steeringMatch s.steer p vid f with
  | none => s.forward p d (frameClass none s.pcp dflt f) f
  | some i =>
    let e := s.steer[i]
    let s1 := s.setSteering i { e with hits := e.hits + 1 }
    if e.action = 0 then s1.police p d (frameClass e.override s.pcp dflt f) e f
    else s1.onCnt p fun c => { c with steerDrop := c.steerDrop + 1 }

/-- A frame of the control EtherType that the agent takes (R8). -/
def State.forAgent (s : State) (p : Port) (d : Fin 16) (f : Frame) : Bool :=
  p = .u && f.etherType == Config.etherTypeControl && d == s.dom.mgmt && (f.dst == s.ports.partMac || f.dst == Config.broadcast)

/-- A frame of the media EtherType that is addressed to the part (R9). -/
def State.forMedia (s : State) (p : Port) (d : Fin 16) (f : Frame) : Bool :=
  f.etherType == Config.etherTypeMedia && s.dom.entries[d].members.m &&
    (match p with
      | .s => (f.dst == s.ports.partMac || f.dst == Config.broadcast) && d != s.dom.mgmt
      | .u => f.dst == s.ports.partMac)

/-- Rules 3 to 6 of the ingress pass, on a frame in its domain (R7 to R9, R14). -/
def State.classify (p : Port) (d : Fin 16) (vid : Nat) (f : Frame) (s : State) : State :=
  if p = .s ∧ s.ports.holdS = true then s.onCnt p fun c => { c with held := c.held + 1 }
  else if p = .s ∧ f.etherType = Config.etherTypeControl then
    s.onCnt p fun c => { c with controlFromServer := c.controlFromServer + 1 }
  else if s.forAgent p d f then s.admitAgent f
  else if s.forMedia p d f then s.admitMedia p d f
  else s.steerFrame p d vid f

/-- The domain a frame resolves to at a port, with its resolved VID (R6). -/
def State.resolve (s : State) (p : Port) (f : Frame) : Option (Fin 16 × Nat) :=
  match resolveVid (s.ports.set.get p).pvid f with
  | none => none
  | some vid => ((s.dom.find vid).filter fun i => s.dom.entries[i].members.has p).map (·, vid)

/-- The ingress pass on a frame whose last byte has arrived at an UP port (R5, R6); `bytes` end before the FCS. -/
def State.ingress (p : Port) (bytes : List Byte) (fcsGood : Bool) (s : State) : State :=
  let len := bytes.length + 4
  if len < Config.minFrame then s.onCnt p fun c => { c with runt := c.runt + 1 }
  else if Config.maxFrame < len then s.onCnt p fun c => { c with oversize := c.oversize + 1 }
  else if !fcsGood then s.onCnt p fun c => { c with fcsErr := c.fcsErr + 1 }
  else
    let s1 := s.onCnt p fun c => { c with rxFrames := c.rxFrames + 1, rxBytes := c.rxBytes + BitVec.ofNat 32 len }
    let f := parseFrame bytes
    match s1.resolve p f with
    | none => s1.onCnt p fun c => { c with domainMiss := c.domainMiss + 1 }
    | some (d, vid) => s1.classify p d vid f

/-- FRAME_ARRIVAL; a port that is DOWN receives no frames (R1, R5). -/
def State.frameArrival (p : Port) (bytes : List Byte) (fcsGood : Bool) (s : State) : State :=
  match s.ports.link.get p with
  | none => s
  | some _ => s.ingress p bytes fcsGood

def execFrameArrival (p : Port) (bytes : List Byte) (fcsGood : Bool) (s : State) : Host.Outcome State Fault Refusal :=
  .next (s.frameArrival p bytes fcsGood)

/-! ### Transmission and the shapers' waits -/

/-- The frame in transmission is sent: its cells return and the next choice is made (R24, R36). -/
def State.finishSending (p : Port) (x : Sending) (s : State) : State :=
  let s1 := s.onEgress p fun e => { e with tx := none }
  let s2 := s1.onCnt p fun c => { c with
    txFrames := c.txFrames + 1, txBytes := c.txBytes + BitVec.ofNat 32 x.q.frame.length }
  ((s2.noteGone [x.q.origin]).returnCells x.q.frame.cells).choose p

/-- TRANSMISSION_COMPLETE (R36); before the transmission can have ended it changes nothing (notes/assumptions/28.md). -/
def State.transmissionComplete (p : Port) (s : State) : State :=
  match (s.sched.port.get p).tx with
  | none => s
  | some x => if mayHavePassedNs s.clock.now x.since x.duration then s.finishSending p x else s

def execTransmissionComplete (p : Port) (s : State) : Host.Outcome State Fault Refusal := .next (s.transmissionComplete p)

/-- SHAPER_WAIT_EXPIRY: the head frame is re-tested (R32). -/
def State.shaperWaitExpiry (sh : Shaper) (s : State) : State :=
  match (s.outQueue sh).shaper with
  | .waiting t => if reached s.clock.now t then s.runShaper sh else s
  | _ => s

def execShaperWaitExpiry (sh : Shaper) (s : State) : Host.Outcome State Fault Refusal := .next (s.shaperWaitExpiry sh)

/-- SHAPER_BLOCKED_RETRY: the move is tried again, once for each event, with no new meter test (R33). -/
def State.shaperBlockedRetry (sh : Shaper) (s : State) : State :=
  match (s.outQueue sh).shaper, (s.outQueue sh).frames with
  | .blocked g k _ (n + 1), h :: _ =>
    match s.moveHead sh k g h n with
    | (true, s1) => s1.runShaper sh
    | (false, s1) => s1
  | _, _ => s

def execShaperBlockedRetry (sh : Shaper) (s : State) : Host.Outcome State Fault Refusal := .next (s.shaperBlockedRetry sh)

end Sys2Proof.Machine
end

