-- ==== Sys2Proof/Machine/History.lean ====
section
/-! DEFINITION. Marks, notices, watchers and pushes of the console history (spec/05, sections 5.1 to 5.4). -/

namespace Sys2Proof.Machine

/-! ### Marks (R81) -/

/-- A mark is added at the tail of the list, the oldest removed first when it holds 32. -/
def State.addMark (kind : MarkKind) (code : Half) (s : State) : State :=
  let m : Mark := ⟨kind, s.hist.nextMark, s.hist.newest, s.clock.now, s.clock.epoch, code⟩
  s.onHist fun h =>
    let full := Config.markLimit ≤ h.marks.length
    { h with
      marks := (if full then h.marks.drop 1 else h.marks) ++ [m]
      nextMark := h.nextMark + 1
      cnt := if full then { h.cnt with markDropped := h.cnt.markDropped + 1 } else h.cnt }

/-! ### Watchers -/

def History.onWatcher (h : History) (w : Fin 4) (f : Watcher → Watcher) : History :=
  { h with watchers := h.watchers.set w (h.watchers[w].map f) }

/-- The watchers that hold wants-notices, in index order (R89). -/
def History.noticeWatchers (h : History) : List (Fin 4) :=
  (List.finRange 4).filter fun w => match h.watchers[w] with
    | none => false
    | some x => x.wantsNotices

/-- A watcher leaves every owed set, and entries whose owed sets become empty leave the queue (R83, R84). -/
def History.disown (h : History) (w : Fin 4) : History :=
  { h with notices :=
      (h.notices.map fun e => { e with owed := e.owed.filter (· != w) }).filter fun e => !e.owed.isEmpty }

/-- The watcher of an operator (R83). -/
def History.watcherOf (h : History) (op : Fin 8) : Option (Fin 4) :=
  firstIdx 4 fun w => match h.watchers[w] with
    | none => false
    | some x => x.op == op

/-- Dueness is judged (R86). -/
def History.judgeDue (h : History) (now : Time) (w : Fin 4) : History :=
  h.onWatcher w fun x => { x with due := x.due || watcherDue h now x }

/-! ### Pushes (R87, R88, R90) -/

/-- What the history block has to send: the oldest notice to a watcher it still owes, a gap, or data. -/
inductive Push where
  | notice (e : NoticeEntry) (w : Fin 4) (x : Watcher)
  | gap (w : Fin 4) (x : Watcher)
  | data (w : Fin 4) (x : Watcher)
deriving DecidableEq, Repr

/-- The order in which the watchers are taken: cyclically, after the one last served (R87). -/
def History.cycle (h : History) : List (Fin 4) :=
  let start : Fin 4 := match h.lastServed with
    | none => 0
    | some w => w + 1
  [start, start + 1, start + 2, start + 3]

def History.firstDue (h : History) : List (Fin 4) → Option (Fin 4 × Watcher)
  | [] => none
  | w :: ws =>
    match h.watchers[w] with
    | none => h.firstDue ws
    | some x => if x.wantsData && x.due then some (w, x) else h.firstDue ws

/-- A watcher's next offset lies below OLDEST (R88). R86 has it never exceed NEWEST, and R83 promises a gap first to a watcher
started below OLDEST; so one that lies farther back than the ring reaches is below OLDEST also at 2^47 bytes or more behind
NEWEST, where 5.1 would call an offset at or ahead of NEWEST: the model's choice (notes/assumptions/39.md). -/
def History.lags (h : History) (x : Watcher) : Bool := h.held < h.behind x.next

/-- The frame the history block would offer now (R87): to a due watcher a gap when it lags, and data otherwise (R88). -/
def History.nextPush (h : History) : Option Push :=
  match h.notices with
  | e :: _ =>
    match e.owed with
    | w :: _ => (h.watchers[w]).map (.notice e w)
    | [] => none
  | [] =>
    match h.firstDue h.cycle with
    | none => none
    | some (w, x) => some (if h.lags x then .gap w x else .data w x)

/-- Header flag bits of a control frame the part sends (11.2). -/
def flagPush : Nat := 1
def flagMore : Nat := 2

/-- A control frame built in the management domain as it stands, with PART MAC as source (R51, 11.2). -/
def State.controlFrame (s : State) (dst : Mac) (flags : Nat) (count : Nat) (records : List Byte) (o : Origin) : OutFrame :=
  { frame := builtFrame dst s.ports.partMac Config.etherTypeControl
      (natBytes 1 1 ++ natBytes 1 flags ++ natBytes 1 count ++ records)
    domain := s.dom.mgmt
    origin := o }

/-- The bytes of a NOTICE record: tag 0 (R179), and status and record flags 0 in a push (notes/assumptions/39.md). -/
def noticeRecord (n : Notice) (time : Time) (epoch : Option Nat) (lost : Counter) : List Byte :=
  recordBytes 0x0081 0 0 0 (natBytes 1 n.kindCode ++ timeBytes time ++ epochBytes epoch ++ counterBytes lost ++ n.bodyBytes)

/-- The bytes of a CONSOLE_DATA record (R88, R179), its status and record flags 0 (notes/assumptions/39.md). -/
def dataRecord (h : History) (x : Watcher) : List Byte :=
  let bytes := h.slice x.next (min (h.behind x.next) Config.chunkBytes)
  recordBytes 0x0080 0 0 0 (timeBytes x.next ++ timeBytes h.newest ++ natBytes 2 bytes.length ++ bytes)

/-- Bytes lost by a watcher below OLDEST (R88). -/
def History.gapLost (h : History) (x : Watcher) : Nat := (h.oldest - x.next).toNat

/-- A push's frame, built at the moment of the offer (R53, R87). R89 excludes CONSOLE_GAP from raising: that it carries the device
time and epoch of this moment is the model's choice (notes/assumptions/39.md). -/
def State.pushFrame (s : State) : Push → OutFrame
  | .notice e _ x =>
    s.controlFrame x.addr flagPush 1 (noticeRecord e.notice e.time e.epoch x.lost) .push
  | .gap _ x =>
    s.controlFrame x.addr flagPush 1
      (noticeRecord (.consoleGap x.next s.hist.oldest (s.hist.gapLost x)) s.clock.now s.clock.epoch x.lost) .push
  | .data _ x => s.controlFrame x.addr flagPush 1 (dataRecord s.hist x) .push

/-- The effects of a placed push (R88, R90). -/
def History.commitPush (h : History) (now : Time) : Push → History
  | .notice _ w _ =>
    let h1 : History := match h.notices with
      | [] => h
      | e :: rest =>
        let owed := e.owed.filter (· != w)
        { h with notices := if owed.isEmpty then rest else { e with owed := owed } :: rest }
    h1.onWatcher w fun y => { y with lost := 0 }
  | .gap w x =>
    let lost := h.gapLost x
    { h.onWatcher w fun y => { y with next := h.oldest, lost := 0 } with
      lastServed := some w
      cnt := { h.cnt with gaps := h.cnt.gaps + 1, gapBytes := h.cnt.gapBytes + BitVec.ofNat 32 lost } }
  | .data w x =>
    let n := min (h.behind x.next) Config.chunkBytes
    let next := x.next + BitVec.ofNat 48 n
    let since := if next = h.newest then none else some now
    let h1 := { h.onWatcher w fun y => { y with next := next, pendingSince := since, due := false } with
      lastServed := some w
      cnt := { h.cnt with dataPushes := h.cnt.dataPushes + 1, dataBytes := h.cnt.dataBytes + BitVec.ofNat 32 n } }
    h1.judgeDue now w

/-- A push is offered to the out-queue; when admitted it is placed and committed (R52, R53, R87). -/
def State.placePush (s : State) (p : Push) : Option State :=
  (s.placeOut .agent (s.pushFrame p)).map fun s1 =>
    ((s1.onAgent fun a => { a with lastPlaced := .push, cnt := { a.cnt with pushFrames := a.cnt.pushFrames + 1 } })).onHist
      fun h => h.commitPush s1.clock.now p

/-- Frames one round of offers can place at most: 16 notices to 4 watchers, and for each watcher a gap and 64 pushes. -/
def pumpFuel : Nat := 400

/-- An offer begins to wait: no retry is owed to it, but those of a reply frame that waits already (R52, R87). -/
def State.waitOffer (s : State) : State :=
  (s.onHist fun h => { h with offerWaiting := true }).onAgent fun a => { a with
    retries := if a.closed.isEmpty then 0 else a.retries }

/-- While no offer waits and there is something to send, offers are made (R87). -/
def State.pumpN : Nat → State → State
  | 0, s => s
  | fuel + 1, s =>
    if s.hist.offerWaiting then s
    else
      match s.hist.nextPush with
      | none => s
      | some p =>
        match s.placePush p with
        | none => s.waitOffer
        | some s1 => pumpN fuel s1

def State.pump (s : State) : State := s.pumpN pumpFuel

/-- An offer waits only while there is something to send (R84, R87). -/
def State.settleOffer (s : State) : State :=
  if s.hist.nextPush.isNone then s.onHist fun h => { h with offerWaiting := false } else s

/-! ### Notices (R89) -/

/-- A notice is raised; with nobody owed it is discarded uncounted, and a full queue discards its oldest entry first. -/
def History.raise (h : History) (n : Notice) (now : Time) (epoch : Option Nat) : History :=
  let owed := h.noticeWatchers
  if owed.isEmpty then h
  else
    let h1 : History := match h.notices with
      | [] => h
      | e :: rest =>
        if Config.noticeLimit ≤ h.notices.length then
          let h2 := e.owed.foldl (fun (g : History) w => g.onWatcher w fun x => { x with lost := x.lost + 1 }) h
          { h2 with notices := rest, cnt := { h2.cnt with noticeLost := h2.cnt.noticeLost + 1 } }
        else h
    { h1 with notices := h1.notices ++ [⟨n, now, epoch, owed⟩], cnt := { h1.cnt with notices := h1.cnt.notices + 1 } }

/-- A notice is raised, and offered at once when no offer waits (R87, R89, notes/assumptions/23.md). -/
def State.raiseNotice (n : Notice) (s : State) : State :=
  (s.onHist fun h => h.raise n s.clock.now s.clock.epoch).pump

/-! ### Removal of a watcher (R84) -/

def State.removeWatcher (w : Fin 4) (s : State) : State :=
  (s.onHist fun h => ({ h with watchers := h.watchers.set w none }).disown w).settleOffer

/-- The watcher of an operator is removed, if it has one. -/
def State.removeWatcherOf (op : Fin 8) (s : State) : State :=
  match s.hist.watcherOf op with
  | none => s
  | some w => s.removeWatcher w

/-! ### The delay of a watcher -/

/-- PUSH_DELAY_EXPIRY: the watcher is judged, becomes due, and an offer is made (R86, R87). -/
def State.pushDelayExpiry (w : Fin 4) (s : State) : State :=
  match s.hist.watchers[w] with
  | none => s
  | some x =>
    if x.wantsData && !x.due && delayPassed s.hist s.clock.now x then (s.onHist fun h => h.judgeDue s.clock.now w).pump else s

def execPushDelayExpiry (w : Fin 4) (s : State) : Host.Outcome State Fault Refusal := .next (s.pushDelayExpiry w)

end Sys2Proof.Machine
end

