-- ==== Sys2Proof/Machine/Agent.lean ====
section
/-! DEFINITION. The control agent: taking frames, judging records, packing replies and the out-queue arbiter (spec/03, sections
3.1, 3.3 and 3.4; spec/11, section 11.2). -/

namespace Sys2Proof.Machine

/-! ### Reply frames (R51) -/

def repliesLength (rs : List Reply) : Nat := (rs.map Reply.length).sum

/-- The open reply frame is closed: built now, with MORE set unless it is the last for its inbox frame (R51, 11.2). -/
def State.closeOpen (more : Bool) (o : Origin) (s : State) : State :=
  let rs := s.agent.openReplies
  let f := s.controlFrame s.agent.src (if more then flagMore else 0) rs.length (rs.map Reply.bytes).flatten o
  s.onAgent fun a => { a with openReplies := [], closed := a.closed ++ [f] }

def AgentCounters.replied (c : AgentCounters) (st : Status) : AgentCounters :=
  { c with
    records := c.records + 1
    denied := if st = .denied then c.denied + 1 else c.denied
    malformed := if st = .malformed then c.malformed + 1 else c.malformed }

/-- A reply is appended to the open frame if it fits in the room left; else that frame is closed and a new one opened (R51). -/
def State.pack (r : Reply) (s : State) : State :=
  let s1 := s.onAgentCnt fun c => c.replied r.status
  let s2 :=
    if s1.agent.openReplies.isEmpty ∨ repliesLength s1.agent.openReplies + r.length ≤ Config.recordRoom then s1
    else s1.closeOpen true .reply
  s2.onAgent fun a => { a with openReplies := a.openReplies ++ [r] }

/-- A closed reply frame is placed in the out-queue, if it is admitted (R51, R52). -/
def State.placeReply (f : OutFrame) (s : State) : Option State :=
  (s.placeOut .agent f).map fun s1 => s1.onAgent fun a => { a with
    closed := a.closed.drop 1, lastPlaced := .reply, cnt := { a.cnt with replyFrames := a.cnt.replyFrames + 1 } }

/-- The agent waits for the out-queue; a pending RESTART waits in its own state (R52, R55, notes/assumptions/24.md). No retry is
owed to a wait that begins, but those of a push that waits already. -/
def State.enterWaiting (s : State) : State :=
  s.onAgent fun a => { a with
    state := if a.state = .restartPending then .restartPending else .waiting
    retries := if s.hist.offerWaiting then a.retries else 0
    cnt := { a.cnt with outWait := a.cnt.outWait + 1 } }

/-- The oldest inbox frame leaves the inbox, and its cells return (R42). -/
def State.dropInbox (s : State) : State :=
  match s.agent.inbox with
  | [] => s
  | f :: rest => (s.onAgent fun a => { a with inbox := rest }).returnCells f.cells

/-- The agent finishes with its frame (R42). -/
def State.finishFrame (s : State) : State := (s.onAgent fun a => { a with state := .idle }).dropInbox

/-- An accepted RESTART ends its inbox frame: its reply frame is closed, the inbox frame leaves, and the agent is in
RESTART_PENDING (R42, R55). -/
def State.enterPending (s : State) : State :=
  (s.closeOpen false .restartReply).dropInbox.onAgent fun a => { a with
    state := .restartPending, restartAccepted := false, restartGone := false }

/-- What follows a reply: closed frames are placed, an accepted RESTART ends the inbox frame, the walk's MALFORMED reply takes its
turn, the last frame is closed, and the inbox frame is finished (R42, R51, R55, R178). -/
def State.advanceN : Nat → State → State
  | 0, s => s
  | fuel + 1, s =>
    match s.agent.closed with
    | f :: _ =>
      match s.placeReply f with
      | none => s.enterWaiting
      | some s1 => advanceN fuel s1
    | [] =>
      if s.agent.state = .restartPending then s
      else if s.agent.restartAccepted then advanceN fuel s.enterPending
      else
        match s.agent.todo, s.agent.trailing, s.agent.openReplies with
        | _ :: _, _, _ => s.onAgent fun a => { a with state := .executing }
        | [], some (ty, tag), _ =>
          advanceN fuel ((s.onAgent fun a => { a with trailing := none }).pack ⟨ty, tag, .malformed, []⟩)
        | [], none, _ :: _ => advanceN fuel (s.closeOpen false .reply)
        | [], none, [] => s.finishFrame

/-- Once the closed frames are placed, five steps are enough. -/
def State.advance (s : State) : State := s.advanceN (s.agent.closed.length + 5)

/-! ### Taking a frame (R42, R43, R178) -/

/-- A frame without an operator or with a bad header is dropped (R43). -/
def State.dropFrame (f : AgentCounters → AgentCounters) (s : State) : State := (s.onAgentCnt f).dropInbox

/-- The frame's records are laid out for execution by the operator that admits it. -/
def State.beginFrame (i : Fin 8) (f : Frame) (s : State) : State :=
  let w := walkFrame f.payload
  (s.onAgent fun a => { a with
    state := .executing, op := i, src := f.src, todo := w.1, trailing := w.2, openReplies := [], closed := [] }).advance

/-- AGENT_TAKE_FRAME (R42, R43). -/
def State.agentTakeFrame (s : State) : State :=
  match s.agent.state, s.agent.inbox with
  | .idle, f :: _ =>
    let s1 := s.onAgentCnt fun c => { c with framesTaken := c.framesTaken + 1 }
    match if isGroup f.src then none else admittedBy s.operators f.src with
    | none => s1.dropFrame fun c => { c with unknownSource := c.unknownSource + 1 }
    | some i =>
      let o := s.operators[i]
      let s2 := s1.setOperator i { o with admitted := o.admitted + 1 }
      if fieldAt 0 1 f.payload ≠ 1 then s2.dropFrame fun c => { c with badHeader := c.badHeader + 1 }
      else s2.beginFrame i f
  | _, _ => s

def execAgentTakeFrame (s : State) : Host.Outcome State Fault Refusal := .next s.agentTakeFrame

/-! ### Executing a record (R47 to R49, R179) -/

/-- What an owning block answers: a status, a reply body, and the state after. -/
structure Answer where
  status : Status
  body : List Byte
  state : State

/-- The agent's next record, when a command executes it (notes/assumptions/3.md). -/
def State.nextRecord (s : State) (c : Instr) : Option Rec :=
  match s.agent.state, s.agent.closed, s.agent.todo with
  | .executing, [], r :: _ => if r.command = c then some r else none
  | _, _, _ => none

/-- The refusals common to all records: the operator's entry, the type, the privilege, the body length (R47, R48, R179). -/
def State.refusedBefore (s : State) (r : Rec) : Option Status :=
  let o := s.operators[s.agent.op]
  if !o.valid then some .denied
  else if r.command = .recordUnknownType then some .noSuch
  else if !o.privs.grants r.need then some .denied
  else if !bodyLengthOk r.type.toNat r.body.length then some .malformed
  else none

/-- A refused TABLE_WRITE still names its table and index (R56, notes/assumptions/16.md). -/
def Rec.refusalBody (r : Rec) : List Byte := if r.type = 0x0003 then r.body.take 2 else []

/-- A record is judged and handed to its owner. -/
def State.perform (s : State) (r : Rec) (h : Rec → State → Answer) : Answer :=
  match s.refusedBefore r with
  | some st => ⟨st, r.refusalBody, s⟩
  | none => h r s

/-- The record is off the list. -/
def State.popRecord (s : State) : State := s.onAgent fun a => { a with todo := a.todo.drop 1 }

/-- A record command: the next record is executed and its one reply packed (R49). -/
def State.runRecord (c : Instr) (h : Rec → State → Answer) (s : State) : State :=
  match s.nextRecord c with
  | none => s
  | some r =>
    let a := s.popRecord.perform r h
    (a.state.pack ⟨r.type, r.tag, a.status, a.body⟩).advance

/-- The operator whose record is executed. -/
def State.caller (s : State) : Fin 8 := s.agent.op

/-- RECORD_UNKNOWN_TYPE: refused with NO_SUCH (R48). -/
def State.recordUnknown (s : State) : State := s.runRecord .recordUnknownType fun _ t => ⟨.noSuch, [], t⟩
def execRecordUnknownType (s : State) : Host.Outcome State Fault Refusal := .next s.recordUnknown

/-! ### The out-queue arbiter (R52) -/

/-- The agent claims the out-queue with a closed reply frame. -/
def State.agentClaim (s : State) : Option OutFrame := s.agent.closed.head?

/-- The history block claims the out-queue while its offer waits. -/
def State.pushClaim (s : State) : Option Push := if s.hist.offerWaiting then s.hist.nextPush else none

def State.retryReply (f : OutFrame) (s : State) : State :=
  match s.placeReply f with
  | none => s
  | some s1 => s1.advance

def State.retryPush (p : Push) (s : State) : State :=
  match s.placePush p with
  | none => s
  | some s1 => (s1.onHist fun h => { h with offerWaiting := false }).pump

/-- One retry: one claimant's frame is offered; of two, the one of the kind not last placed (R52). -/
def State.retryPlacement (s : State) : State :=
  match s.agentClaim, s.pushClaim with
  | none, none => s
  | some f, none => s.retryReply f
  | none, some p => s.retryPush p
  | some f, some p => if s.agent.lastPlaced = .push then s.retryReply f else s.retryPush p

/-- OUT_QUEUE_RETRY: the retry of one event, a departure from the out-queue's head or a return of cells (R52). -/
def State.outQueueRetry (s : State) : State :=
  match s.agent.retries with
  | 0 => s
  | n + 1 => (s.onAgent fun a => { a with retries := n }).retryPlacement

def execOutQueueRetry (s : State) : Host.Outcome State Fault Refusal := .next s.outQueueRetry

end Sys2Proof.Machine
end

