-- ==== Sys2Proof/Machine/Scripts.lean ====
section
/-! DEFINITION. The script engine: drives, finishes, starts, steps and the power-request queue (spec/09; spec/08, section
8.1). -/

namespace Sys2Proof.Machine

/-! ### Output lines (R137 to R139) -/

/-- OUTLET's index (8.1). -/
def outletIdx : Fin 6 := 2

/-- A line takes a level: its driven-by-script flag is judged anew (R137). -/
def OutLine.driveTo (l : OutLine) (v : Bool) : OutLine := { l with level := v, byScript := v != l.idle }

/-- The power unit takes a drive of a line (R137, R138): true when it is done, false when the guard holds it back. -/
def PowerUnit.drive (p : PowerUnit) (now : Time) (k : Fin 6) (v : Bool) : Bool × PowerUnit :=
  let p1 := { p with cnt := { p.cnt with drives := p.cnt.drives + 1 } }
  if k = outletIdx ∧ v = true ∧ guardPasses now p.guardRec = false then
    (false, { p1 with cnt := { p1.cnt with guardHolds := p1.cnt.guardHolds + 1 } })
  else
    let l := p.lines[k]
    let fall := k = outletIdx ∧ l.level = true ∧ v = false
    (true, { p1 with
      lines := p.lines.set k (l.driveTo v)
      guardRec := if fall then some ⟨now, p.guardSecs⟩ else p.guardRec })

/-- A finish returns one line to idle: a momentary line away from it is driven there, one at it has its flag cleared (R139). -/
def PowerUnit.lineToIdle (p : PowerUnit) (k : Fin 6) : PowerUnit :=
  let l := p.lines[k]
  match l.cls with
  | .latching => p
  | .momentary =>
    let p1 := { p with lines := p.lines.set k { l with level := l.idle, byScript := false } }
    if l.level = l.idle then p1 else { p1 with cnt := { p1.cnt with drives := p1.cnt.drives + 1 } }

/-- The lines in index order (R139). -/
def PowerUnit.linesToIdle (p : PowerUnit) : PowerUnit := (List.finRange 6).foldl PowerUnit.lineToIdle p

/-! ### Finishing (R158) -/

/-- A finish still to be made: its outcome and its step. -/
abbrev Finish := Option (ScriptOutcome × Nat)

def ScriptCounters.finished (c : ScriptCounters) : ScriptOutcome → ScriptCounters
  | .ok => { c with finishedOk := c.finishedOk + 1 }
  | .failed _ => { c with finishedFailed := c.finishedFailed + 1 }
  | .fault => { c with finishedFault := c.finishedFault + 1 }
  | .aborted => { c with finishedAborted := c.finishedAborted + 1 }

/-- A finish but for what it starts: the lines to idle, the hold released, the outcome recorded, SCRIPT_END raised, the engine
IDLE (R158, steps 1 to 8). An AWAIT that a preemption or a cancellation ends is not counted in STEPS (R156, notes/assumptions/39.md). -/
def State.finishCore (o : ScriptOutcome) (step : Nat) (s : State) : State :=
  match s.script.running with
  | none => s
  | some c =>
    let s1 := s.onPower PowerUnit.linesToIdle
    let s2 := s1.setHoldS false
    let s3 := s2.onScript fun e => { e with
      running := none
      last := some ⟨c.script, c.source, c.prio, o, step, c.start, s.clock.now⟩
      cnt := e.cnt.finished o }
    s3.raiseNotice (.scriptEnd c.script o step)

/-! ### Beginning a step (R153, R156) -/

def State.onRunning (s : State) (f : Running → Running) : State :=
  s.onScript fun e => { e with running := e.running.map f }

def State.countStep (s : State) : State := s.onScriptCnt fun c => { c with steps := c.steps + 1 }

/-- The debounced level of the line an AWAIT names equals its argument; UNKNOWN equals neither level (R156). -/
def awaitMet (sense : Vector SenseLine 4) (t : Step) : Bool :=
  match (idx? 4 t.operand).bind fun k => sense[k].level with
  | none => false
  | some v => boolNat v == t.arg

/-- The engine begins the step with this index; an AWAIT that ends at once goes on to the next, so `fuel` steps are enough
when they reach past 255. The finish to be made, if there is one. -/
def State.beginStep : Nat → Nat → State → State × Finish
  | 0, _, s => (s, some (.fault, 255))
  | fuel + 1, i, s =>
    match idx? 256 i with
    | none => (s, some (.fault, 255))
    | some k =>
      let t := s.script.steps[k]
      let s1 := s.onRunning fun r => { r with cur := i, step := t }
      match StepOp.ofCode t.op with
      | none => (s1, some (.fault, i))
      | some .await =>
        if awaitMet s.power.sense t then beginStep fuel (i + 1) s1.countStep
        else if t.delay = 0 then
          beginStep fuel (i + 2) (s1.countStep.onScriptCnt fun c => { c with awaitTimeouts := c.awaitTimeouts + 1 })
        else (s1.onRunning fun r => { r with wait := .awaiting (afterMs s.clock.now t.delay) }, none)
      | some _ =>
        (s1.onRunning fun r => { r with wait := if t.delay = 0 then .acting else .delaying (afterMs s.clock.now t.delay) }, none)

/-- More steps than the store holds (R150). -/
def stepFuel : Nat := 257

/-! ### Starting (R152) -/

/-- A script is started from a request; an invalid directory entry makes it finish at once with FAULT at step 0. -/
def State.startCore (r : Request) (s : State) : State × Finish :=
  let d := s.script.dir[r.script]
  let s1 := s.onScript fun e => { e with
    running := some ⟨r.script, r.source, r.prio, d.preemptible, s.clock.now, 0, Factory.step, [], .acting⟩
    cnt := { e.cnt with started := e.cnt.started + 1 } }
  let s2 := s1.raiseNotice (.scriptStart r.script r.source r.prio)
  if d.valid then s2.beginStep stepFuel d.first else (s2, some (.fault, 0))

/-- After a finish the queue head is started, and the next one when that finishes at once (R158, step 9); `fuel` is the length
of the queue. -/
def State.startNext : Nat → State → State
  | 0, s => s
  | fuel + 1, s =>
    match s.script.queue with
    | [] => s
    | r :: rest =>
      match (s.onScript fun e => { e with queue := rest }).startCore r with
      | (s1, none) => s1
      | (s1, some (o, st)) => startNext fuel (s1.finishCore o st)

/-- A finish as one event: the script ends and the queue head is started (R158). -/
def State.finishScript (o : ScriptOutcome) (step : Nat) (s : State) : State :=
  let s1 := s.finishCore o step
  s1.startNext s1.script.queue.length

/-- What a begun step left to do: nothing, or a finish. -/
def State.settle (x : State × Finish) : State :=
  match x.2 with
  | none => x.1
  | some (o, st) => x.1.finishScript o st

/-- The engine begins a step, and the script finishes if it must (R153). -/
def State.goTo (i : Nat) (s : State) : State := State.settle (s.beginStep stepFuel i)

/-- A request is started (R152). -/
def State.startRequest (r : Request) (s : State) : State := State.settle (s.startCore r)

/-! ### Presenting a request (R159 to R162) -/

/-- The disposals of R159 and R163. -/
inductive Disposal where
  | invalid
  | started
  | preempted (script : Fin 16)
  | coalesced (place : Nat)
  | queued (place : Nat)
  | displaced (place : Nat) (gone : Request)
  | full (lowest : Nat)
deriving DecidableEq, Repr

/-- The place of the entry with the same script and source (R162). -/
def samePlace (r : Request) (q : List Request) : Option Nat := q.findIdx? fun e => e.script == r.script && e.source == r.source

def State.enqueue (r : Request) (s : State) : State :=
  s.onScript fun e => { e with queue := insertRequest r e.queue, cnt := { e.cnt with queued := e.cnt.queued + 1 } }

/-- A request that neither starts nor preempts: coalesced, queued, displacing an entry, or refused (R162). -/
def State.queueRequest (r : Request) (s : State) : Disposal × State :=
  let q := s.script.queue
  match samePlace r q with
  | some i => (.coalesced i, s.onScriptCnt fun c => { c with coalesced := c.coalesced + 1 })
  | none =>
    if q.length < Config.requestLimit then (.queued (requestPosition r q), s.enqueue r)
    else
      match lowestEntry q with
      | none => (.full 0, s)
      | some low =>
        if low.prio < r.prio then
          let s1 := s.onScript fun e => { e with
            queue := q.dropLast, cnt := { e.cnt with displaced := e.cnt.displaced + 1 } }
          let s2 := s1.raiseNotice (.scriptDropped low.script low.source low.prio)
          (.displaced (requestPosition r q.dropLast) low, s2.enqueue r)
        else (.full low.prio, s)

/-- A request is presented to the engine (R159). -/
def State.present (r : Request) (s : State) : Disposal × State :=
  if !s.script.dir[r.script].valid then (.invalid, s)
  else
    match s.script.running with
    | none => (.started, s.startRequest r)
    | some c =>
      if r.preempts c then
        let s1 := s.onScriptCnt fun n => { n with preemptions := n.preemptions + 1 }
        (.preempted c.script, (s1.finishCore .aborted c.cur).startRequest r)
      else s.queueRequest r

/-- A pattern or a trigger presents a request: what is refused is counted (R159, R162). A script index beyond the directory
names no valid script. -/
def State.presentFrom (script : Nat) (src : Source) (prio : Nat) (preempt : Bool) (s : State) : State :=
  let invalid (t : State) := t.onScriptCnt fun c => { c with requestInvalid := c.requestInvalid + 1 }
  match idx? 16 script with
  | none => invalid s
  | some k =>
    match s.present ⟨k, src, prio, preempt, s.clock.now⟩ with
    | (.invalid, s1) => invalid s1
    | (.full _, s1) => s1.onScriptCnt fun c => { c with requestLost := c.requestLost + 1 }
    | (_, s1) => s1

/-! ### Waits of the engine -/

/-- SCRIPT_DELAY_EXPIRY: the action is due (R153). -/
def State.scriptDelayExpiry (s : State) : State :=
  match s.script.running with
  | none => s
  | some c =>
    match c.wait with
    | .delaying t => if reached s.clock.now t then s.onRunning fun r => { r with wait := .acting } else s
    | _ => s

def execScriptDelayExpiry (s : State) : Host.Outcome State Fault Refusal := .next s.scriptDelayExpiry

/-- AWAIT_TIMEOUT: the engine moves two steps on (R156). -/
def State.awaitTimeout (s : State) : State :=
  match s.script.running with
  | none => s
  | some c =>
    match c.wait with
    | .awaiting t =>
      if reached s.clock.now t then
        (s.countStep.onScriptCnt fun n => { n with awaitTimeouts := n.awaitTimeouts + 1 }).goTo (c.cur + 2)
      else s
    | _ => s

def execAwaitTimeout (s : State) : Host.Outcome State Fault Refusal := .next s.awaitTimeout

/-- An AWAIT in progress on a line ends when its debounced level comes to the argument (R156). -/
def State.awaitLevel (k : Fin 4) (s : State) : State :=
  match s.script.running with
  | none => s
  | some c =>
    match c.wait with
    | .awaiting _ => if c.step.operand = k.val ∧ awaitMet s.power.sense c.step = true then s.countStep.goTo (c.cur + 1) else s
    | _ => s

/-! ### Actions (R153 to R157) -/

/-- The running script, when the action of a step with this op is due. -/
def State.actingOn (s : State) (op : StepOp) : Option Running :=
  match s.script.running with
  | none => none
  | some c => if c.wait = .acting ∧ StepOp.ofCode c.step.op = some op then some c else none

/-- A due action is taken: STEPS increments, the action has its effect, and what follows it is done (R153). -/
def State.act (op : StepOp) (f : Running → State → State) (s : State) : State :=
  match s.actingOn op with
  | none => s
  | some c => f c s.countStep

/-- An action after which the engine begins the next step (R154). -/
def State.actThenNext (op : StepOp) (f : Running → State → State) (s : State) : State :=
  s.act op fun c t => (f c t).goTo (c.cur + 1)

/-- The drive of a DRIVE step, presented for the first time or again (R155). -/
def State.presentDrive (c : Running) (s : State) : State :=
  match idx? 6 c.step.operand with
  | none => s.goTo (c.cur + 1)
  | some k =>
    match s.power.drive s.clock.now k (c.step.arg == 1) with
    | (true, p) => (s.onPower fun _ => p).goTo (c.cur + 1)
    | (false, p) =>
      match p.guardRec with
      | none => s.onPower fun _ => p
      | some g => (s.onPower fun _ => p).onRunning fun r => { r with wait := .guardWait g.expiry }

/-- GUARD_WAIT_EXPIRY: the same drive is presented again (R155). -/
def State.guardWaitExpiry (s : State) : State :=
  match s.script.running with
  | none => s
  | some c =>
    match c.wait with
    | .guardWait t => if reached s.clock.now t then s.presentDrive c else s
    | _ => s

def execGuardWaitExpiry (s : State) : Host.Outcome State Fault Refusal := .next s.guardWaitExpiry

def State.stepPause (s : State) : State := s.actThenNext .pause fun _ t => t
/-- STEP_PAUSE (R154). -/
def execStepPause (s : State) : Host.Outcome State Fault Refusal := .next s.stepPause

/-- STEP_HOLD_S: the hold is set and port S's queues are flushed, anew when it was set already (R7, R40, R154). -/
def State.stepHoldS (s : State) : State :=
  s.actThenNext .holdS fun _ t => (t.setHoldS true).flushHold
def execStepHoldS (s : State) : Host.Outcome State Fault Refusal := .next s.stepHoldS

/-- STEP_RELEASE_S (R7, R154). -/
def State.stepReleaseS (s : State) : State :=
  s.actThenNext .releaseS fun _ t => t.setHoldS false
def execStepReleaseS (s : State) : Host.Outcome State Fault Refusal := .next s.stepReleaseS

/-- STEP_MARK (R81, R154). -/
def State.stepMark (s : State) : State :=
  s.actThenNext .mark fun c t => t.addMark .power (BitVec.ofNat 16 c.step.arg)
def execStepMark (s : State) : Host.Outcome State Fault Refusal := .next s.stepMark

/-- STEP_NOTIFY (R154). -/
def State.stepNotify (s : State) : State :=
  s.actThenNext .notify fun c t => t.raiseNotice (.scriptNote c.script c.cur (BitVec.ofNat 16 c.step.arg))
def execStepNotify (s : State) : Host.Outcome State Fault Refusal := .next s.stepNotify

/-- STEP_FAIL (R154, R158). -/
def State.stepFail (s : State) : State :=
  s.act .fail fun c t => t.finishScript (.failed (BitVec.ofNat 16 c.step.arg)) c.cur
def execStepFail (s : State) : Host.Outcome State Fault Refusal := .next s.stepFail

/-- STEP_DRIVE (R155). -/
def State.stepDrive (s : State) : State := s.act .drive State.presentDrive
def execStepDrive (s : State) : Host.Outcome State Fault Refusal := .next s.stepDrive

/-- STEP_CALL: the return step is saved and the called script's first step begun; an invalid script or a fifth level faults
(R157). -/
def State.stepCall (s : State) : State :=
  s.act .call fun c t =>
    match (idx? 16 c.step.operand).filter fun k => t.script.dir[k].valid with
    | none => t.finishScript .fault c.cur
    | some k =>
      if Config.callDepth ≤ c.stack.length then t.finishScript .fault c.cur
      else (t.onRunning fun r => { r with stack := c.stack ++ [c.cur + 1] }).goTo t.script.dir[k].first
def execStepCall (s : State) : Host.Outcome State Fault Refusal := .next s.stepCall

/-- STEP_END: back to the step saved last, or the script finishes OK (R157). -/
def State.stepEnd (s : State) : State :=
  s.act .finish fun c t =>
    match c.stack.getLast? with
    | none => t.finishScript .ok c.cur
    | some r => (t.onRunning fun x => { x with stack := c.stack.dropLast }).goTo r
def execStepEnd (s : State) : Host.Outcome State Fault Refusal := .next s.stepEnd

end Sys2Proof.Machine
end

