-- ==== Sys2Proof/Machine/Console.lean ====
section
/-! DEFINITION. The console line's events and the console stream: the ring, the pattern matcher, the receiver, the auto-baud
measurement, the transmitter and the ownership of input (spec/04; spec/05, sections 5.1 and 5.5). -/

namespace Sys2Proof.Machine

/-- The loader has completed the start: the receiver, the transmitter and RTS are in service (R63, R64, R72, R177). Without
supply they are not: the model's choice (notes/assumptions/6.md). -/
def State.inService (s : State) : Bool := s.phase == .running || s.phase == .reloading

/-! ### The ring and the pattern matcher (R79, R86, R92, R93) -/

/-- How an appended byte leaves a watcher: one without wants-data follows NEWEST (R83); a data watcher with nothing unsent
starts its delay (R86). -/
def Watcher.afterAppend (former newest : Offset) (now : Time) (w : Watcher) : Watcher :=
  if w.wantsData then (if w.next = former then { w with pendingSince := some now } else w)
  else { w with next := newest, pendingSince := none }

/-- A byte is stored at NEWEST (R79). -/
def History.store (h : History) (b : Byte) (now : Time) : History :=
  { h with
    ring := (b :: h.ring).take Config.ringBytes
    newest := h.newest + 1
    watchers := Vector.ofFn fun w => (h.watchers[w]).map (Watcher.afterAppend h.newest (h.newest + 1) now) }

def State.setPattern (i : Fin 8) (p : Pattern) (s : State) : State :=
  s.onHist fun h => { h with patterns := h.patterns.set i p }

/-- A hit: counted, a ONCE pattern disarmed, then MARK, NOTIFY and REQUEST (R93). -/
def State.patternHit (i : Fin 8) (p : Pattern) (s : State) : State :=
  let hits := p.hits + 1
  let s1 := (s.setPattern i { p with hits := hits, armed := p.mode != 0 }).onHistCnt fun c => { c with
    patternHits := c.patternHits + 1 }
  let s2 := if p.mark then s1.addMark .pattern (BitVec.ofNat 16 i.val) else s1
  let s3 := if p.notify then s2.raiseNotice (.patternHit i s2.hist.newest hits p.request) else s2
  if p.request then s3.presentFrom p.script (.pattern i) p.prio p.preempt else s3

/-- A valid, armed pattern takes the byte into its window and is matched (R92). -/
def State.judgePattern (b : Byte) (s : State) (i : Fin 8) : State :=
  let p := s.hist.patterns[i]
  if p.valid && p.armed then
    let p1 := { p with window := p.push b }
    if p1.windowMatches p1.window && qualifierHolds p.qualifier s.power.state s.power.window.isSome then s.patternHit i p1
    else s.setPattern i p1
  else s

/-- A byte handed to the console history: stored, judged pattern by pattern, then the watchers are judged (R79). -/
def State.appendByte (b : Byte) (s : State) : State :=
  let s1 := s.onHist fun h => h.store b s.clock.now
  let s2 := (List.finRange 8).foldl (State.judgePattern b) s1
  (s2.onHist fun h => (List.finRange 4).foldl (fun g w => g.judgeDue s.clock.now w) h).pump

/-! ### The receiver (R64 to R66) -/

def State.setRx (x : Receiver) (s : State) : State := s.onLine fun l => { l with rx := x }
def State.setRxd (level : Bool) (s : State) : State := s.onPins fun x => { x with rxd := level }

/-- RXD_FALLING_EDGE: the receiver in READY begins a start bit with the settings in force; while MEASURING a low interval
begins (R64, R68). -/
def State.rxdFallingEdge (s : State) : State :=
  let s1 := s.setRxd false
  if s.inService then
    match s.line.state with
    | .measuring n m t low => s1.onLine fun l => { l with state := .measuring n m t (some (low.getD s.clock.now)) }
    | .running =>
      match s.line.rx with
      | .ready => s1.setRx (.start s.line.set.char s.clock.now)
      | _ => s1
  else s1

def execRxdFallingEdge (s : State) : Host.Outcome State Fault Refusal := .next s.rxdFallingEdge

/-- FALSE_START: the start sample is high, and nothing is counted (R64). -/
def State.falseStart (s : State) : State :=
  match s.line.rx with
  | .start c t => if mayHavePassed s.clock.now t (c.samplePoint 0) then (s.setRxd true).setRx .ready else s
  | _ => s

def execFalseStart (s : State) : Host.Outcome State Fault Refusal := .next s.falseStart

/-- A complete character is counted and handed on, and the receiver is READY (R65). -/
def State.takeCharacter (value : Byte) (framing parity : Bool) (s : State) : State :=
  let s1 := (s.setRx .ready).onLineCnt fun c => { c with
    rxChars := c.rxChars + 1
    framingErr := if framing then c.framingErr + 1 else c.framingErr
    parityErr := if parity then c.parityErr + 1 else c.parityErr }
  s1.appendByte value

/-- The samples of a character are complete: it is judged, or waits in LOW_WAIT (R65). -/
def State.judgeSamples (c : CharSettings) (edge : Time) (samples : List Bool) (rose : Bool) (s : State) : State :=
  if samples.length = c.frameBits - 1 ∧ mayHavePassed s.clock.now edge (c.samplePoint (c.frameBits - 1)) = true then
    let level := samples.getLast?.getD false
    if rose || samples.any id then
      let j := judgeCharacter c samples
      (s.setRxd level).takeCharacter j.1 j.2.1 j.2.2
    else s.setRx (.lowWait c edge)
  else s

/-- RX_CHARACTER. In LOW_WAIT it is the rise of RXD before a break is reached: the character is 0 with its errors (R65, R66). -/
def State.rxCharacter (samples : List Bool) (rose : Bool) (s : State) : State :=
  match s.line.rx with
  | .start c t => s.judgeSamples c t samples rose
  | .character c t => s.judgeSamples c t samples rose
  | .lowWait c t =>
    if rose = true ∧ surelyPassed s.clock.now t c.cycles = false then
      (s.setRxd true).takeCharacter 0 true (c.parity == .odd)
    else s
  | _ => s

def execRxCharacter (samples : List Bool) (rose : Bool) (s : State) : Host.Outcome State Fault Refusal :=
  .next (s.rxCharacter samples rose)

/-- BREAK_DETECTED: one BREAK_IN mark, no byte (R66). -/
def State.breakDetected (s : State) : State :=
  match s.line.rx with
  | .lowWait c t =>
    if mayHavePassed s.clock.now t c.cycles then
      ((s.setRx .brk).onLineCnt fun n => { n with breakIn := n.breakIn + 1 }).addMark .breakIn 0
    else s
  | _ => s

def execBreakDetected (s : State) : Host.Outcome State Fault Refusal := .next s.breakDetected

/-- BREAK_IN_END: the rise of RXD ends the break (R66). -/
def State.breakInEnd (s : State) : State :=
  match s.line.rx with
  | .brk => (s.setRxd true).setRx .ready
  | _ => s

def execBreakInEnd (s : State) : Host.Outcome State Fault Refusal := .next s.breakInEnd

/-! ### The auto-baud measurement (R68 to R70) -/

/-- The line returns to RUNNING with its receiver in READY (R69, R70). -/
def State.endMeasurement (s : State) : State := s.onLine fun l => { l with state := .running, rx := .ready }

def State.setDiv (d : Nat) (s : State) : State := s.onLine fun l => { l with set := { l.set with div := d } }

/-- The measurement is complete with smallest interval `m` (R69). -/
def State.autobaudComplete (m : Nat) (s : State) : State :=
  let d := divOfInterval m
  let s1 := (s.endMeasurement.setDiv d).onLineCnt fun c => { c with autobaudOk := c.autobaudOk + 1 }
  (s1.addMark .autobaud (BitVec.ofNat 16 d)).raiseNotice (.autobaudDone d (obtainedBaud d) m ((snapRate m).map (·.1)))

/-- The open interval is discarded and counted AUTOBAUD_OVF (R68). -/
def State.discardInterval (n : Nat) (m : Option Nat) (t : Time) (s : State) : State :=
  (s.onLine fun l => { l with state := .measuring n m t none }).onLineCnt fun c => { c with
    autobaudOvf := c.autobaudOvf + 1 }

/-- AUTOBAUD_OVERFLOW: the count of the open interval passes 65,535 (R68). -/
def State.autobaudOverflow (s : State) : State :=
  match s.line.state with
  | .measuring n m t (some b) =>
    if mayHavePassed s.clock.now b (Config.autobaudMax + 1) then s.discardInterval n m t else s
  | _ => s

def execAutobaudOverflow (s : State) : Host.Outcome State Fault Refusal := .next s.autobaudOverflow

/-- AUTOBAUD_INTERVAL: a valid interval is counted, and the 16th completes the measurement; a longer one overflowed
(R68, R69, notes/assumptions/37.md). A count that the time since the falling edge rules out has no occasion. -/
def State.autobaudInterval (cycles : Nat) (s : State) : State :=
  match s.line.state with
  | .measuring n m t (some b) =>
    let s1 := s.setRxd true
    let least := min (m.getD cycles) cycles
    if !mayHaveCounted s.clock.now b cycles then s
    else if Config.autobaudMax < cycles then s1.discardInterval n m t
    else if n + 1 < Config.autobaudIntervals then s1.onLine fun l => { l with state := .measuring (n + 1) (some least) t none }
    else s1.autobaudComplete least
  | _ => s

def execAutobaudInterval (cycles : Nat) (s : State) : Host.Outcome State Fault Refusal := .next (s.autobaudInterval cycles)

/-- AUTOBAUD_TIMEOUT: 10 s have passed since the start (R70). -/
def State.autobaudTimeout (s : State) : State :=
  match s.line.state with
  | .measuring n _ t _ =>
    if Config.autobaudLimit ≤ elapsed s.clock.now t then
      (s.endMeasurement.onLineCnt fun c => { c with autobaudFail := c.autobaudFail + 1 }).raiseNotice (.autobaudFailed n)
    else s
  | _ => s

def execAutobaudTimeout (s : State) : Host.Outcome State Fault Refusal := .next s.autobaudTimeout

/-! ### The transmitter (R63, R71, R72) -/

/-- An IDLE transmitter tests the flow and begins the head item, or counts that it begins to wait for CTS (R71, R72). -/
def State.txNext (s : State) : State :=
  match s.line.tx, s.line.fifo with
  | .idle, x :: rest =>
    if s.line.set.rtsCts && !s.pins.cts then
      if s.line.ctsCounted then s
      else (s.onLine fun l => { l with ctsCounted := true }).onLineCnt fun c => { c with ctsWait := c.ctsWait + 1 }
    else
      let tx := match x with
        | .byte b => Transmitter.character b s.line.set.char s.clock.now
        | .brk ms => Transmitter.brk ms s.line.set.char s.clock.now
      s.onLine fun l => { l with tx := tx, fifo := rest, ctsCounted := false }
  | _, _ => s

/-- A flush removes every item still in the FIFO (R71). A wait for CTS goes on with nothing at the head, as 4.7 shows. -/
def State.flushFifo (s : State) : State := s.onLine fun l => { l with fifo := [] }

/-- TX_CHARACTER_DONE: the last stop bit has ended (R63). -/
def State.txCharacterDone (s : State) : State :=
  match s.line.tx with
  | .character _ c t =>
    if mayHavePassed s.clock.now t c.cycles then
      ((s.onLine fun l => { l with tx := .idle }).onLineCnt fun n => { n with txChars := n.txChars + 1 }).txNext
    else s
  | _ => s

def execTxCharacterDone (s : State) : Host.Outcome State Fault Refusal := .next s.txCharacterDone

/-- BREAK_OUT_END: TX rises and the gap of one character time begins, in the settings of the break's own boundary (R63, R71). -/
def State.breakOutEnd (s : State) : State :=
  match s.line.tx with
  | .brk ms c t =>
    if reached s.clock.now (afterMs t ms) then s.onLine fun l => { l with tx := .gap c.cycles s.clock.now }
    else s
  | _ => s

def execBreakOutEnd (s : State) : Host.Outcome State Fault Refusal := .next s.breakOutEnd

/-- BREAK_GAP_END: the break is counted and the next item begins (R71). -/
def State.breakGapEnd (s : State) : State :=
  match s.line.tx with
  | .gap n t =>
    if mayHavePassed s.clock.now t n then
      ((s.onLine fun l => { l with tx := .idle }).onLineCnt fun c => { c with breakOut := c.breakOut + 1 }).txNext
    else s
  | _ => s

def execBreakGapEnd (s : State) : Host.Outcome State Fault Refusal := .next s.breakGapEnd

/-- CTS_ASSERT: a waiting item begins (R72). -/
def State.ctsAssert (s : State) : State :=
  ((s.onPins fun x => { x with cts := true }).onLine fun l => { l with ctsCounted := false }).txNext

def execCtsAssert (s : State) : Host.Outcome State Fault Refusal := .next s.ctsAssert

/-- CTS_DEASSERT: taken at the next item (R72). -/
def State.ctsDeassert (s : State) : State := s.onPins fun x => { x with cts := false }

def execCtsDeassert (s : State) : Host.Outcome State Fault Refusal := .next s.ctsDeassert

/-! ### Ownership (R73 to R75) -/

/-- Code of an OWNER_CHANGE mark: the new owner's index, or 255 (4.5). -/
def ownerCode : Option (Fin 8) → Half
  | none => 255
  | some i => BitVec.ofNat 16 i.val

/-- A change of ownership: the mark, then the notice (4.5). -/
def State.changeOwner (new : Option (Fin 8)) (cause : OwnerCause) (s : State) : State :=
  let former := s.line.owner.map (·.op)
  let s1 := s.onLine fun l => { l with owner := new.map fun i => ⟨i, s.clock.now⟩ }
  (s1.addMark .ownerChange (ownerCode new)).raiseNotice (.consoleOwner former new cause)

/-- Ownership returns to FREE when the idle limit has passed (R75). -/
def State.releaseIfIdle (s : State) : State :=
  match s.line.owner with
  | none => s
  | some o => if idleExpired s.clock.now s.line.set.idleLimit o then s.changeOwner none .idle else s

/-- CONSOLE_IDLE_EXPIRY (R75). -/
def execConsoleIdleExpiry (s : State) : Host.Outcome State Fault Refusal := .next s.releaseIfIdle

end Sys2Proof.Machine
end

