-- ==== Sys2Proof/Machine/Media.lean ====
section
/-! DEFINITION. The media engine: regions, block requests, held requests, the sector cache, transfers and write-back (spec/06,
spec/07). -/

namespace Sys2Proof.Machine

/-! ### Replies to the server (R105) -/

def BlockCounters.replied (c : BlockCounters) : BlkStatus → BlockCounters
  | .ok => { c with replyOk := c.replyOk + 1 }
  | .notReady => { c with replyNotReady := c.replyNotReady + 1 }
  | .busy => { c with replyBusy := c.replyBusy + 1 }
  | .noUnit => { c with replyNoUnit := c.replyNoUnit + 1 }
  | .range => { c with replyRange := c.replyRange + 1 }
  | .prot => { c with replyProtected := c.replyProtected + 1 }
  | .mediaError => { c with replyMediaError := c.replyMediaError + 1 }
  | .malformed => { c with replyMalformed := c.replyMalformed + 1 }

/-- A BLK_REPLY is built in a domain and offered to port S in the media class; one not enqueued is counted REPLY_DROP. -/
def State.blkReply (mac : Mac) (d : Fin 16) (bytes : List Byte) (st : BlkStatus) (s : State) : State :=
  let s1 := s.onBlk fun c => c.replied st
  let r := s1.offerEgress .s d s1.sched.mediaClass (builtFrame mac s1.ports.partMac Config.etherTypeMedia bytes) .blkReply
  if r.1 then r.2 else r.2.onBlk fun c => { c with replyDrop := c.replyDrop + 1 }

/-- The reply to a request, given at once (R105, R181). -/
def State.answer (r : BlkRequest) (st : BlkStatus) (body : List Byte) (s : State) : State :=
  (s.onBlk fun c => { c with requests := c.requests + 1 }).blkReply r.mac r.domain
    (blkReplyBytes r.type r.unit r.op r.count r.tag r.first st body) st

/-! ### Lines (R115 to R117, R25, R26) -/

def State.setLines (ls : List CacheLine) (s : State) : State := s.onMedia fun m => { m with lines := ls }

/-- A line is touched: it moves to the most recent end (R115). -/
def touchLine (g : Fin 4) (x : Nat) (ls : List CacheLine) : List CacheLine :=
  (ls.filter fun l => !l.isFor g x) ++ ls.filter (CacheLine.isFor g x)

def State.touch (g : Fin 4) (xs : List Nat) (s : State) : State :=
  s.setLines (xs.foldl (fun ls x => touchLine g x ls) s.media.lines)

/-- One line of a region and sector is changed in place. -/
def State.onLineOf (g : Fin 4) (x : Nat) (f : CacheLine → CacheLine) (s : State) : State :=
  s.setLines (s.media.lines.map fun l => if l.isFor g x then f l else l)

/-- Lines are freed: they leave the cache, the order of use and the dirty order, and their cells return (R25, R115). -/
def State.freeLines (p : CacheLine → Bool) (s : State) : State :=
  let gone := s.media.lines.filter p
  if gone.isEmpty then s
  else
    (s.onMedia fun m => { m with
      lines := m.lines.filter fun l => !p l
      dirtyOrder := m.dirtyOrder.filter fun d => !gone.any (CacheLine.isFor d.1 d.2) }).returnCells (Config.lineCells * gone.length)

/-- The least recently used evictable line (R117). -/
def Media.evictee (m : Media) : Option CacheLine := m.lines.find? m.evictable

def State.dropLine (l : CacheLine) (s : State) : State :=
  s.setLines (s.media.lines.filter fun x => !x.isFor l.region l.sector)

/-- While the cache cells exceed the ceiling, evictable lines are evicted (R26); `fuel` is the number of lines. -/
def State.trimN : Nat → State → State
  | 0, s => s
  | fuel + 1, s =>
    if Config.lineCells * s.media.lines.length ≤ s.pool.ceiling then s
    else
      match s.media.evictee with
      | none => s
      | some l =>
        trimN fuel (((s.dropLine l).onPool fun p => { p with ceilingEvict := p.ceilingEvict + 1 }).returnCells Config.lineCells)

/-- A pending excess over the ceiling takes every line that is evictable (R26, R117). -/
def State.trimExcess (s : State) : State := s.trimN s.media.lines.length

/-- The pool answers a request for one line (R25): granted from free cells, by eviction, or refused. -/
def State.obtainLine (s : State) : Bool × State :=
  if Config.lineCells * s.media.lines.length + Config.lineCells ≤ s.pool.ceiling ∧
      s.pool.reserve + Config.lineCells ≤ s.pool.free then
    (true, (s.takeCells Config.lineCells).onPool fun p => { p with cacheAlloc := p.cacheAlloc + 1 })
  else
    match s.media.evictee with
    | some l => (true, (s.dropLine l).onPool fun p => { p with
        cacheAlloc := p.cacheAlloc + 1, cacheEvict := p.cacheEvict + 1 })
    | none => (false, s.onPool fun p => { p with cacheAllocFail := p.cacheAllocFail + 1 })

/-- A new line enters the order of use at its most recent end (R115). -/
def State.addLine (l : CacheLine) (s : State) : State := s.setLines (s.media.lines ++ [l])

/-! ### Transfer entries (R121) -/

/-- An entry is allocated, lowest index first, and joins the issue list. -/
def State.allocate (k : TransferKind) (g : Fin 4) (first count : Nat) (e : Fin 16) (s : State) : State :=
  s.onMedia fun m => { m with
    table := m.table.set e ⟨m.table[e].gen + 1, some ⟨k, g, first, count, [], 1, none⟩⟩
    issue := m.issue ++ [e] }

/-- An entry is freed: it keeps its generation, leaves the issue list, and is offered anew (R120, R121). -/
def State.freeEntry (e : Fin 16) (s : State) : State :=
  s.onMedia fun m => { m with
    table := m.table.set e { m.table[e] with use := none }
    issue := m.issue.filter (· != e)
    issueWaiting := m.issueWaiting && m.issue.head? != some e
    rescans := m.rescans + 1 }

def State.setTransfer (e : Fin 16) (t : Transfer) (s : State) : State :=
  s.onMedia fun m => { m with table := m.table.set e { m.table[e] with use := some t } }

/-- The entries in use by a region whose kind passes a test. -/
def Media.entriesOf (m : Media) (g : Fin 4) (k : TransferKind → Bool) : List (Fin 16) :=
  (List.finRange 16).filter fun e => match m.table[e].use with
    | none => false
    | some t => t.region == g && k t.kind

/-- A line covered by a transfer entry. -/
def CacheLine.coveredBy (e : Fin 16) (l : CacheLine) : Bool :=
  l.cond == .filling e || l.cond == .flushing e || l.cond == .redirtied e

/-! ### Fills (R118, R119) -/

/-- Lines are had one at a time, in sector order, each created FILLING under an entry; those of the sectors had (R119). -/
def State.fillLines (g : Fin 4) (e : Fin 16) : List Nat → State → List Nat × State
  | [], s => ([], s)
  | x :: xs, s =>
    match s.obtainLine with
    | (false, s1) => ([], s1)
    | (true, s1) =>
      let r := fillLines g e xs (s1.addLine ⟨g, x, .filling e, []⟩)
      (x :: r.1, r.2)

def State.deferFill (s : State) : State := s.onXfer fun c => { c with fillDeferred := c.fillDeferred + 1 }

/-- A fill is ensured for a sector (R118, R119); whether it was deferred because no entry is free while fewer than 12 are
FETCH (R120). A fill takes a free entry whoever waits: that the fill of a READ may take one that is freed but not yet offered by its
rescan, ahead of an inquiry or a held READ that waits, is the model's choice (notes/assumptions/21.md). -/
def State.ensureFill (g : Fin 4) (x : Nat) (s : State) : Bool × State :=
  if (s.media.findLine g x).isSome then (false, s)
  else
    let fetches := s.media.inUse .fetch
    match s.media.freeEntry with
    | none => (decide (fetches < Config.fetchLimit), s.deferFill)
    | some e =>
      if Config.fetchLimit ≤ fetches then (false, s.deferFill)
      else
        let rg := s.media.regions[g]
        let run := s.media.runFrom g x (runEnd rg.cfg.prefetch rg.sectors x) rg.cfg.prefetch
        let r := s.fillLines g e run
        match r.1 with
        | [] => (false, r.2.deferFill)
        | _ :: _ =>
          (false, (r.2.allocate .fetch g x r.1.length e).onXfer fun c => { c with
            fillsStarted := c.fillsStarted + 1, fillSectors := c.fillSectors + BitVec.ofNat 32 r.1.length })

/-! ### Write-back (R133) -/

def State.serviceable (s : State) (g : Fin 4) : Bool :=
  s.media.regions[g].state == .attached || s.media.regions[g].state == .detaching

/-- One write-back is started for the first line of the dirty order that may go. -/
def State.startFlush (e : Fin 16) (g : Fin 4) (x : Nat) (s : State) : State :=
  let two : Bool := match s.media.findLine g (x + 1) with
    | some l => l.cond == .dirty
    | none => false
  let xs := bif two then [x, x + 1] else [x]
  let s1 := s.onMedia fun m => { m with
    lines := m.lines.map fun l => if l.region == g && xs.contains l.sector then { l with cond := .flushing e } else l
    dirtyOrder := m.dirtyOrder.filter fun d => !(d.1 == g && xs.contains d.2) }
  (s1.allocate .flush g x xs.length e).onXfer fun c => { c with flushesStarted := c.flushesStarted + 1 }

/-- The flush scheduler, over at most `fuel` entries; an inquiry that waits comes first (R120, notes/assumptions/21.md). -/
def State.flushN : Nat → State → State
  | 0, s => s
  | fuel + 1, s =>
    if s.media.fillWaiting || !s.media.waitingInquiries.isEmpty then s
    else
      match s.media.freeEntry, s.media.dirtyOrder.find? fun d => s.serviceable d.1 with
      | some e, some (g, x) => flushN fuel (s.startFlush e g x)
      | _, _ => s

def State.runFlushes (s : State) : State := s.flushN 16

/-- The scheduler is run when lines joined the dirty order (R133). -/
def State.runJoined (joined : Bool) (s : State) : State := bif joined then s.runFlushes else s

/-! ### Held requests (R111, R112) -/

def HeldOp.code : HeldOp → Nat
  | .read => 0
  | .sync => 3

/-- What a READ answers from the lines: the data of its sectors, in order (R107). -/
def Media.readData (m : Media) (g : Fin 4) (xs : List Nat) : List Byte := (xs.map fun x => m.sectorData g x).flatten

/-- A held request ends with its one reply; lines it alone awaited are evictable now, and a pending excess takes them at once
(R112, R117). That the lines of a READ that ends OK are touched in sector order, as R107 has it for one answered at once, is the
model's choice (notes/assumptions/41.md), and so is that the reply is built before a pending excess takes lines (39.md). -/
def State.endHeld (st : BlkStatus) (s : State) (h : Held) : State :=
  let xs := if h.op = .read then sectorsOf h.first h.count else []
  let ok := st == .ok
  let body := if ok then s.media.readData h.unit xs else []
  let s1 := s.onMedia fun m => { m with held := m.held.erase h }
  let s2 := if ok then s1.touch h.unit xs else s1
  (s2.blkReply h.mac h.domain (blkReplyBytes blkRequestType h.unit.val h.op.code h.count h.tag h.first st body) st).trimExcess

/-- The held requests that pass a test end, in the order in which they were made (R112). -/
def State.endHeldWhere (p : Held → Bool) (st : BlkStatus) (s : State) : State :=
  (s.media.held.filter p).foldl (State.endHeld st) s

/-- A sector has become readable: it leaves the awaiting sets, and those that become empty end OK (R112). -/
def State.sectorArrived (g : Fin 4) (x : Nat) (s : State) : State :=
  let awaits (h : Held) : Bool := h.op == .read && h.unit == g && h.awaiting.contains x
  let s1 := s.onMedia fun m => { m with
    held := m.held.map fun h => if awaits h then { h with awaiting := h.awaiting.filter (· != x) } else h }
  s1.endHeldWhere (fun h => h.op == .read && h.awaiting.isEmpty) .ok

/-! ### Regions (R97, R99 to R102, R126) -/

def State.onRegion (g : Fin 4) (f : Region → Region) (s : State) : State :=
  s.onMedia fun m => { m with regions := m.regions.set g (f m.regions[g]) }

/-- A region changes state: the count is 0 on entering ATTACHED or DETACHED, and a REGION_STATE notice is raised (R97). -/
def State.enterRegion (g : Fin 4) (st : RegionState) (s : State) : State :=
  let s1 := s.onRegion g fun r => { r with
    state := st, failures := if st = .attached ∨ st = .detached then 0 else r.failures }
  s1.raiseNotice (.regionState g st s1.media.regions[g].err)

def State.setError (g : Fin 4) (code : ErrorCode) (sector : Option Nat) (s : State) : State :=
  s.onRegion g fun r => { r with err := some ⟨code, sector, s.clock.now⟩ }

/-- An attach begins (R98): the inquiry takes a free entry, or waits for one (R122), behind those that wait already (R120). -/
def State.beginAttach (g : Fin 4) (s : State) : State :=
  let s1 := s.enterRegion g .attaching
  match s1.media.waitingInquiries, s1.media.freeEntry with
  | [], some e => s1.allocate .inquire g 0 0 e
  | _, _ => s1.onMedia fun m => { m with waitingInquiries := m.waitingInquiries ++ [g] }

/-- Transfers of a region are cancelled, with the FILLING lines a FETCH covered (R100, R102, R132). -/
def State.cancelFetches (g : Fin 4) (k : TransferKind → Bool) (s : State) : State :=
  (s.media.entriesOf g k).foldl
    (fun t e => (t.freeLines fun l => l.cond == .filling e).freeEntry e) s

/-- The dirty lines of a region and its FLUSH transfers are freed, each line counted DIRTY_LOST (R100, R101). -/
def State.discardDirty (g : Fin 4) (s : State) : State :=
  let n := s.media.regionDirty g
  let s1 := (s.media.entriesOf g (· == .flush)).foldl (fun t e => t.freeEntry e) s
  (s1.freeLines fun l => l.region == g && l.cond.isDirty).onBlk fun c => { c with
    dirtyLost := c.dirtyLost + BitVec.ofNat 32 n }

/-- All lines of a region are freed and it becomes DETACHED (R97, R100, R101). -/
def State.becomeDetached (g : Fin 4) (s : State) : State := (s.freeLines fun l => l.region == g).enterRegion g .detached

/-- A fourth failure in a row of an ATTACHED region (R102). -/
def State.faultRegion (g : Fin 4) (s : State) : State :=
  let s1 := s.onRegion g fun r => { r with state := .faulted }
  let s2 := s1.endHeldWhere (fun h => h.unit == g) .mediaError
  (s2.cancelFetches g (· == .fetch)).enterRegion g .faulted

/-- A transfer of the region has failed (R126). -/
def State.countFailure (g : Fin 4) (s : State) : State :=
  let r := s.media.regions[g]
  match r.state with
  | .attached =>
    let s1 := s.onRegion g fun r => { r with failures := r.failures + 1 }
    if Config.failureLimit ≤ r.failures + 1 then s1.faultRegion g else s1
  | .detaching =>
    let s1 := s.onRegion g fun r => { r with failures := r.failures + 1 }
    if Config.failureLimit ≤ r.failures + 1 then (s1.discardDirty g).becomeDetached g else s1
  | _ => s

/-- A transfer of the region has completed: the count is 0, but for a FAULTED region (R103, R126). -/
def State.countCompletion (g : Fin 4) (s : State) : State :=
  s.onRegion g fun r => { r with failures := if r.state = .faulted then r.failures else 0 }

/-! ### Failure and retry (R124, R125) -/

/-- The lines of a failed FLUSH return to DIRTY, in sector order, and join the dirty order's tail (R116, R125). -/
def State.returnDirty (e : Fin 16) (s : State) (x : Fin 4 × Nat) : State :=
  match s.media.findLine x.1 x.2 with
  | none => s
  | some l =>
    if l.coveredBy e then
      (s.onLineOf x.1 x.2 fun l => { l with cond := .dirty }).onMedia fun m => { m with dirtyOrder := m.dirtyOrder ++ [x] }
    else s

def State.failFetch (e : Fin 16) (t : Transfer) (s : State) : State :=
  let xs := (s.media.lines.filter fun l => l.cond == .filling e).map fun l => l.sector
  let s1 := s.freeLines fun l => l.cond == .filling e
  let s2 := s1.endHeldWhere
    (fun h => h.op == .read && h.unit == t.region && h.awaiting.any xs.contains) .mediaError
  let s3 := (s2.setError t.region .fetchFailed t.missing.head?).onXfer fun c => { c with fetchFailed := c.fetchFailed + 1 }
  (s3.freeEntry e).countFailure t.region

/-- A failed FLUSH returns its lines to DIRTY, and the scheduler is run for them on the entries free before its own, unless this
failure takes their region out of service or finds it so (R125, R126, R133, notes/assumptions/21.md). -/
def State.failFlush (e : Fin 16) (t : Transfer) (s : State) : State :=
  let joined := s.media.lines.any (CacheLine.coveredBy e) && decide (s.media.regions[t.region].failures + 1 < Config.failureLimit)
  let s1 := ((sectorsOf t.first t.count).map (t.region, ·)).foldl (State.returnDirty e) s
  let s2 := ((s1.runJoined joined).setError t.region .flushFailed (some t.first)).onXfer fun c => { c with
    flushFailed := c.flushFailed + 1 }
  (s2.freeEntry e).countFailure t.region

/-- A failed attach (R99). -/
def State.failAttach (g : Fin 4) (code : ErrorCode) (s : State) : State := (s.setError g code none).enterRegion g .detached

/-- A transfer whose attempts are exhausted fails (R125). -/
def State.failTransfer (e : Fin 16) (t : Transfer) (s : State) : State :=
  match t.kind with
  | .fetch => s.failFetch e t
  | .flush => s.failFlush e t
  | .inquire => (s.freeEntry e).failAttach t.region .inquireFailed

/-- An attempt is over: the transfer is retried, or fails (R124). -/
def State.judgeAttempt (e : Fin 16) (t : Transfer) (s : State) : State :=
  if t.attempts ≤ s.media.retryCount then
    ((s.setTransfer e { t with deadline := none, attempts := t.attempts + 1 }).onMedia fun m => { m with
      issue := m.issue ++ [e] }).onXfer fun c => { c with retries := c.retries + 1 }
  else (s.setTransfer e { t with deadline := none }).failTransfer e t

/-- TRANSFER_DEADLINE (R124). -/
def State.transferDeadline (e : Fin 16) (s : State) : State :=
  match s.media.table[e].use with
  | none => s
  | some t =>
    match t.deadline with
    | none => s
    | some d =>
      if reached s.clock.now d then (s.onXfer fun c => { c with timeouts := c.timeouts + 1 }).judgeAttempt e t else s

def execTransferDeadline (e : Fin 16) (s : State) : Host.Outcome State Fault Refusal := .next (s.transferDeadline e)

/-! ### Request frames (R122) -/

/-- The bytes of a transfer's request frame (11.4, R182). -/
def Media.requestBytes (m : Media) (e : Fin 16) (t : Transfer) : List Byte :=
  let id := m.regions[t.region].cfg.imageId
  let gen := m.table[e].gen
  match t.kind with
  | .inquire => imgHeader 0x10 e gen id
  | .fetch => imgHeader 0x12 e gen id ++ natBytes 4 t.asked.1 ++ natBytes 1 t.asked.2
  | .flush =>
    imgHeader 0x14 e gen id ++ natBytes 1 t.count ++
      ((sectorsOf t.first t.count).map fun x => natBytes 4 x ++ m.sectorData t.region x).flatten

/-- The request frame of a transfer, as built in its region's image domain. -/
def State.requestFrame (s : State) (e : Fin 16) (t : Transfer) (d : Fin 16) : OutFrame :=
  let c := s.media.regions[t.region].cfg
  { frame := builtFrame c.server s.ports.partMac Config.etherTypeMedia (s.media.requestBytes e t)
    domain := d
    origin := .media e s.media.table[e].gen }

/-- The head of the issue list leaves it, its frame built; the wait it may have had is over. -/
def Media.issued (m : Media) : Media := { m with issue := m.issue.drop 1, issueWaiting := false }

/-- TRANSFER_ISSUE: the head of the issue list has its frame built when the out-queue admits it; a wait is counted once
(R122). -/
def State.transferIssue (s : State) : State :=
  match s.media.issue with
  | [] => s
  | e :: _ =>
    match s.media.table[e].use with
    | none => s.onMedia Media.issued
    | some t =>
      match idx? 16 s.media.regions[t.region].cfg.domain with
      | none => s
      | some d =>
        match (s.onMedia Media.issued).placeOut .media (s.requestFrame e t d) with
        | some s1 => s1
        | none =>
          if s.media.issueWaiting then s
          else (s.onMedia fun m => { m with issueWaiting := true }).onXfer fun c => { c with issueWait := c.issueWait + 1 }

def execTransferIssue (s : State) : Host.Outcome State Fault Refusal := .next s.transferIssue

/-! ### The rescan (R120) -/

/-- The waiting inquiries take free entries, oldest first; `fuel` is their number. -/
def State.takeInquiries : Nat → State → State
  | 0, s => s
  | fuel + 1, s =>
    match s.media.waitingInquiries, s.media.freeEntry with
    | g :: rest, some e =>
      takeInquiries fuel ((s.onMedia fun m => { m with waitingInquiries := rest }).allocate .inquire g 0 0 e)
    | _, _ => s

/-- One unfetched sector of a held READ is offered a fill. -/
def State.rescanSector (g : Fin 4) (s : State) (x : Nat) : State :=
  let r := s.ensureFill g x
  if r.1 then r.2.onMedia fun m => { m with fillWaiting := true } else r.2

/-- The held READs are taken oldest first, and within each its unfetched sectors in order. -/
def State.rescanHeld (s : State) : State :=
  s.media.held.foldl
    (fun t h => if h.op = .read then h.awaiting.foldl (State.rescanSector h.unit) t else t)
    (s.onMedia fun m => { m with fillWaiting := false })

/-- RESOURCE_RESCAN: one freed entry or return of cells is offered to the waiting work in turn (R120). -/
def State.resourceRescan (s : State) : State :=
  match s.media.rescans with
  | 0 => s
  | n + 1 =>
    let s1 := s.onMedia fun m => { m with rescans := n }
    (s1.takeInquiries s1.media.waitingInquiries.length).rescanHeld.runFlushes

def execResourceRescan (s : State) : Host.Outcome State Fault Refusal := .next s.resourceRescan

/-- HELD_DEADLINE: the request is answered NOT_READY (R112). -/
def State.heldDeadline (k : Nat) (s : State) : State :=
  match s.media.held[k]? with
  | none => s
  | some h =>
    if reached s.clock.now h.deadline then
      (s.onBlk fun c => { c with heldExpired := c.heldExpired + 1 }).endHeld .notReady h
    else s

def execHeldDeadline (k : Nat) (s : State) : Host.Outcome State Fault Refusal := .next (s.heldDeadline k)

/-! ### The media inbox (R105) -/

/-- The oldest frame of the inbox is handled, when it is the one a command takes; then it leaves and its cells return. -/
def State.takeMedia (c : Instr) (f : MediaIn → State → State) (s : State) : State :=
  match s.media.inbox with
  | [] => s
  | m :: _ =>
    if m.command = c then
      ((f m s).onMedia fun x => { x with inbox := x.inbox.drop 1 }).returnCells m.frame.cells
    else s

/-- A request whose source is a group address is dropped (R105). -/
def State.takeRequest (c : Instr) (f : BlkRequest → State → State) (s : State) : State :=
  s.takeMedia c fun m t =>
    if isGroup m.frame.src then t.onBlk fun n => { n with badSource := n.badSource + 1 } else f m.request t

/-! ### Block requests (R106 to R110) -/

/-- Step 1 of R106 for the four ops, by op code. -/
def BlkRequest.formOk (r : BlkRequest) : Bool :=
  match r.op with
  | 0 => r.count != 0 && r.count ≤ 2
  | 1 => r.count != 0 && r.count ≤ 2 && r.data.length == r.count * Config.sectorBytes
  | _ => true

/-- Step 2 of R106: the ATTACHED region of the unit, or the answer. A boot-only unit with the window CLOSED is NO_UNIT also while
FAULTED (R103, R104, notes/assumptions/39.md). -/
def State.judgeUnit (s : State) (r : BlkRequest) : Except BlkStatus (Fin 4) :=
  match idx? 4 r.unit with
  | none => .error .noUnit
  | some g =>
    let rg := s.media.regions[g]
    if !rg.cfg.valid then .error .noUnit
    else if rg.cfg.bootOnly && s.power.window.isNone then .error .noUnit
    else
      match rg.state with
      | .attached => .ok g
      | .faulted => .error .mediaError
      | _ => .error .noUnit

/-- Steps 1, 2 and, for READ and WRITE, 4 of R106. -/
def State.judgeBlock (s : State) (r : BlkRequest) : Except BlkStatus (Fin 4) :=
  if !r.formOk then .error .malformed
  else
    match s.judgeUnit r with
    | .error e => .error e
    | .ok g => if r.op ≤ 1 ∧ s.media.regions[g].sectors < r.first + r.count then .error .range else .ok g

/-- A judged request is answered, or passed on with its region (R106). -/
def State.judged (r : BlkRequest) (f : Fin 4 → State → State) (s : State) : State :=
  match s.judgeBlock r with
  | .error e => s.answer r e []
  | .ok g => f g s

/-- The disposal of a READ that is not readable and of a SYNC that finds dirty lines, by the service mode (R108, R111). -/
def State.dispose (g : Fin 4) (op : HeldOp) (r : BlkRequest) (s : State) : State :=
  let rg := s.media.regions[g]
  if rg.cfg.service = 1 then s.answer r .notReady []
  else if op = .read ∧ s.media.held.any (fun h => h.op == .read && h.mac == r.mac && h.unit == g && h.tag == r.tag) then
    s.onBlk fun c => { c with duplicate := c.duplicate + 1 }
  else if Config.heldLimit ≤ s.media.held.length then s.answer r .busy []
  else
    let aw := if op = .read then (sectorsOf r.first r.count).filter fun x => !s.media.sectorReadable g x else []
    let h : Held := ⟨r.mac, r.domain, g, op, r.tag, r.first, r.count, afterMs s.clock.now rg.cfg.holdMs, aw⟩
    (s.onMedia fun m => { m with held := m.held ++ [h] }).onBlk fun c => { c with
      requests := c.requests + 1, heldEntered := c.heldEntered + 1 }

/-- A READ (R107). Its fills are ensured in one pass: a sector whose CLEAN line a later sector's fill evicts gets none, the
model's choice (notes/assumptions/41.md). -/
def State.readRequest (r : BlkRequest) (g : Fin 4) (s : State) : State :=
  let xs := sectorsOf r.first r.count
  if xs.all fun x => s.media.sectorReadable g x then
    (s.touch g xs).answer r .ok (s.media.readData g xs)
  else
    (xs.foldl (fun t x => (t.ensureFill g x).2) s).dispose g .read r

/-- BLK_READ. -/
def State.blkRead (s : State) : State := s.takeRequest .blkRead fun r t => t.judged r (State.readRequest r)
def execBlkRead (s : State) : Host.Outcome State Fault Refusal := .next s.blkRead

/-- A written sector's line would newly become dirty: it has none, or it is CLEAN or FILLING (R109). -/
def Media.newlyDirty (m : Media) (g : Fin 4) (x : Nat) : Bool :=
  match m.findLine g x with
  | none => true
  | some l => !l.cond.isDirty

/-- A line is had for each written sector that has none; a second look takes a sector whose own line was evicted meanwhile
(R109, notes/assumptions/20.md). Whether all were had, and the sectors they were obtained for. -/
def State.writeLines (g : Fin 4) : List Nat → State → (Bool × List Nat) × State
  | [], s => ((true, []), s)
  | x :: xs, s =>
    if (s.media.findLine g x).isSome then writeLines g xs s
    else
      match s.obtainLine with
      | (false, s1) => ((false, []), s1)
      | (true, s1) =>
        let r := writeLines g xs (s1.addLine ⟨g, x, .dirty, []⟩)
        ((r.1.1, x :: r.1.2), r.2)

/-- A written line's next state (R109). -/
def LineCond.written : LineCond → LineCond
  | .filling _ => .dirty
  | .clean => .dirty
  | .dirty => .dirty
  | .flushing e => .redirtied e
  | .redirtied e => .redirtied e

/-- A sector is stored: its line takes the data, is touched, and joins the dirty order when it becomes DIRTY (R109, R115, R116);
that the sectors of one WRITE do so in sector order is the model's choice (notes/assumptions/41.md). -/
def State.storeSector (g : Fin 4) (joins : List Nat) (s : State) (x : Nat × List Byte) : State :=
  let s1 := (s.onLineOf g x.1 fun l => { l with data := x.2, cond := l.cond.written }).touch g [x.1]
  if joins.contains x.1 then s1.onMedia fun m => { m with dirtyOrder := m.dirtyOrder ++ [(g, x.1)] } else s1

/-- The written sectors with their data. -/
def BlkRequest.sectors (r : BlkRequest) : List (Nat × List Byte) :=
  (List.range r.count).map fun i => (r.first + i, (r.data.drop (i * Config.sectorBytes)).take Config.sectorBytes)

def State.writeBusy (r : BlkRequest) (s : State) : State :=
  (s.onBlk fun c => { c with writeBusy := c.writeBusy + 1 }).answer r .busy []

/-- A WRITE is made whole or not at all (R109); held READs of its sectors and the flush scheduler follow (R112, R133). That its
lines are touched and join the dirty order in sector order, and that held READs are answered sector by sector after its own OK, are
the model's choices (notes/assumptions/41.md). So is that lines obtained in vain are freed, and their cells returned, before the
BUSY reply is built (39.md). -/
def State.writeRequest (r : BlkRequest) (g : Fin 4) (s : State) : State :=
  let rg := s.media.regions[g]
  let xs := sectorsOf r.first r.count
  if rg.cfg.writeProtect || !rg.writable then s.answer r .prot []
  else
    let joins := xs.filter fun x => s.media.newlyDirty g x
    if Config.dirtyLimit < joins.length + s.media.dirtyCount then s.writeBusy r
    else
      match s.writeLines g (xs ++ xs) with
      | ((false, got), s1) => (s1.freeLines fun l => l.region == g && got.contains l.sector).writeBusy r
      | ((true, _), s1) =>
        let s2 := (r.sectors.foldl (State.storeSector g joins) s1).answer r .ok []
        (xs.foldl (fun t x => t.sectorArrived g x) s2).runJoined (!joins.isEmpty)

/-- BLK_WRITE. -/
def State.blkWrite (s : State) : State := s.takeRequest .blkWrite fun r t => t.judged r (State.writeRequest r)
def execBlkWrite (s : State) : Host.Outcome State Fault Refusal := .next s.blkWrite

/-- An INQUIRE (R106, step 3). -/
def State.inquireRequest (r : BlkRequest) (g : Fin 4) (s : State) : State :=
  let rg := s.media.regions[g]
  s.answer r .ok (natBytes 4 rg.sectors ++ flagByte (rg.writable && !rg.cfg.writeProtect) ++ natBytes 1 rg.cfg.service)

/-- BLK_INQUIRE. -/
def State.blkInquire (s : State) : State := s.takeRequest .blkInquire fun r t => t.judged r (State.inquireRequest r)
def execBlkInquire (s : State) : Host.Outcome State Fault Refusal := .next s.blkInquire

/-- A SYNC (R110). -/
def State.syncRequest (r : BlkRequest) (g : Fin 4) (s : State) : State :=
  if s.media.regionDirty g = 0 then s.answer r .ok [] else s.dispose g .sync r

/-- BLK_SYNC. -/
def State.blkSync (s : State) : State := s.takeRequest .blkSync fun r t => t.judged r (State.syncRequest r)
def execBlkSync (s : State) : Host.Outcome State Fault Refusal := .next s.blkSync

/-- BLK_MALFORMED: a type byte other than BLK_REQUEST, or an op other than the four (R106, R181). -/
def State.blkMalformed (s : State) : State := s.takeRequest .blkMalformed fun r t => t.answer r .malformed []
def execBlkMalformed (s : State) : Host.Outcome State Fault Refusal := .next s.blkMalformed

/-! ### Answers from image servers (R128 to R131, R182) -/

def State.countStale (s : State) : State := s.onXfer fun c => { c with stale := c.stale + 1 }

/-- The transfer an answer belongs to, unless the answer is stale (R128). -/
def Media.answered (m : Media) (k : TransferKind) (p : List Byte) : Option (Fin 16 × Transfer) :=
  match idx? 16 (imgIndex p) with
  | none => none
  | some e =>
    match m.table[e].use with
    | none => none
    | some t =>
      if m.table[e].gen = imgGen p ∧ t.kind = k ∧ m.regions[t.region].cfg.imageId = imgId p ∧
          ¬(imgStatus p ≠ 0 ∧ t.deadline = none) then some (e, t)
      else none

/-- An answer is taken when it is not stale (R128). -/
def State.takeAnswer (c : Instr) (k : TransferKind) (f : Fin 16 → Transfer → List Byte → State → State) (s : State) : State :=
  s.takeMedia c fun m t =>
    match t.media.answered k m.frame.payload with
    | none => t.countStale
    | some (e, x) => f e x m.frame.payload t

/-- An IMG_INFO ends its inquiry, and the attach (R99, R129). -/
def State.inquiryAnswered (e : Fin 16) (t : Transfer) (p : List Byte) (s : State) : State :=
  let n := fieldAt 9 4 p
  let s1 := s.freeEntry e
  if imgStatus p ≠ 0 then s1.failAttach t.region .unknownImage
  else if n = 0 ∨ 2 ^ 31 < n then s1.failAttach t.region .badInfo
  else (s1.onRegion t.region fun r => { r with sectors := n, writable := flagAt 8 p }).enterRegion t.region .attached

/-- IMG_INFO. -/
def State.imgInfo (s : State) : State := s.takeAnswer .imgInfo .inquire State.inquiryAnswered
def execImgInfo (s : State) : Host.Outcome State Fault Refusal := .next s.imgInfo

/-- A refusal: the deadline is absent and the attempt is judged at once, without TIMEOUTS (R130, R131). -/
def State.refusal (e : Fin 16) (t : Transfer) (s : State) : State :=
  (s.onXfer fun c => { c with refusals := c.refusals + 1 }).judgeAttempt e t

def State.discardData (s : State) : State := s.onXfer fun c => { c with dataDiscard := c.dataDiscard + 1 }

/-- One sector of an IMG_DATA (R128, R130). That held READs are answered before a pending excess may take the filled line is the
model's choice (notes/assumptions/39.md). -/
def State.takeSector (e : Fin 16) (s : State) (x : Nat × List Byte) : State :=
  match s.media.table[e].use with
  | none => s
  | some t =>
    if x.1 < t.first ∨ t.first + t.count ≤ x.1 then s.countStale
    else if t.received.contains x.1 then s.discardData
    else
      let s1 := s.setTransfer e { t with received := t.received ++ [x.1] }
      match s.media.findLine t.region x.1 with
      | none => s1.discardData
      | some l =>
        if l.cond = .filling e then
          ((s1.onLineOf t.region x.1 fun l => { l with cond := .clean, data := x.2 }).sectorArrived t.region x.1).trimExcess
        else s1.discardData

/-- A FETCH completes when its received set holds every sector (R130). -/
def State.completeFetch (e : Fin 16) (s : State) : State :=
  match s.media.table[e].use with
  | none => s
  | some t =>
    if t.missing.isEmpty then
      ((s.freeEntry e).onXfer fun c => { c with fetchDone := c.fetchDone + 1 }).countCompletion t.region
    else s

/-- An IMG_DATA that is not stale (R130). The FETCH completes once all sectors of the frame are taken, so that a second copy of its
last missing sector in the same frame is discarded and not stale: the model's choice (notes/assumptions/39.md). -/
def State.dataAnswered (e : Fin 16) (t : Transfer) (p : List Byte) (s : State) : State :=
  if imgStatus p ≠ 0 then s.refusal e t
  else ((imgSectors (fieldAt 8 1 p) (p.drop 9)).foldl (State.takeSector e) s).completeFetch e

/-- IMG_DATA. -/
def State.imgData (s : State) : State := s.takeAnswer .imgData .fetch State.dataAnswered
def execImgData (s : State) : Host.Outcome State Fault Refusal := .next s.imgData

/-- One line of an acknowledged FLUSH: FLUSHING becomes CLEAN, and a pending excess takes it at once; REDIRTIED becomes DIRTY and
joins the dirty order (R117, R131). That the two lines of one FLUSH become CLEAN one after the other, in sector order, and that a
pending excess is met between them, by the first one though the second be the less recently used, is the model's choice
(notes/assumptions/41.md). -/
def State.acknowledge (e : Fin 16) (s : State) (x : Fin 4 × Nat) : State :=
  match s.media.findLine x.1 x.2 with
  | none => s
  | some l =>
    if l.cond = .flushing e then (s.onLineOf x.1 x.2 fun l => { l with cond := .clean }).trimExcess
    else if l.cond = .redirtied e then s.returnDirty e x
    else s

/-- The region has no dirty line left: its held SYNCs end OK, and a DETACHING region becomes DETACHED (R101, R112, R131). -/
def State.settleRegion (g : Fin 4) (s : State) : State :=
  if s.media.regionDirty g = 0 then
    let s1 := s.endHeldWhere (fun h => h.op == .sync && h.unit == g) .ok
    if s1.media.regions[g].state = .detaching then s1.becomeDetached g else s1
  else s

/-- An IMG_WRITE_ACK that is not stale (R131). For lines that joined the dirty order the scheduler is run on the entries free
before the acknowledged one, which is offered by the rescan it owes (R120, R133, notes/assumptions/21.md). That its lines
become CLEAN, or join the dirty order, in sector order is the model's choice (notes/assumptions/41.md). -/
def State.ackAnswered (e : Fin 16) (t : Transfer) (p : List Byte) (s : State) : State :=
  if imgStatus p ≠ 0 then s.refusal e t
  else
    let s1 := ((sectorsOf t.first t.count).map (t.region, ·)).foldl (State.acknowledge e) s
    let s2 := s1.runJoined (s.media.lines.any fun l => l.cond == .redirtied e)
    (((s2.freeEntry e).onXfer fun c => { c with flushDone := c.flushDone + 1 }).countCompletion t.region).settleRegion t.region

/-- IMG_WRITE_ACK. -/
def State.imgWriteAck (s : State) : State := s.takeAnswer .imgWriteAck .flush State.ackAnswered
def execImgWriteAck (s : State) : Host.Outcome State Fault Refusal := .next s.imgWriteAck

/-- IMG_MALFORMED_ANSWER (R128, R182). -/
def State.imgMalformedAnswer (s : State) : State :=
  s.takeMedia .imgMalformedAnswer fun _ t => t.onXfer fun c => { c with imgMalformed := c.imgMalformed + 1 }
def execImgMalformedAnswer (s : State) : Host.Outcome State Fault Refusal := .next s.imgMalformedAnswer

end Sys2Proof.Machine
end

