-- ==== Sys2Proof/Machine/Power.lean ====
section
/-! DEFINITION. Sense lines, the server power state, sense triggers and the boot window (spec/08, sections 8.2 to 8.4). -/

namespace Sys2Proof.Machine

/-! ### The boot window (R104, R146) -/

/-- A BOOT_OPEN of so many seconds opens the window or replaces its close time. -/
def State.openWindow (secs : Nat) (s : State) : State :=
  (s.onPower fun p => { p with
    window := some (afterSecs s.clock.now secs), cnt := { p.cnt with bootOpens := p.cnt.bootOpens + 1 } }).addMark .power
    Config.markWindowOpened

/-- A closing of an open window, with the code of its mark: held requests of boot-only regions end NO_UNIT. -/
def State.closeWindow (code : Half) (s : State) : State :=
  if s.power.window.isNone then s
  else
    let s1 := (s.onPower fun p => { p with
      window := none, cnt := { p.cnt with bootCloses := p.cnt.bootCloses + 1 } }).addMark .power code
    s1.endHeldWhere (fun h => s1.media.regions[h.unit].cfg.bootOnly) .noUnit

/-- STEP_BOOT_OPEN (R146, R154). -/
def State.stepBootOpen (s : State) : State := s.actThenNext .bootOpen fun c t => t.openWindow c.step.arg
def execStepBootOpen (s : State) : Host.Outcome State Fault Refusal := .next s.stepBootOpen

/-- STEP_BOOT_CLOSE (R146, R154). -/
def State.stepBootClose (s : State) : State := s.actThenNext .bootClose fun _ t => t.closeWindow Config.markWindowClosed
def execStepBootClose (s : State) : Host.Outcome State Fault Refusal := .next s.stepBootClose

/-- BOOT_WINDOW_EXPIRY: the close time is reached (R146). -/
def State.bootWindowExpiry (s : State) : State :=
  match s.power.window with
  | none => s
  | some t => if reached s.clock.now t then s.closeWindow Config.markWindowExpired else s

def execBootWindowExpiry (s : State) : Host.Outcome State Fault Refusal := .next s.bootWindowExpiry

/-! ### The server power state (R143) -/

/-- POWER_GOOD's index (8.2). -/
def powerGoodIdx : Fin 4 := 0

def powerStateOf (level : Bool) : PowerState := if level then .on else .off

/-- The power state follows the debounced level of POWER_GOOD: on a change its time, its mark and its notice. -/
def State.setPowerState (new : PowerState) (s : State) : State :=
  let former := s.power.state
  if former = new then s
  else
    let s1 := s.onPower fun p => { p with
      state := new, stateAt := s.clock.now, cnt := { p.cnt with stateChanges := p.cnt.stateChanges + 1 } }
    (s1.addMark .powerState (if new = .on then 1 else 0)).raiseNotice (.powerState former new)

/-! ### Sensing (R141, R142, R145) -/

def State.setSense (k : Fin 4) (x : SenseLine) (s : State) : State :=
  s.onPower fun p => { p with sense := p.sense.set k x }

/-- One trigger is matched against an edge: its hit is counted and its request presented (R145). -/
def State.matchTrigger (k : Fin 4) (rise : Bool) (s : State) (n : Fin 8) : State :=
  let e := s.power.triggers[n]
  if e.valid && e.line == k.val && edgeMatches e.edge rise then
    (s.onPower fun p => { p with triggers := p.triggers.set n { e with hits := e.hits + 1 } }).presentFrom
      e.script (.trigger n) e.prio e.preempt
  else s

/-- The debounced level takes the raw level; POWER_GOOD's sets the power state (R141 to R143). -/
def State.takeLevel (k : Fin 4) (level : Bool) (s : State) : State :=
  let s1 := s.setSense k { s.power.sense[k] with level := some level, pending := .none }
  if k = powerGoodIdx then s1.setPowerState (powerStateOf level) else s1

def PowerCounters.edge (c : PowerCounters) (k : Fin 4) (rise : Bool) : PowerCounters :=
  if rise then { c with rises := c.rises.set k (c.rises[k] + 1) } else { c with falls := c.falls.set k (c.falls[k] + 1) }

/-- An edge: counted, then the power state, the triggers in index order, and an AWAIT of the line
(R142, R145, R156, notes/assumptions/27.md). -/
def State.raiseEdge (k : Fin 4) (level : Bool) (s : State) : State :=
  let s1 := (s.onPowerCnt fun c => c.edge k level).takeLevel k level
  ((List.finRange 8).foldl (State.matchTrigger k level) s1).awaitLevel k

/-- An establishment completes: no edge, no trigger (R141). -/
def State.establish (k : Fin 4) (level : Bool) (s : State) : State := (s.takeLevel k level).awaitLevel k

/-- A change of the raw level of a line that is sensed (R141, R142). -/
def State.sensedChange (k : Fin 4) (level : Bool) (s : State) : State :=
  let x := s.power.sense[k]
  let due := afterMs s.clock.now x.debounce
  match x.level with
  | none => if x.debounce = 0 then s.establish k level else s.setSense k { x with pending := .establishing due }
  | some v =>
    if v = level then
      match x.pending with
      | .change _ =>
        (s.setSense k { x with pending := .none }).onPowerCnt fun c => { c with
          glitches := c.glitches.set k (c.glitches[k] + 1) }
      | _ => s
    else if x.debounce = 0 then s.raiseEdge k level
    else s.setSense k { x with pending := .change due }

/-- SENSE_RAW_CHANGE: the pin takes the level; sensing begins when the loader has applied the SENSE table (R141, R142). -/
def State.senseRawChange (k : Fin 4) (level : Bool) (s : State) : State :=
  if s.pins.raw[k] = level then s
  else
    let s1 := s.onPins fun x => { x with raw := x.raw.set k level }
    if s.inService then s1.sensedChange k level else s1

def execSenseRawChange (k : Fin 4) (level : Bool) (s : State) : Host.Outcome State Fault Refusal :=
  .next (s.senseRawChange k level)

/-- SENSE_CHANGE_DUE (R142). -/
def State.senseChangeDue (k : Fin 4) (s : State) : State :=
  match s.power.sense[k].pending with
  | .change t => if reached s.clock.now t then s.raiseEdge k s.pins.raw[k] else s
  | _ => s

def execSenseChangeDue (k : Fin 4) (s : State) : Host.Outcome State Fault Refusal := .next (s.senseChangeDue k)

/-- SENSE_ESTABLISHMENT_DUE (R141). -/
def State.senseEstablishmentDue (k : Fin 4) (s : State) : State :=
  match s.power.sense[k].pending with
  | .establishing t => if reached s.clock.now t then s.establish k s.pins.raw[k] else s
  | _ => s

def execSenseEstablishmentDue (k : Fin 4) (s : State) : Host.Outcome State Fault Refusal :=
  .next (s.senseEstablishmentDue k)

end Sys2Proof.Machine
end

