-- ==== Sys2Proof/Machine/Tables.lean ====
section
/-! DEFINITION. The tables: judging and applying a write, reading an entry (the table rules of all chapters; spec/03, section
3.5). A write answers the status that refuses it, or the state after it. -/

namespace Sys2Proof.Machine

/-- A write's result. -/
abbrev Written := Except Status State

def inRange (lo hi v : Nat) : Bool := lo ≤ v && v ≤ hi

/-! ### Frame path (R3, R10 to R13, R16) -/

/-- The tests of R10 to R12 on a domain entry 0..15, in order; the status of the first that fails. -/
def State.domainRefusal (s : State) (i : Fin 16) (d : Domain) : Option Status :=
  if d.valid && !inRange 1 4094 d.vid then some .range
  else if d.valid && (List.finRange 16).any fun j => j != i && s.dom.entries[j].valid && s.dom.entries[j].vid == d.vid then
    some .conflict
  else if i = s.dom.mgmt ∧ d.managementOk = false then some .conflict
  else if imageDomainOf s.media.regions i && !(d.valid && d.members.u && d.members.m) then some .conflict
  else if !d.valid && rewritesTo s.steer i then some .conflict
  else none

def State.writeDomainEntry (i : Fin 16) (d : Domain) (s : State) : Written :=
  match s.domainRefusal i d with
  | some st => .error st
  | none => .ok (s.onDom fun x => { x with entries := x.entries.set i d })

/-- A new MGMT_DOMAIN (R11). -/
def State.writeMgmt (v : Nat) (s : State) : Written :=
  match idx? 16 v with
  | none => .error .noSuch
  | some i =>
    if s.dom.entries[i].managementOk && !rewritesTo s.steer i then .ok (s.onDom fun x => { x with mgmt := i })
    else .error .conflict

def State.writeDomain (idx : Nat) (e : List Byte) (s : State) : Written :=
  match idx? 16 idx with
  | some i => s.writeDomainEntry i (readDomain e)
  | none => if idx = 16 then s.writeMgmt (fieldAt 0 1 e) else .error .noSuch

/-- The tests of R13 on an entry written valid. The rule gives the test of the action code no place: that it comes before the
meter and rewrite tests is the model's choice (notes/assumptions/39.md). -/
def State.steeringRefusal (s : State) (e : Steering) : Option Status :=
  if e.hasVid && !inRange 1 4094 e.vid then some .range
  else if e.hasPcp && 7 < e.pcp then some .range
  else if 1 < e.action then some .range
  else if e.meter.any (15 < ·) then some .noSuch
  else
    match e.rewrite with
    | none => none
    | some r =>
      match (idx? 16 r).filter fun i => s.dom.entries[i].valid with
      | none => some .noSuch
      | some i => if i = s.dom.mgmt then some .conflict else none

def State.writeSteering (idx : Nat) (e : List Byte) (s : State) : Written :=
  match idx? 64 idx with
  | none => .error .noSuch
  | some i =>
    let x := readSteering e
    if x.valid then
      match s.steeringRefusal x with
      | some st => .error st
      | none => .ok (s.setSteering i { x with override := x.override.map (min 3) })
    else .ok (s.setSteering i x)

def State.writePcpMap (idx : Nat) (e : List Byte) (s : State) : Written :=
  match idx? 8 idx with
  | none => .error .noSuch
  | some i => .ok (s.setPcp i (clampClass (fieldAt 0 1 e)))

def State.writePortSettings (p : Port) (e : List Byte) (s : State) : Written :=
  let pvid := fieldAt 0 2 e
  if inRange 1 4094 pvid then
    .ok (s.onPorts fun x => { x with set := x.set.set p ⟨pvid, clampClass (fieldAt 2 1 e)⟩ })
  else .error .range

def State.writePort (idx : Nat) (e : List Byte) (s : State) : Written :=
  match idx with
  | 0 => s.writePortSettings .u e
  | 1 => s.writePortSettings .s e
  | 2 => if isGroup (macAt 0 e) then .error .range else .ok (s.onPorts fun x => { x with partMac := macAt 0 e })
  | _ => .error .noSuch

/-! ### Cell pool, meters and egress (R26, R27, R35) -/

/-- A WAITING shaper is re-tested when a write concerns it (R27, R32). -/
def State.retestIf (b : Bool) (sh : Shaper) (s : State) : State := if b then s.retestWaiting sh else s

/-- A write of a METER entry (R27). When one write re-tests both shapers the agent's comes first (R30, notes/assumptions/39.md). -/
def State.writeMeterEntry (i : Fin 16) (e : List Byte) (s : State) : Written :=
  let mode := match fieldAt 8 1 e with
    | 0 => some MeterMode.policeDrop
    | 1 => some MeterMode.policeDemote
    | _ => none
  match mode with
  | none => .error .range
  | some mode =>
    let burst := clamp 1542 1048575 (fieldAt 4 4 e)
    let m := { s.meters.bank[i] with
      rate := min 125000 (fieldAt 0 4 e), burst := burst, mode := mode, credit := burst * 1000, last := s.clock.now }
    let s1 := s.setMeter i m
    let s2 := s1.retestIf (s1.meters.agentMeter == i) .agent
    .ok (s2.retestIf (s2.meters.mediaMeter == i) .media)

/-- A write of AGENT_METER and MEDIA_METER (R27). When it re-tests both shapers the agent's comes first (R30, notes/assumptions/39.md). -/
def State.writeMeterSettings (e : List Byte) (s : State) : Written :=
  match idx? 16 (fieldAt 0 1 e), idx? 16 (fieldAt 1 1 e) with
  | some a, some m =>
    let s1 := s.onMeters fun x => { x with agentMeter := a, mediaMeter := m }
    .ok ((s1.retestIf (s.meters.agentMeter != a) .agent).retestIf (s.meters.mediaMeter != m) .media)
  | _, _ => .error .noSuch

def State.writeMeter (idx : Nat) (e : List Byte) (s : State) : Written :=
  match idx? 16 idx with
  | some i => s.writeMeterEntry i e
  | none => if idx = 16 then s.writeMeterSettings e else .error .noSuch

def State.writeClassQueue (p : Port) (k : Fin 4) (e : List Byte) (s : State) : State :=
  s.onEgress p fun x => { x with
    queues := x.queues.set k { x.queues[k] with
      cellLimit := clamp 16 4096 (fieldAt 0 2 e), weight := clamp 1 15 (fieldAt 2 1 e) } }

/-- A change of mode clears the deficits and the visit (R35). -/
def Egress.setMode (e : Egress) (m : SchedMode) : Egress :=
  if e.mode = m then e
  else { e with
    mode := m, visit := 3, granted := false, queues := Vector.ofFn fun k => { e.queues[k] with deficit := 0 } }

def State.writeMode (p : Port) (e : List Byte) (s : State) : Written :=
  match fieldAt 0 1 e with
  | 0 => .ok (s.onEgress p fun x => x.setMode .strict)
  | 1 => .ok (s.onEgress p fun x => x.setMode .weighted)
  | _ => .error .range

def State.writeQueue (idx : Nat) (e : List Byte) (s : State) : Written :=
  match idx? 4 idx, idx? 4 (idx - 4) with
  | some k, _ => .ok (s.writeClassQueue .u k e)
  | none, some k => .ok (s.writeClassQueue .s k e)
  | none, none =>
    match idx with
    | 8 => s.writeMode .u e
    | 9 => s.writeMode .s e
    | 10 => .ok (s.onSched fun x => { x with
        mgmtClass := clampClass (fieldAt 0 1 e), mediaClass := clampClass (fieldAt 1 1 e) })
    | _ => .error .noSuch

def State.writePool (idx : Nat) (e : List Byte) (s : State) : Written :=
  if idx = 0 then
    .ok (s.onPool fun p => { p with reserve := min 4096 (fieldAt 0 2 e), ceiling := min 4096 (fieldAt 2 2 e) }).trimExcess
  else .error .noSuch

/-! ### Operators (R44 to R46) -/

/-- The standing state of an operator is removed: its watcher, its ownership, its queued requests (R46). -/
def State.cascade (i : Fin 8) (s : State) : State :=
  let s1 := s.removeWatcherOf i
  let s2 := if s1.line.owner.any (·.op == i) then s1.changeOwner none .operatorWrite else s1
  s2.onScript fun e => { e with queue := e.queue.filter fun r => r.source != .operator i }

def State.operatorRefusal (s : State) (i : Fin 8) (o : Operator) : Option Status :=
  if o.valid && !o.wildcard && isGroup o.addr then some .range
  else if !someAdmin (s.operators.set i o) then some .lastAdmin
  else none

def State.writeOperator (idx : Nat) (e : List Byte) (s : State) : Written :=
  match idx? 8 idx with
  | none => .error .noSuch
  | some i =>
    let o := readOperator e
    match s.operatorRefusal i o with
    | some st => .error st
    | none => .ok ((s.setOperator i o).cascade i)

/-! ### Console (R60, R85, R91) -/

def parityOf : Nat → Option Parity
  | 0 => some .none
  | 1 => some .even
  | 2 => some .odd
  | _ => none

/-- An idle limit is 0 or 10..3,600 (R60). -/
def clampIdle (v : Nat) : Nat := if v = 0 then 0 else clamp 10 3600 v

def readLineSettings (e : List Byte) : Option LineSettings :=
  let bits := fieldAt 0 1 e
  let stop := fieldAt 2 1 e
  let flow := fieldAt 3 1 e
  match parityOf (fieldAt 1 1 e) with
  | none => none
  | some p =>
    if inRange 7 8 bits && inRange 1 2 stop && flow ≤ 1 then
      some ⟨bits == 8, p, stop == 2, flow == 1, clamp Config.divMin Config.divMax (fieldAt 4 4 e), clampIdle (fieldAt 8 2 e)⟩
    else none

/-- A measurement in progress is abandoned (R70). -/
def State.abandonMeasurement (s : State) : State :=
  match s.line.state with
  | .running => s
  | .measuring _ _ _ _ => s.endMeasurement

def State.writeLineSettings (e : List Byte) (s : State) : Written :=
  match readLineSettings e with
  | none => .error .range
  | some l =>
    let s1 := s.abandonMeasurement.onLine fun x => { x with set := l, ctsCounted := x.ctsCounted && l.rtsCts }
    let s2 := if s.line.set.idleLimit = l.idleLimit then s1 else s1.releaseIfIdle
    .ok s2.txNext

def State.writeHistorySettings (e : List Byte) (s : State) : State :=
  (s.onHist fun h => (List.finRange 4).foldl (fun g w => g.judgeDue s.clock.now w)
    { h with threshold := clamp 1 1024 (fieldAt 0 2 e), delay := clamp 1 1000 (fieldAt 2 2 e) }).pump

def State.writeConsole (idx : Nat) (e : List Byte) (s : State) : Written :=
  match idx with
  | 0 => s.writeLineSettings e
  | 1 => .ok (s.writeHistorySettings e)
  | _ => .error .noSuch

def patternRefusal (p : Pattern) : Option Status :=
  if !inRange 1 16 p.len then some .range
  else if 2 < p.qualifier ∨ 1 < p.mode then some .range
  else if p.request && 15 < p.script then some .noSuch
  else none

def State.writePattern (idx : Nat) (e : List Byte) (s : State) : Written :=
  match idx? 8 idx with
  | none => .error .noSuch
  | some i =>
    let p := readPattern e
    if p.valid then
      match patternRefusal p with
      | some st => .error st
      | none => .ok (s.setPattern i { p with prio := min 7 p.prio })
    else .ok (s.setPattern i p)

/-! ### Media (R96, R127) -/

def State.regionRefusal (s : State) (c : RegionConfig) : Option Status :=
  if isGroup c.server then some .range
  else if !([1, 2, 4, 8].contains c.prefetch) || 1 < c.service then some .range
  else
    match (idx? 16 c.domain).filter fun i => s.dom.entries[i].valid with
    | none => some .noSuch
    | some i => if s.dom.entries[i].members.u && s.dom.entries[i].members.m then none else some .conflict

def State.writeRegion (idx : Nat) (e : List Byte) (s : State) : Written :=
  match idx? 4 idx with
  | none => .error .noSuch
  | some g =>
    let c := readRegionConfig e
    let put (c : RegionConfig) : State := s.onRegion g fun r => { r with
      cfg := c, sectors := 0, writable := false, failures := 0 }
    if s.media.regions[g].state ≠ .detached then .error .state
    else if c.valid then
      match s.regionRefusal c with
      | some st => .error st
      | none => .ok (put { c with holdMs := clamp 10 2000 c.holdMs })
    else .ok (put c)

def State.writeMediaParams (idx : Nat) (e : List Byte) (s : State) : Written :=
  if idx = 0 then
    .ok (s.onMedia fun m => { m with timeoutMs := clamp 20 2000 (fieldAt 0 2 e), retryCount := min 3 (fieldAt 2 1 e) })
  else .error .noSuch

/-! ### Power (R135, R140, R144, R149, R150) -/

def lineClassOf : Nat → Option LineClass
  | 0 => some .momentary
  | 1 => some .latching
  | _ => none

/-- The fixed class of lines 0 to 3; lines 4 and 5 take either (8.1). -/
def fixedClass (k : Fin 6) : Option LineClass := if k.val < 4 then some (Factory.outLines[k]).cls else none

def State.writeLine (idx : Nat) (e : List Byte) (s : State) : Written :=
  match idx? 6 idx with
  | none => .error .noSuch
  | some k =>
    if 1 < fieldAt 1 1 e then .error .range
    else
      match lineClassOf (fieldAt 0 1 e) with
      | none => .error .range
      | some c =>
        if (fixedClass k).any (· != c) then .error .range
        else
          .ok (s.onPower fun p => { p with
            lines := p.lines.set k { p.lines[k] with cls := c, idle := fieldAt 1 1 e == 1 }
            guardSecs := if k = outletIdx then min 600 (fieldAt 2 2 e) else p.guardSecs })

def State.writeSense (idx : Nat) (e : List Byte) (s : State) : Written :=
  match idx? 4 idx with
  | none => .error .noSuch
  | some k => .ok (s.setSense k { s.power.sense[k] with debounce := min 255 (fieldAt 0 2 e) })

def triggerRefusal (t : Trigger) : Option Status :=
  if 3 < t.line ∨ 2 < t.edge then some .range else if 15 < t.script then some .noSuch else none

def State.writeSenseTrigger (idx : Nat) (e : List Byte) (s : State) : Written :=
  match idx? 8 idx with
  | none => .error .noSuch
  | some n =>
    let t := readTrigger e
    let put (t : Trigger) : State := s.onPower fun p => { p with triggers := p.triggers.set n t }
    if t.valid then
      match triggerRefusal t with
      | some st => .error st
      | none => .ok (put { t with prio := min 7 t.prio })
    else .ok (put t)

def State.writeScriptDir (idx : Nat) (e : List Byte) (s : State) : Written :=
  match idx? 16 idx with
  | none => .error .noSuch
  | some i =>
    let d := readScriptDir e
    if 255 < d.first then .error .range
    else .ok (s.onScript fun x => { x with dir := x.dir.set i { d with prio := min 7 d.prio } })

/-- The tests of R150 by op. -/
def stepRefused (t : Step) : Bool :=
  match StepOp.ofCode t.op with
  | some .drive => 5 < t.operand || 1 < t.arg
  | some .await => 3 < t.operand || 1 < t.arg
  | some .call => 15 < t.operand
  | _ => false

def clampStep (t : Step) : Step := if StepOp.ofCode t.op = some .bootOpen then { t with arg := clamp 1 3600 t.arg } else t

def State.writeScriptStep (idx : Nat) (e : List Byte) (s : State) : Written :=
  match idx? 256 idx with
  | none => .error .noSuch
  | some i =>
    let t := readStep e
    if stepRefused t then .error .range else .ok (s.onScript fun x => { x with steps := x.steps.set i (clampStep t) })

/-! ### All tables -/

/-- The owning block judges and applies an entry (R56, step 5). -/
def State.writeEntry (t : TableId) (idx : Nat) (e : List Byte) (s : State) : Written :=
  match t with
  | .domain => s.writeDomain idx e
  | .steering => s.writeSteering idx e
  | .pcpMap => s.writePcpMap idx e
  | .port => s.writePort idx e
  | .meter => s.writeMeter idx e
  | .queue => s.writeQueue idx e
  | .pool => s.writePool idx e
  | .operator => s.writeOperator idx e
  | .console => s.writeConsole idx e
  | .pattern => s.writePattern idx e
  | .region => s.writeRegion idx e
  | .mediaParams => s.writeMediaParams idx e
  | .line => s.writeLine idx e
  | .sense => s.writeSense idx e
  | .senseTrigger => s.writeSenseTrigger idx e
  | .scriptDir => s.writeScriptDir idx e
  | .scriptStep => s.writeScriptStep idx e

/-- The entry of a class queue, a mode or the class settings (R35). -/
def Scheduler.entryBytes (q : Scheduler) (idx : Nat) : Option (List Byte) :=
  match idx? 4 idx, idx? 4 (idx - 4) with
  | some k, _ => some q.port.u.queues[k].bytes
  | none, some k => some q.port.s.queues[k].bytes
  | none, none =>
    match idx with
    | 8 => some (natBytes 1 q.port.u.mode.code)
    | 9 => some (natBytes 1 q.port.s.mode.code)
    | 10 => some (natBytes 1 q.mgmtClass.val ++ natBytes 1 q.mediaClass.val)
    | _ => none

/-- The configurable fields of an entry as it stands, in the form of 11.3; none beyond the table. -/
def State.entryBytes (s : State) (t : TableId) (idx : Nat) : Option (List Byte) :=
  match t with
  | .domain =>
    match idx? 16 idx with
    | some i => some s.dom.entries[i].bytes
    | none => if idx = 16 then some (natBytes 1 s.dom.mgmt.val) else none
  | .steering => (idx? 64 idx).map fun i => s.steer[i].bytes
  | .pcpMap => (idx? 8 idx).map fun i => natBytes 1 (s.pcp[i]).val
  | .port =>
    match idx with
    | 0 => some s.ports.set.u.bytes
    | 1 => some s.ports.set.s.bytes
    | 2 => some (macBytes s.ports.partMac)
    | _ => none
  | .meter =>
    match idx? 16 idx with
    | some i => some s.meters.bank[i].bytes
    | none => if idx = 16 then some (natBytes 1 s.meters.agentMeter.val ++ natBytes 1 s.meters.mediaMeter.val) else none
  | .queue => s.sched.entryBytes idx
  | .pool => if idx = 0 then some (natBytes 2 s.pool.reserve ++ natBytes 2 s.pool.ceiling) else none
  | .operator => (idx? 8 idx).map fun i => s.operators[i].bytes
  | .console =>
    match idx with
    | 0 => some s.line.set.bytes
    | 1 => some (natBytes 2 s.hist.threshold ++ natBytes 2 s.hist.delay)
    | _ => none
  | .pattern => (idx? 8 idx).map fun i => s.hist.patterns[i].entryBytes
  | .region => (idx? 4 idx).map fun g => s.media.regions[g].cfg.bytes
  | .mediaParams => if idx = 0 then some (natBytes 2 s.media.timeoutMs ++ natBytes 1 s.media.retryCount) else none
  | .line => (idx? 6 idx).map fun k => s.power.lines[k].bytes (if k = outletIdx then s.power.guardSecs else 0)
  | .sense => (idx? 4 idx).map fun k => natBytes 2 s.power.sense[k].debounce
  | .senseTrigger => (idx? 8 idx).map fun n => s.power.triggers[n].bytes
  | .scriptDir => (idx? 16 idx).map fun i => s.script.dir[i].bytes
  | .scriptStep => (idx? 256 idx).map fun i => s.script.steps[i].bytes

/-! ### TABLE_WRITE (R56, R180) -/

def tableHead (r : Rec) : List Byte := r.body.take 2

/-- A refused write's reply: the entry as it stands, unless the status is MALFORMED or there is no such entry (R56). -/
def State.refusedWrite (s : State) (t : TableId) (r : Rec) (st : Status) : Answer :=
  let entry := if r.body.length < 2 then none else s.entryBytes t r.tableIndex
  ⟨st, tableHead r ++ (if st = .malformed then [] else entry.getD []), s⟩

/-- What an accepted OPERATOR write reports besides the entry: watcher removed, ownership released, requests removed (R46). -/
def State.operatorReport (s : State) (idx : Nat) : List Byte :=
  match idx? 8 idx with
  | none => []
  | some i =>
    flagByte (s.hist.watcherOf i).isSome ++ flagByte (s.line.owner.any (·.op == i)) ++
      natBytes 4 (s.script.queue.countP fun r => r.source == .operator i)

/-- A TABLE_WRITE of a known table, after the privilege (R56, steps 3 to 5). The reply is the table, the index and the entry
(R179): that of CONSOLE entry 0 carries DIV without the obtained baud of R61 (notes/assumptions/39.md). -/
def State.tableWrite (t : TableId) (r : Rec) (s : State) : Answer :=
  if s.loader.store ≠ .idle then s.refusedWrite t r .busy
  else if r.body.length < 2 ∨ t.entryForm r.tableIndex r.tableEntry = false then s.refusedWrite t r .malformed
  else
    match s.writeEntry t r.tableIndex r.tableEntry with
    | .error st => s.refusedWrite t r st
    | .ok s1 =>
      ⟨.ok, tableHead r ++ (s1.entryBytes t r.tableIndex).getD [] ++
        (if t = .operator then s.operatorReport r.tableIndex else []), s1⟩

/-- A TABLE_WRITE of an unknown table; a body too short to name one cannot be read (R56, notes/assumptions/16.md). -/
def State.tableWriteUnknown (r : Rec) (s : State) : Answer :=
  ⟨if r.body.isEmpty then .malformed else .noSuch, tableHead r, s⟩

def execTableWriteUnknown (s : State) : Host.Outcome State Fault Refusal :=
  .next (s.runRecord .tableWriteUnknown State.tableWriteUnknown)
def execTableWriteDomain (s : State) : Host.Outcome State Fault Refusal :=
  .next (s.runRecord .tableWriteDomain (State.tableWrite .domain))
def execTableWriteMgmtDomain (s : State) : Host.Outcome State Fault Refusal :=
  .next (s.runRecord .tableWriteMgmtDomain (State.tableWrite .domain))
def execTableWriteSteering (s : State) : Host.Outcome State Fault Refusal :=
  .next (s.runRecord .tableWriteSteering (State.tableWrite .steering))
def execTableWritePcpMap (s : State) : Host.Outcome State Fault Refusal :=
  .next (s.runRecord .tableWritePcpMap (State.tableWrite .pcpMap))
def execTableWritePort (s : State) : Host.Outcome State Fault Refusal :=
  .next (s.runRecord .tableWritePort (State.tableWrite .port))
def execTableWriteMeter (s : State) : Host.Outcome State Fault Refusal :=
  .next (s.runRecord .tableWriteMeter (State.tableWrite .meter))
def execTableWriteMeterSettings (s : State) : Host.Outcome State Fault Refusal :=
  .next (s.runRecord .tableWriteMeterSettings (State.tableWrite .meter))
def execTableWriteQueue (s : State) : Host.Outcome State Fault Refusal :=
  .next (s.runRecord .tableWriteQueue (State.tableWrite .queue))
def execTableWritePool (s : State) : Host.Outcome State Fault Refusal :=
  .next (s.runRecord .tableWritePool (State.tableWrite .pool))
def execTableWriteOperator (s : State) : Host.Outcome State Fault Refusal :=
  .next (s.runRecord .tableWriteOperator (State.tableWrite .operator))
def execTableWriteConsoleLine (s : State) : Host.Outcome State Fault Refusal :=
  .next (s.runRecord .tableWriteConsoleLine (State.tableWrite .console))
def execTableWriteConsoleHistory (s : State) : Host.Outcome State Fault Refusal :=
  .next (s.runRecord .tableWriteConsoleHistory (State.tableWrite .console))
def execTableWritePattern (s : State) : Host.Outcome State Fault Refusal :=
  .next (s.runRecord .tableWritePattern (State.tableWrite .pattern))
def execTableWriteRegion (s : State) : Host.Outcome State Fault Refusal :=
  .next (s.runRecord .tableWriteRegion (State.tableWrite .region))
def execTableWriteMediaParams (s : State) : Host.Outcome State Fault Refusal :=
  .next (s.runRecord .tableWriteMediaParams (State.tableWrite .mediaParams))
def execTableWriteLine (s : State) : Host.Outcome State Fault Refusal :=
  .next (s.runRecord .tableWriteLine (State.tableWrite .line))
def execTableWriteSense (s : State) : Host.Outcome State Fault Refusal :=
  .next (s.runRecord .tableWriteSense (State.tableWrite .sense))
def execTableWriteSenseTrigger (s : State) : Host.Outcome State Fault Refusal :=
  .next (s.runRecord .tableWriteSenseTrigger (State.tableWrite .senseTrigger))
def execTableWriteScriptDir (s : State) : Host.Outcome State Fault Refusal :=
  .next (s.runRecord .tableWriteScriptDir (State.tableWrite .scriptDir))
def execTableWriteScriptStep (s : State) : Host.Outcome State Fault Refusal :=
  .next (s.runRecord .tableWriteScriptStep (State.tableWrite .scriptStep))

/-! ### TABLE_READ (R57) -/

/-- A number of things in 4 bytes: the width of 11.1 for counts, taken also where it lists none (notes/assumptions/14.md). -/
def count4 (n : Nat) : List Byte := natBytes 4 n

/-- Cells of frames held in every place (R22, R41). -/
def inboxCells (s : State) : Nat := (s.agent.inbox.map Frame.cells).sum
def mediaInboxCells (s : State) : Nat := (s.media.inbox.map fun m => m.frame.cells).sum
def Egress.txCells (e : Egress) : Nat := match e.tx with
  | none => 0
  | some x => x.q.frame.cells
def Egress.queueCells (e : Egress) : Nat := queuedCells e.queued
def State.txCells (s : State) : Nat := s.sched.port.u.txCells + s.sched.port.s.txCells
def State.frameCells (s : State) : Nat :=
  s.sched.port.u.queueCells + s.sched.port.s.queueCells + inboxCells s + mediaInboxCells s + outCells s.agentOut.frames +
    outCells s.mediaOut.frames + s.txCells
def State.cacheCells (s : State) : Nat := Config.lineCells * s.media.lines.length

/-- Frame count, cell count and deficit of a class queue (R35, R41), each in 4 bytes (notes/assumptions/14.md). -/
def ClassQueue.runtime (q : ClassQueue) : List Byte := count4 q.frames.length ++ count4 q.cells ++ count4 q.deficit

/-- Lines in each state, in the order of the table in 7.1. -/
def Media.lineCounts (m : Media) : List Byte := ((List.range 5).map fun c => count4 (m.linesIn c)).flatten
def Media.useCounts (m : Media) : List Byte := count4 (m.inUse .inquire) ++ count4 (m.inUse .fetch) ++ count4 (m.inUse .flush)

def Region.runtimeBytes (r : Region) : List Byte :=
  natBytes 1 r.state.code ++ count4 r.sectors ++ flagByte r.writable ++ count4 r.failures ++ lastErrorBytes r.err

/-- The idle deadline, if one runs (R60, R75). -/
def ConsoleLine.idleDeadline (l : ConsoleLine) : Option Time :=
  match l.owner with
  | none => none
  | some o => if l.set.idleLimit = 0 then none else some (afterSecs o.last l.set.idleLimit)

/-- The runtime values of CONSOLE entry 0 (R60): the ownership state is the presence byte of the owner's index, 0 FREE and
1 OWNED (notes/assumptions/39.md). -/
def ConsoleLine.runtimeBytes (l : ConsoleLine) : List Byte :=
  natBytes 4 (obtainedBaud l.set.div) ++ natBytes 1 l.state.code ++ natBytes 1 l.rx.code ++ natBytes 1 l.tx.code ++
    count4 l.fifo.length ++ ownerBytes (l.owner.map (·.op)) ++ optTimeBytes l.idleDeadline

def History.watcherCount (h : History) : Nat := h.watchers.toList.countP Option.isSome

def History.runtimeBytes (h : History) : List Byte :=
  timeBytes h.newest ++ timeBytes h.oldest ++ count4 h.held ++ count4 h.marks.length ++ count4 h.watcherCount ++
    count4 h.notices.length

/-- The due time of a pending change; a running establishment is not reported as one (R141, R147, notes/assumptions/39.md). -/
def SensePending.changeDue : SensePending → Option Time
  | .change t => Option.some t
  | _ => Option.none

/-- The runtime values that the owning chapter names for reading (R57, R179, notes/assumptions/14.md, 34.md).
POOL's frame cells go as one total over the holding places (R22, R26, notes/assumptions/39.md). -/
def State.runtimeBytes (s : State) (t : TableId) (idx : Nat) : List Byte :=
  match t with
  | .steering => ((idx? 64 idx).map fun i => counterBytes s.steer[i].hits).getD []
  | .queue =>
    match idx? 4 idx, idx? 4 (idx - 4) with
    | some k, _ => s.sched.port.u.queues[k].runtime
    | none, some k => s.sched.port.s.queues[k].runtime
    | none, none => []
  | .pool => count4 s.pool.free ++ count4 s.frameCells ++ count4 s.cacheCells ++ count4 s.media.lines.length
  | .operator => ((idx? 8 idx).map fun i => counterBytes s.operators[i].admitted).getD []
  | .console => if idx = 0 then s.line.runtimeBytes else s.hist.runtimeBytes
  | .pattern =>
    ((idx? 8 idx).map fun i =>
      let p := s.hist.patterns[i]
      flagByte p.armed ++ counterBytes p.hits ++ count4 p.window.length).getD []
  | .region => ((idx? 4 idx).map fun g => s.media.regions[g].runtimeBytes).getD []
  | .mediaParams =>
    s.media.useCounts ++ count4 s.media.issue.length ++ count4 s.media.waitingInquiries.length ++
      count4 s.mediaOut.frames.length ++ s.media.lineCounts ++ count4 s.media.dirtyCount
  | .line =>
    ((idx? 6 idx).map fun k =>
      let l := s.power.lines[k]
      natBytes 1 (boolNat l.level) ++ flagByte l.driven ++ flagByte l.byScript).getD []
  | .sense =>
    ((idx? 4 idx).map fun k =>
      let x := s.power.sense[k]
      natBytes 1 (boolNat s.pins.raw[k]) ++ natBytes 1 (levelCode x.level) ++ optTimeBytes x.pending.changeDue).getD []
  | .senseTrigger => ((idx? 8 idx).map fun n => counterBytes s.power.triggers[n].hits).getD []
  | _ => []

/-- A TABLE_READ, after the privilege (R57). -/
def State.tableRead (r : Rec) (s : State) : Answer :=
  if r.body.isEmpty then ⟨.malformed, [], s⟩
  else
    match TableId.ofCode r.tableCode with
    | none => ⟨.noSuch, [], s⟩
    | some t =>
      if r.body.length ≠ 2 then ⟨.malformed, [], s⟩
      else
        match s.entryBytes t r.tableIndex with
        | none => ⟨.noSuch, [], s⟩
        | some e => ⟨.ok, tableHead r ++ e ++ s.runtimeBytes t r.tableIndex, s⟩

/-- TABLE_READ. -/
def execTableRead (s : State) : Host.Outcome State Fault Refusal := .next (s.runRecord .tableRead State.tableRead)

end Sys2Proof.Machine
end

