-- ==== Sys2Proof/Machine/ConsoleRecords.lean ====
section
/-! DEFINITION. The records of the console line and of the console history (spec/04, sections 4.3 to 4.5; spec/05, sections 5.1
to 5.5). -/

namespace Sys2Proof.Machine

/-! ### The rate (R67, R68) -/

/-- The obtained baud is reported with every DIV (R61), in 4 bytes as DIV is (notes/assumptions/14.md). -/
def divBytes (d : Nat) : List Byte := natBytes 4 d ++ natBytes 4 (obtainedBaud d)

def State.consoleBaud (r : Rec) (s : State) : Answer :=
  let b := fieldAt 0 4 r.body
  if b = 0 then ⟨.range, [], s⟩
  else
    let d := divOfBaud b
    ⟨.ok, divBytes d, s.abandonMeasurement.setDiv d⟩

/-- CONSOLE_BAUD (R67). -/
def execConsoleBaud (s : State) : Host.Outcome State Fault Refusal := .next (s.runRecord .consoleBaud State.consoleBaud)

/-- The receiver frames nothing while the line is MEASURING; it is kept in READY (R64, R68, notes/assumptions/40.md). -/
def State.consoleBaudAuto (_ : Rec) (s : State) : Answer :=
  ⟨.ok, divBytes s.line.set.div, s.onLine fun l => { l with state := .measuring 0 none s.clock.now none, rx := .ready }⟩

/-- CONSOLE_BAUD_AUTO (R68). -/
def execConsoleBaudAuto (s : State) : Host.Outcome State Fault Refusal :=
  .next (s.runRecord .consoleBaudAuto State.consoleBaudAuto)

/-! ### Ownership and typing (R73 to R77) -/

def State.ownerOp (s : State) : Option (Fin 8) := s.line.owner.map (·.op)

/-- The owner's last activity is now (R73, R75). -/
def State.renewOwner (s : State) : State :=
  s.onLine fun l => { l with owner := l.owner.map fun o => { o with last := s.clock.now } }

/-- A forced claim; the reply's owner is an optional value, the items removed follow it (R73, notes/assumptions/39.md), as a count
of entries removed, in 4 bytes (11.1, notes/assumptions/14.md). -/
def State.claimForced (s : State) : Answer :=
  let n := s.line.fifo.length
  let s1 := s.flushFifo.changeOwner (some s.caller) .forced
  ⟨.ok, ownerBytes (some s.caller) ++ count4 n, s1⟩

/-- A claim, by the table of R73; the owner of a reply or a CONFLICT goes as an optional value, and a number of items removed
follows it only on a flush, without a presence byte (R49, R73, R179, notes/assumptions/39.md). -/
def State.claim (force : Bool) (s : State) : Answer :=
  match s.ownerOp with
  | none => if force then s.claimForced else ⟨.ok, ownerBytes (some s.caller), s.changeOwner (some s.caller) .claim⟩
  | some o =>
    if o = s.caller then ⟨.ok, ownerBytes (some o), s.renewOwner⟩
    else if force then s.claimForced
    else ⟨.conflict, ownerBytes (some o), s⟩

/-- CONSOLE_CLAIM (R73). -/
def execConsoleClaim (s : State) : Host.Outcome State Fault Refusal :=
  .next (s.runRecord .consoleClaim fun _ t => t.claim false)

/-- CONSOLE_CLAIM_FORCE (R73). -/
def execConsoleClaimForce (s : State) : Host.Outcome State Fault Refusal :=
  .next (s.runRecord .consoleClaimForce fun _ t => t.claim true)

def State.consoleRelease (_ : Rec) (s : State) : Answer :=
  match s.ownerOp with
  | none => ⟨.state, [], s⟩
  | some o => if o = s.caller then ⟨.ok, [], s.changeOwner none .released⟩ else ⟨.conflict, ownerBytes (some o), s⟩

/-- CONSOLE_RELEASE (R74). -/
def execConsoleRelease (s : State) : Host.Outcome State Fault Refusal :=
  .next (s.runRecord .consoleRelease State.consoleRelease)

/-- Room of the input FIFO (R71). -/
def State.fifoRoom (s : State) : Nat := Config.fifoLimit - s.line.fifo.length

def State.appendFifo (xs : List FifoItem) (s : State) : State := (s.onLine fun l => { l with fifo := l.fifo ++ xs }).txNext

/-- The accepted count, for which 11.1 lists no width, goes in 4 bytes (R76, notes/assumptions/14.md). -/
def State.consoleType (r : Rec) (s : State) : Answer :=
  if s.ownerOp = some s.caller then
    let n := min r.body.length s.fifoRoom
    let s1 := s.renewOwner.onLineCnt fun c => { c with typeShort := c.typeShort + BitVec.ofNat 32 (r.body.length - n) }
    ⟨.ok, count4 n, s1.appendFifo ((r.body.take n).map FifoItem.byte)⟩
  else ⟨.conflict, ownerBytes s.ownerOp, s⟩

/-- CONSOLE_TYPE (R76). -/
def execConsoleType (s : State) : Host.Outcome State Fault Refusal := .next (s.runRecord .consoleType State.consoleType)

/-- The accepted count, 0 or 1, goes in 4 bytes too (R77, notes/assumptions/14.md). -/
def State.consoleBreak (r : Rec) (s : State) : Answer :=
  if s.ownerOp = some s.caller then
    let ms := clamp 100 2000 (fieldAt 0 2 r.body)
    let xs := if s.fifoRoom = 0 then [] else [FifoItem.brk ms]
    ⟨.ok, count4 xs.length ++ natBytes 2 ms, s.renewOwner.appendFifo xs⟩
  else ⟨.conflict, ownerBytes s.ownerOp, s⟩

/-- CONSOLE_BREAK (R77). -/
def execConsoleBreak (s : State) : Host.Outcome State Fault Refusal := .next (s.runRecord .consoleBreak State.consoleBreak)

/-! ### Marks (R82) -/

def State.consoleMark (r : Rec) (s : State) : Answer :=
  ⟨.ok, counterBytes s.hist.nextMark ++ timeBytes s.hist.newest ++ timeBytes s.clock.now ++ epochBytes s.clock.epoch,
    s.addMark .operator (BitVec.ofNat 16 (fieldAt 0 2 r.body))⟩

/-- CONSOLE_MARK (R82). -/
def execConsoleMark (s : State) : Host.Outcome State Fault Refusal := .next (s.runRecord .consoleMark State.consoleMark)

def Mark.bytes (m : Mark) : List Byte :=
  natBytes 1 m.kind.code ++ counterBytes m.seq ++ timeBytes m.offset ++ timeBytes m.time ++ epochBytes m.epoch ++
    natBytes 2 m.code.toNat

def State.consoleMarks (r : Rec) (s : State) : Answer :=
  let ms := if r.body.isEmpty then s.hist.marks else s.hist.marks.filter fun m => fieldAt 0 4 r.body ≤ m.seq.toNat
  ⟨.ok, count4 s.hist.marks.length ++ counterBytes s.hist.nextMark ++ natBytes 1 ms.length ++ (ms.map Mark.bytes).flatten, s⟩

/-- CONSOLE_MARKS (R82). -/
def execConsoleMarks (s : State) : Host.Outcome State Fault Refusal := .next (s.runRecord .consoleMarks State.consoleMarks)

/-! ### Patterns (R94) -/

def State.consoleArm (r : Rec) (s : State) : Answer :=
  match (idx? 8 (fieldAt 0 1 r.body)).filter fun i => s.hist.patterns[i].valid with
  | none => ⟨.noSuch, [], s⟩
  | some i =>
    let p := s.hist.patterns[i]
    ⟨.ok, natBytes 1 i.val ++ flagByte true ++ counterBytes p.hits, s.setPattern i { p with armed := true, window := [] }⟩

/-- CONSOLE_ARM (R94). -/
def execConsoleArm (s : State) : Host.Outcome State Fault Refusal := .next (s.runRecord .consoleArm State.consoleArm)

/-! ### Watchers (R83, R84) -/

/-- The next offset a start gives (R83). -/
def History.startOffset (h : History) (start : Nat) (x : Offset) : Offset :=
  match start with
  | 0 => h.newest
  | 1 => h.oldest
  | _ =>
    match h.relation x with
    | .ahead => h.newest
    | .held => x
    | .below => x

/-- The destination of a watcher's pushes: the entry's address, or the frame's source for a wildcard entry (R53, R83). -/
def State.pushAddr (s : State) : Mac :=
  let o := s.operators[s.caller]
  if o.wildcard then s.agent.src else o.addr

/-- A data watcher that is due stays due until a push, also when it is updated (R86, notes/assumptions/22.md). -/
def State.staysDue (s : State) (w : Fin 4) (data : Bool) : Bool :=
  data && (match s.hist.watchers[w] with
    | none => false
    | some x => x.due)

/-- A watcher is created or updated at an index (R83). -/
def State.setWatcher (w : Fin 4) (data notices : Bool) (next : Offset) (s : State) : State :=
  let x : Watcher :=
    { op := s.caller, addr := s.pushAddr, wantsData := data, wantsNotices := notices, next := next
      pendingSince := if next = s.hist.newest then none else some s.clock.now, lost := 0, due := s.staysDue w data }
  (s.onHist fun h =>
    let h1 := { h with watchers := h.watchers.set w (some x) }
    if notices then h1 else h1.disown w).settleOffer

/-- The watcher is created or updated, and the reply says which: the spec does not say whether as a flag or as an enumeration. That
it is sent as the enumeration of R83's words, created 0 and updated 1, is the model's choice (notes/assumptions/39.md). -/
def State.watchAt (created : Bool) (w : Fin 4) (r : Rec) (s : State) : Answer :=
  let data := flagAt 0 r.body
  let notices := flagAt 1 r.body
  let next := if data then s.hist.startOffset (fieldAt 2 1 r.body) (BitVec.ofNat 48 (fieldAt 3 6 r.body)) else s.hist.newest
  ⟨.ok, natBytes 1 w.val ++ natBytes 1 (if created then 0 else 1) ++ flagByte data ++ flagByte notices ++ timeBytes next ++
    timeBytes s.hist.newest ++ timeBytes s.hist.oldest, s.setWatcher w data notices next⟩

/-- An unlisted start is refused with RANGE (notes/assumptions/13.md). That it is tested with the two flags, before the test for a
free watcher and also without wants-data, is the model's choice (39.md). -/
def State.consoleWatch (r : Rec) (s : State) : Answer :=
  if (!flagAt 0 r.body && !flagAt 1 r.body) || 2 < fieldAt 2 1 r.body then ⟨.range, [], s⟩
  else
    match s.hist.watcherOf s.caller with
    | some w => s.watchAt false w r
    | none =>
      match firstIdx 4 fun w => s.hist.watchers[w].isNone with
      | none => ⟨.busy, [], s⟩
      | some w => s.watchAt true w r

/-- CONSOLE_WATCH (R83). -/
def execConsoleWatch (s : State) : Host.Outcome State Fault Refusal := .next (s.runRecord .consoleWatch State.consoleWatch)

def State.consoleUnwatch (_ : Rec) (s : State) : Answer :=
  match s.hist.watcherOf s.caller with
  | none => ⟨.state, [], s⟩
  | some w => ⟨.ok, [], s.removeWatcher w⟩

/-- CONSOLE_UNWATCH (R84). -/
def execConsoleUnwatch (s : State) : Host.Outcome State Fault Refusal :=
  .next (s.runRecord .consoleUnwatch State.consoleUnwatch)

/-! ### Reading the history (R80) -/

/-- Start taken, gap flag and bytes of a fetch (R80); at or ahead of NEWEST the start stands as sent (notes/assumptions/35.md). -/
def History.fetch (h : History) (x : Offset) (n : Nat) : Offset × Bool × List Byte :=
  match h.relation x with
  | .held => (x, false, h.slice x (min n (h.behind x)))
  | .below => (h.oldest, true, h.slice h.oldest (min n h.held))
  | .ahead => (x, false, [])

def State.consoleFetch (r : Rec) (s : State) : Answer :=
  let n := min (fieldAt 6 2 r.body) Config.chunkBytes
  let f := s.hist.fetch (BitVec.ofNat 48 (fieldAt 0 6 r.body)) n
  ⟨.ok, timeBytes f.1 ++ natBytes 2 f.2.2.length ++ flagByte f.2.1 ++ natBytes 2 n ++ timeBytes s.hist.newest ++
    timeBytes s.hist.oldest ++ f.2.2, s⟩

/-- CONSOLE_FETCH (R80). -/
def execConsoleFetch (s : State) : Host.Outcome State Fault Refusal := .next (s.runRecord .consoleFetch State.consoleFetch)

end Sys2Proof.Machine
end

