-- ==== Sys2Proof/Machine/MediaRecords.lean ====
section
/-! DEFINITION. The records of the media engine (spec/06). -/

namespace Sys2Proof.Machine

/-- A valid region named by a record. -/
def State.validRegion (s : State) (r : Rec) : Option (Fin 4) :=
  (idx? 4 (fieldAt 0 1 r.body)).filter fun g => s.media.regions[g].cfg.valid

def State.regionState (s : State) (g : Fin 4) : RegionState := s.media.regions[g].state

def State.mediaAttach (r : Rec) (s : State) : Answer :=
  match s.validRegion r with
  | none => ⟨.noSuch, [], s⟩
  | some g =>
    if s.regionState g = .detached then ⟨.ok, natBytes 1 RegionState.attaching.code, s.beginAttach g⟩ else ⟨.state, [], s⟩

/-- MEDIA_ATTACH (R98). -/
def execMediaAttach (s : State) : Host.Outcome State Fault Refusal := .next (s.runRecord .mediaAttach State.mediaAttach)

/-- The steps of a detach, as one event (R100, R101). -/
def State.detachRegion (g : Fin 4) (discard : Bool) (s : State) : State :=
  let s1 := s.endHeldWhere (fun h => h.unit == g) .noUnit
  let s2 := (s1.cancelFetches g (· != .flush)).onMedia fun m => { m with
    waitingInquiries := m.waitingInquiries.filter (· != g) }
  let s3 := if discard then s2.discardDirty g else s2
  if s3.media.regionDirty g = 0 then s3.becomeDetached g else s3.enterRegion g .detaching

/-- Discarding is asked for, or the region is FAULTED (R100). -/
def State.detachDiscards (s : State) (g : Fin 4) (discard : Bool) : Bool := discard || s.regionState g == .faulted

/-- A detach (R100, R101); with discard of a DETACHING region it replies with the state and the three counts that R100 gives
for the other states (notes/assumptions/39.md). -/
def State.detach (discard : Bool) (r : Rec) (s : State) : Answer :=
  match s.validRegion r with
  | none => ⟨.noSuch, [], s⟩
  | some g =>
    let st := s.regionState g
    if st = .detached ∨ (st = .detaching ∧ discard = false) then ⟨.state, [], s⟩
    else
      let drop := s.detachDiscards g discard
      let dirty := s.media.regionDirty g
      let answered := s.media.held.countP fun h => h.unit == g
      let s1 := s.detachRegion g drop
      ⟨.ok, natBytes 1 (s1.regionState g).code ++ count4 answered ++ count4 (if drop then 0 else dirty) ++
        count4 (if drop then dirty else 0), s1⟩

/-- MEDIA_DETACH (R100). -/
def execMediaDetach (s : State) : Host.Outcome State Fault Refusal := .next (s.runRecord .mediaDetach (State.detach false))

/-- MEDIA_DETACH_DISCARD (R100, R101). -/
def execMediaDetachDiscard (s : State) : Host.Outcome State Fault Refusal :=
  .next (s.runRecord .mediaDetachDiscard (State.detach true))

def State.mediaResume (r : Rec) (s : State) : Answer :=
  match s.validRegion r with
  | none => ⟨.noSuch, [], s⟩
  | some g =>
    if s.regionState g = .faulted then
      ⟨.ok, natBytes 1 RegionState.attached.code ++ count4 (s.media.regionDirty g), (s.enterRegion g .attached).runFlushes⟩
    else ⟨.state, [], s⟩

/-- MEDIA_RESUME (R103). -/
def execMediaResume (s : State) : Host.Outcome State Fault Refusal := .next (s.runRecord .mediaResume State.mediaResume)

/-- Unfetched sectors in the awaiting sets of a region's held READs (R114). One that two held READs await counts once for each
(notes/assumptions/39.md). -/
def Media.unfetched (m : Media) (g : Fin 4) : Nat :=
  ((m.held.filter fun h => h.unit == g).map fun h => h.awaiting.countP fun x => (m.findLine g x).isNone).sum

/-- OPEN 0, CLOSED 1, in the order of 8.4 (11.1). -/
def windowCode (w : Option Time) : Nat := if w.isSome then 0 else 1

def State.mediaStatusBytes (s : State) (g : Fin 4) : List Byte :=
  let m := s.media
  let rg := m.regions[g]
  let kind (k : TransferKind) : List Byte := count4 (m.entriesOf g (· == k)).length
  flagByte rg.cfg.valid ++ flagByte rg.cfg.bootOnly ++ flagByte rg.cfg.writeProtect ++ natBytes 1 rg.cfg.service ++
    rg.runtimeBytes ++ ((List.range 5).map fun c => count4 (m.regionLines g c)).flatten ++
    count4 (m.held.countP fun h => h.unit == g) ++ kind .inquire ++ kind .fetch ++ kind .flush ++ count4 (m.unfetched g) ++
    natBytes 1 (windowCode s.power.window) ++ count4 m.held.length ++ count4 m.dirtyCount

def State.mediaStatus (r : Rec) (s : State) : Answer :=
  match idx? 4 (fieldAt 0 1 r.body) with
  | none => ⟨.noSuch, [], s⟩
  | some g => ⟨.ok, s.mediaStatusBytes g, s⟩

/-- MEDIA_STATUS (R114). -/
def execMediaStatus (s : State) : Host.Outcome State Fault Refusal := .next (s.runRecord .mediaStatus State.mediaStatus)

end Sys2Proof.Machine
end

