-- ==== Sys2Proof/Machine/PowerRecords.lean ====
section
/-! DEFINITION. The records of the power unit and of the script engine (spec/08, section 8.5; spec/09, section 9.6). -/

namespace Sys2Proof.Machine

/-- The disposition of an accepted POWER_REQUEST and what the reply adds, in the order of R163; `none` for a refusal. -/
def Disposal.report : Disposal → List Byte
  | .invalid => []
  | .started => natBytes 1 0
  | .preempted k => natBytes 1 1 ++ natBytes 1 k.val
  | .queued n => natBytes 1 2 ++ natBytes 1 n
  | .coalesced n => natBytes 1 3 ++ natBytes 1 n
  | .displaced n g => natBytes 1 4 ++ natBytes 1 n ++ natBytes 1 g.script.val ++ g.source.bytes ++ natBytes 1 g.prio
  | .full low => natBytes 1 low

def Disposal.status : Disposal → Status
  | .invalid => .noSuch
  | .full _ => .busy
  | _ => .ok

/-- The request a POWER_REQUEST presents (R163). -/
def State.operatorRequest (s : State) (r : Rec) (k : Fin 16) : Request :=
  let prio := if r.body.length = 2 then min 7 (fieldAt 1 1 r.body) else s.script.dir[k].prio
  ⟨k, .operator s.caller, prio, r.flag, s.clock.now⟩

def State.powerRequest (r : Rec) (s : State) : Answer :=
  match idx? 16 (fieldAt 0 1 r.body) with
  | none => ⟨.noSuch, [], s⟩
  | some k =>
    let q := s.operatorRequest r k
    match s.present q with
    | (.invalid, s1) => ⟨.noSuch, [], s1⟩
    | (d, s1) => ⟨d.status, natBytes 1 q.prio ++ flagByte q.preempt ++ d.report, s1⟩

/-- POWER_REQUEST (R163). -/
def execPowerRequest (s : State) : Host.Outcome State Fault Refusal := .next (s.runRecord .powerRequest State.powerRequest)

def State.cancelRunning (_ : Rec) (s : State) : Answer :=
  match s.script.running with
  | none => ⟨.state, [], s⟩
  | some c => ⟨.ok, natBytes 1 c.script.val, s.finishScript .aborted c.cur⟩

/-- POWER_CANCEL_RUNNING (R164). -/
def execPowerCancelRunning (s : State) : Host.Outcome State Fault Refusal :=
  .next (s.runRecord .powerCancelRunning State.cancelRunning)

/-- Queued entries of a script leave the queue (R164). An unlisted target is refused with RANGE (notes/assumptions/13.md), before
the script index is judged (39.md). -/
def State.cancelQueued (r : Rec) (s : State) : Answer :=
  if 1 < fieldAt 0 1 r.body then ⟨.range, [], s⟩
  else
    match idx? 16 (fieldAt 1 1 r.body) with
    | none => ⟨.noSuch, [], s⟩
    | some k =>
      let n := s.script.queue.countP fun q => q.script == k
      ⟨.ok, count4 n, s.onScript fun e => { e with
        queue := e.queue.filter fun q => q.script != k
        cnt := { e.cnt with cancelled := e.cnt.cancelled + BitVec.ofNat 32 n } }⟩

/-- POWER_CANCEL_QUEUED (R164). -/
def execPowerCancelQueued (s : State) : Host.Outcome State Fault Refusal :=
  .next (s.runRecord .powerCancelQueued State.cancelQueued)

/-! ### Status records (R147, R165) -/

/-- IDLE 0, DELAYING 1, ACTING 2, AWAITING 3, GUARD_WAIT 4, in the order of 9.2. -/
def engineCode : Option Running → Nat
  | none => 0
  | some c => match c.wait with
    | .delaying _ => 1
    | .acting => 2
    | .awaiting _ => 3
    | .guardWait _ => 4

def Wait.expiry : Wait → Option Time
  | .delaying t => some t
  | .acting => none
  | .awaiting t => some t
  | .guardWait t => some t

/-- The context (R165); a return step goes in the byte of an index, its low byte for 256 (R157, notes/assumptions/39.md). -/
def Running.bytes (c : Running) : List Byte :=
  natBytes 1 c.script.val ++ c.source.bytes ++ natBytes 1 c.prio ++ flagByte c.preemptible ++ timeBytes c.start ++
    natBytes 1 c.cur ++ natBytes 1 c.stack.length ++ (c.stack.map (natBytes 1)).flatten ++ optTimeBytes c.wait.expiry

/-- The context as an optional value: 20 zero bytes stand for an absent one (notes/assumptions/15.md). -/
def contextBytes : Option Running → List Byte
  | none => natBytes 21 0
  | some c => 1 :: c.bytes

def Request.bytes (q : Request) : List Byte :=
  natBytes 1 q.script.val ++ q.source.bytes ++ natBytes 1 q.prio ++ flagByte q.preempt ++ timeBytes q.arrival

def lastOutcomeBytes : Option LastOutcome → List Byte
  | none => natBytes 22 0
  | some o => 1 :: natBytes 1 o.script.val ++ o.source.bytes ++ natBytes 1 o.prio ++ o.outcome.bytes ++ natBytes 1 o.step ++
      timeBytes o.start ++ timeBytes o.finish

def State.powerStatusBytes (s : State) : List Byte :=
  let e := s.script
  natBytes 1 (engineCode e.running) ++ contextBytes e.running ++ flagByte s.ports.holdS ++ natBytes 1 e.queue.length ++
    (e.queue.map Request.bytes).flatten ++ lastOutcomeBytes e.last ++ timeBytes s.clock.now

/-- POWER_STATUS (R165). -/
def execPowerStatus (s : State) : Host.Outcome State Fault Refusal :=
  .next (s.runRecord .powerStatus fun _ t => ⟨.ok, t.powerStatusBytes, t⟩)

/-- Driven or undriven goes as a flag, 1 driven (R147, notes/assumptions/39.md). -/
def OutLine.statusBytes (l : OutLine) : List Byte :=
  natBytes 1 l.cls.code ++ natBytes 1 (boolNat l.idle) ++ natBytes 1 (boolNat l.level) ++ flagByte l.driven ++
    flagByte l.byScript

/-- The guard record with its expiry and whether it holds now, as an optional value (notes/assumptions/15.md); the guard time
recorded goes in the 2 bytes of a LINE entry (R147, notes/assumptions/14.md). -/
def guardBytes (now : Time) : Option GuardRecord → List Byte
  | none => natBytes 16 0
  | some g => 1 :: timeBytes g.fall ++ natBytes 2 g.secs ++ timeBytes g.expiry ++ flagByte (!guardPasses now (some g))

def State.senseBytes (s : State) (k : Fin 4) : List Byte :=
  let x := s.power.sense[k]
  natBytes 1 (boolNat s.pins.raw[k]) ++ natBytes 1 (levelCode x.level) ++ natBytes 2 x.debounce ++
    optTimeBytes x.pending.changeDue

def State.lineStatusBytes (s : State) : List Byte :=
  (s.power.lines.toList.map OutLine.statusBytes).flatten ++ guardBytes s.clock.now s.power.guardRec ++
    ((List.finRange 4).map s.senseBytes).flatten ++ natBytes 1 s.power.state.code ++ timeBytes s.power.stateAt ++
    natBytes 1 (windowCode s.power.window) ++ optTimeBytes s.power.window ++ timeBytes s.clock.now

/-- LINE_STATUS (R147). -/
def execLineStatus (s : State) : Host.Outcome State Fault Refusal :=
  .next (s.runRecord .lineStatus fun _ t => ⟨.ok, t.lineStatusBytes, t⟩)

end Sys2Proof.Machine
end

