-- ==== Sys2Proof/Machine/Stats.lean ====
section
/-! DEFINITION. IDENTIFY, TIME_SET, the epoch anchor and the statistics groups (spec/03, section 3.6; spec/10, sections 10.1 and
10.2). Values go in the order of their lists, counts in four bytes (notes/assumptions/14.md). -/

namespace Sys2Proof.Machine

/-! ### Identity (R58) -/

/-- The capacities, in the order of R58. -/
def capacities : List Nat := [16, 64, 16, 8192, 8, 65536, 32, 4, 8, 4, 1024, 16, 16, 6, 4, 16, 256]

/-- The start record: the RESTART fields are one optional group behind one presence byte (R58, R176, notes/assumptions/15.md). -/
def StartRecord.bytes (r : StartRecord) : List Byte :=
  natBytes 1 r.cause.code ++
    (match r.cause with
      | .powerOn => natBytes 8 0
      | .restart => 1 :: flagByte r.force ++ count4 r.dirtyLost ++ flagByte r.scriptAborted ++ flagByte r.storeAbandoned)

/-- The image status: length and counts are one optional group behind one presence byte (R58, 10.3, notes/assumptions/15.md). -/
def ImageStatus.bytes (i : ImageStatus) : List Byte :=
  natBytes 1 i.source.code ++
    (match i.source with
      | .image => 1 :: count4 i.length ++ count4 i.applied ++ count4 i.skipped
      | _ => natBytes 13 0) ++ natBytes 1 i.eeprom.code

/-- The values of IDENTIFY, in the order of R58; the revision code in 1 byte (notes/assumptions/14.md). -/
def State.identityBytes (s : State) : List Byte :=
  natBytes 2 Config.vendorCode.toNat ++ natBytes 2 Config.partCode.toNat ++ natBytes 1 1 ++
    (capacities.map count4).flatten ++ macBytes s.ports.partMac ++ timeBytes s.clock.now ++ s.loader.start.bytes ++
    s.loader.image.bytes ++ natBytes 1 s.loader.store.code ++ natBytes 1 s.caller.val ++ s.operators[s.caller].privs.bytes

/-- IDENTIFY (R58). -/
def execIdentify (s : State) : Host.Outcome State Fault Refusal :=
  .next (s.runRecord .identify fun _ t => ⟨.ok, t.identityBytes, t⟩)

/-! ### The epoch (R168) -/

def State.timeSet (r : Rec) (s : State) : Answer :=
  let v := fieldAt 0 5 r.body
  if 2 ^ 40 ≤ v then ⟨.range, [], s⟩
  else ⟨.ok, epochBytes (some v) ++ timeBytes s.clock.now, s.onClock fun c => { c with anchor := some ⟨v, c.now⟩ }⟩

/-- TIME_SET (R168). -/
def execTimeSet (s : State) : Host.Outcome State Fault Refusal := .next (s.runRecord .timeSet State.timeSet)

/-- The anchor moved forward by whole seconds, which leaves the epoch it yields unchanged (R168). -/
def EpochAnchor.moved (a : EpochAnchor) (now : Time) : EpochAnchor :=
  let k := elapsed now a.at' / 1000000
  ⟨(a.value + k) % 2 ^ 40, afterSecs a.at' k⟩

/-- EPOCH_ANCHOR_ADVANCE: the elapsed time has reached 2^46 µs (R168). -/
def State.epochAnchorAdvance (s : State) : State :=
  match s.clock.anchor with
  | none => s
  | some a =>
    if 2 ^ 46 ≤ elapsed s.clock.now a.at' then s.onClock fun c => { c with anchor := some (a.moved c.now) } else s

def execEpochAnchorAdvance (s : State) : Host.Outcome State Fault Refusal := .next s.epochAnchorAdvance

/-! ### Groups (R169) -/

/-- The nine groups (10.2). -/
inductive Group where
  | portU | portS | steering | meters | pool | agent | console | media | power
deriving DecidableEq, Repr

/-- PORT_U 1 to POWER 9 (11.2). -/
def Group.ofCode : Nat → Option Group
  | 1 => some .portU | 2 => some .portS | 3 => some .steering | 4 => some .meters | 5 => some .pool | 6 => some .agent
  | 7 => some .console | 8 => some .media | 9 => some .power | _ => none

def Group.all : List Group := [.portU, .portS, .steering, .meters, .pool, .agent, .console, .media, .power]

def counters (cs : List Counter) : List Byte := (cs.map counterBytes).flatten

/-- R4, R41. -/
def PortCounters.bytes (c : PortCounters) : List Byte :=
  counters [c.rxFrames, c.rxBytes, c.runt, c.oversize, c.fcsErr, c.domainMiss, c.held, c.controlFromServer, c.agentFull,
    c.mediaFull, c.steerDrop, c.meterDrop, c.egressNotMember, c.tagOversize, c.linkDown, c.linkFlush, c.txFrames, c.txBytes,
    c.linkChanges, c.queueFull, c.poolFull, c.holdFlush]

/-- IDLE 0, SENDING 1. -/
def Egress.txCode (e : Egress) : Nat := if e.tx.isSome then 1 else 0

def State.portStats (s : State) (p : Port) : List Byte :=
  let e := s.sched.port.get p
  (s.ports.cnt.get p).bytes ++ (e.queues.toList.map ClassQueue.runtime).flatten ++ natBytes 1 e.txCode

/-- CONFORM, EXCEED and the credit, which goes in 4 bytes (R41, notes/assumptions/14.md). -/
def Meter.stats (m : Meter) : List Byte := counterBytes m.conform ++ counterBytes m.exceed ++ count4 m.credit

/-- R41. -/
def State.poolStats (s : State) : List Byte :=
  count4 s.pool.free ++ count4 s.sched.port.u.queueCells ++ count4 s.sched.port.s.queueCells ++ count4 (inboxCells s) ++
    count4 (mediaInboxCells s) ++ count4 (outCells s.agentOut.frames) ++ count4 (outCells s.mediaOut.frames) ++
    count4 s.txCells ++ count4 s.cacheCells ++ count4 s.media.lines.length ++
    counters [s.pool.cacheAlloc, s.pool.cacheEvict, s.pool.cacheAllocFail, s.pool.ceilingEvict] ++ count4 s.pool.lowFree

/-- R59. -/
def State.agentStats (s : State) : List Byte :=
  let c := s.agent.cnt
  counters [c.framesTaken, c.unknownSource, c.badHeader, c.records, c.denied, c.malformed, c.replyFrames, c.pushFrames,
    c.outWait] ++ count4 s.agent.inbox.length ++ count4 s.agentOut.frames.length ++ natBytes 1 s.agent.state.code ++
    natBytes 1 s.loader.store.code

/-- R78. -/
def State.lineStats (s : State) : List Byte :=
  let l := s.line
  let c := l.cnt
  counters [c.rxChars, c.framingErr, c.parityErr, c.breakIn, c.txChars, c.breakOut, c.ctsWait, c.autobaudOvf, c.autobaudOk,
    c.autobaudFail, c.typeShort] ++ natBytes 1 l.state.code ++ divBytes l.set.div ++ count4 l.fifo.length ++ ownerBytes s.ownerOp

/-- A watcher as an optional value (notes/assumptions/15.md). -/
def watcherBytes : Option Watcher → List Byte
  | none => natBytes 14 0
  | some w => 1 :: natBytes 1 w.op.val ++ flagByte w.wantsData ++ flagByte w.wantsNotices ++ timeBytes w.next ++
      counterBytes w.lost

/-- R95. The patterns' hit counters go after the other counters and before the current values: the model's choice
(notes/assumptions/39.md). -/
def State.historyStats (s : State) : List Byte :=
  let h := s.hist
  let c := h.cnt
  counters [c.markDropped, c.dataPushes, c.dataBytes, c.gaps, c.gapBytes, c.notices, c.noticeLost, c.patternHits] ++
    counters (h.patterns.toList.map Pattern.hits) ++ timeBytes h.newest ++ timeBytes h.oldest ++ count4 h.marks.length ++
    counterBytes h.nextMark ++ count4 h.notices.length ++ (h.watchers.toList.map watcherBytes).flatten ++
    (h.patterns.toList.map fun p => flagByte p.armed).flatten

/-- R114, R134. -/
def State.mediaStats (s : State) : List Byte :=
  let b := s.media.blk
  let x := s.media.xfer
  counters [b.requests, b.replyOk, b.replyNotReady, b.replyBusy, b.replyNoUnit, b.replyRange, b.replyProtected,
    b.replyMediaError, b.replyMalformed, b.replyDrop, b.badSource, b.duplicate, b.heldEntered, b.heldExpired, b.writeBusy,
    b.dirtyLost] ++
  counters [x.fillsStarted, x.fillSectors, x.fillDeferred, x.fetchDone, x.fetchFailed, x.flushesStarted, x.flushDone,
    x.flushFailed, x.timeouts, x.retries, x.refusals, x.stale, x.dataDiscard, x.imgMalformed, x.issueWait] ++
  s.media.lineCounts ++ count4 s.media.dirtyCount ++ s.media.useCounts ++ count4 s.media.issue.length ++
  count4 s.mediaOut.frames.length

/-- R148. RISES and FALLS go as one pair for each sense line, and the triggers' hit counters, which are "among its counters", after
the other counters and before the current values: the model's choice (notes/assumptions/39.md). -/
def State.powerUnitStats (s : State) : List Byte :=
  let p := s.power
  let c := p.cnt
  counters ([c.drives, c.guardHolds] ++ ((List.finRange 4).map fun k => [c.rises[k], c.falls[k]]).flatten ++
    c.glitches.toList ++ [c.stateChanges, c.bootOpens, c.bootCloses] ++ p.triggers.toList.map Trigger.hits) ++
  (p.lines.toList.map fun l => natBytes 1 (boolNat l.level)).flatten ++
  (p.sense.toList.map fun x => natBytes 1 (levelCode x.level)).flatten ++ natBytes 1 p.state.code ++
  natBytes 1 (windowCode p.window)

/-- R166. -/
def State.scriptStats (s : State) : List Byte :=
  let e := s.script
  let c := e.cnt
  counters [c.started, c.finishedOk, c.finishedFailed, c.finishedFault, c.finishedAborted, c.steps, c.awaitTimeouts, c.queued,
    c.coalesced, c.displaced, c.preemptions, c.cancelled, c.requestLost, c.requestInvalid] ++
  natBytes 1 (engineCode e.running) ++ optBytes 1 (e.running.map fun r => r.script.val) ++ count4 e.queue.length

/-- Every value of a group, read at one moment (R169). In CONSOLE and POWER all values of the block that 10.2 names first stand
before those of the other: the model's choice (notes/assumptions/39.md). -/
def State.groupBytes (s : State) : Group → List Byte
  | .portU => s.portStats .u
  | .portS => s.portStats .s
  | .steering => counters (s.steer.toList.map Steering.hits)
  | .meters => (s.meters.bank.toList.map Meter.stats).flatten
  | .pool => s.poolStats
  | .agent => s.agentStats
  | .console => s.lineStats ++ s.historyStats
  | .media => s.mediaStats
  | .power => s.powerUnitStats ++ s.scriptStats

/-- The counters of a group are set to 0; LOW_FREE to the free count (R41, R169). -/
def State.clearGroup (s : State) : Group → State
  | .portU => s.onCnt .u fun _ => {}
  | .portS => s.onCnt .s fun _ => {}
  | .steering => { s with steer := Vector.ofFn fun i => { s.steer[i] with hits := 0 } }
  | .meters => s.onMeters fun x => { x with bank := Vector.ofFn fun i => { x.bank[i] with conform := 0, exceed := 0 } }
  | .pool => s.onPool fun p => { p with
      cacheAlloc := 0, cacheEvict := 0, cacheAllocFail := 0, ceilingEvict := 0, lowFree := p.free }
  | .agent => s.onAgent fun a => { a with cnt := {} }
  | .console => (s.onLine fun l => { l with cnt := {} }).onHist fun h => { h with
      cnt := {}, patterns := Vector.ofFn fun i => { h.patterns[i] with hits := 0 } }
  | .media => s.onMedia fun m => { m with blk := {}, xfer := {} }
  | .power => (s.onPower fun p => { p with
      cnt := {}, triggers := Vector.ofFn fun n => { p.triggers[n] with hits := 0 } }).onScript fun e => { e with cnt := {} }

/-- A STATS_READ; a clearing one clears after the read, within the same event (R169). -/
def State.statsRead (clear : Bool) (r : Rec) (s : State) : Answer :=
  match Group.ofCode (fieldAt 0 1 r.body) with
  | none => ⟨.noSuch, [], s⟩
  | some g =>
    ⟨.ok, natBytes 1 (fieldAt 0 1 r.body) ++ timeBytes s.clock.now ++ flagByte clear ++ s.groupBytes g,
      if clear then s.clearGroup g else s⟩

/-- STATS_READ (R169). -/
def execStatsRead (s : State) : Host.Outcome State Fault Refusal := .next (s.runRecord .statsRead (State.statsRead false))

/-- STATS_READ_CLEAR (R169). -/
def execStatsReadClear (s : State) : Host.Outcome State Fault Refusal :=
  .next (s.runRecord .statsReadClear (State.statsRead true))

end Sys2Proof.Machine
end

