-- ==== Sys2Proof/Machine/Loader.lean ====
section
/-! DEFINITION. The configuration loader: power-on, the image, STORE and RESTART (spec/10, sections 10.3 to 10.5; spec/11, section
11.3). -/

namespace Sys2Proof.Machine

/-! ### Supply -/

/-- POWER_ON: RESET_N releases the part; the EEPROM and the levels on the pins are the outside's (R170). -/
def State.powerUp (straps : Straps) (s : State) : State := State.powerOn .loading straps s.pins s.loader.eeprom s.pending
def execPowerOn (straps : Straps) (s : State) : Host.Outcome State Fault Refusal := .next (s.powerUp straps)

/-- POWER_LOSS: all activity ends; a store in progress had erased the magic value (R174, notes/assumptions/6.md, 29.md). -/
def State.powerLoss (s : State) : State := State.powerOn .off s.loader.straps s.pins s.loader.eeprom s.pending
def execPowerLoss (s : State) : Host.Outcome State Fault Refusal := .next s.powerLoss

/-! ### The image (R170, R173, R180) -/

def eepromBytes (straps : Straps) : Nat := if straps.eeLarge then 32768 else 8192

/-- The sum of bytes modulo 2^32. -/
def byteSum (bs : List Byte) : BitVec 32 := bs.foldl (fun a b => a + b.setWidth 32) 0

/-- The image is valid (R170). -/
def Eeprom.imageValid (e : Eeprom) (straps : Straps) : Bool :=
  e.magic == some Config.imageMagic && e.length != 0 && Config.imageHeader + e.length ≤ eepromBytes straps &&
    byteSum (e.records.take e.length) == e.sum

/-- The source of the tables (R170). -/
def Loader.sourceOf (l : Loader) (ack : EepromAck) : ImageSource :=
  if l.straps.loaderOff then .loaderOff
  else
    match ack with
    | .absent => .noEeprom
    | .stopped => .invalid
    | .complete => if l.eeprom.imageValid l.straps then .image else .invalid

/-- A record of the image: table id, index and entry. -/
structure ImageRecord where
  table : Nat
  index : Nat
  entry : List Byte
deriving DecidableEq, Repr

/-- The records of the image, and 1 when one below 4 bytes long or overrunning the image ended the walk (R171, R180). -/
def imageWalk : Nat → List Byte → List ImageRecord × Nat
  | 0, _ => ([], 0)
  | fuel + 1, bs =>
    if bs.isEmpty then ([], 0)
    else
      let len := fieldAt 0 2 bs
      if len < 4 ∨ bs.length < len then ([], 1)
      else
        let rest := imageWalk fuel (bs.drop len)
        (⟨fieldAt 2 1 bs, fieldAt 3 1 bs, (bs.drop 4).take (len - 4)⟩ :: rest.1, rest.2)

def ImageRecord.bytes (r : ImageRecord) : List Byte :=
  natBytes 2 (4 + r.entry.length) ++ natBytes 1 r.table ++ natBytes 1 r.index ++ r.entry

/-- A load in progress: the counts, whether the DOMAIN group has been met, and the state. -/
structure Load where
  applied : Nat
  skipped : Nat
  domainsMet : Bool
  state : State

/-- A DOMAIN record that belongs to the group (R171, notes/assumptions/32.md). -/
def ImageRecord.inDomainGroup (r : ImageRecord) : Bool :=
  r.table == TableId.domain.code && r.index ≤ 16 && r.entry.length == TableId.domain.entryLength r.index

/-- The entries and MGMT_DOMAIN's number that a group of records makes, a later record in place of an earlier one at the same
index (R171). -/
def domainFields : List ImageRecord → Vector Domain 16 × Nat → Vector Domain 16 × Nat
  | [], d => d
  | r :: rs, d =>
    match idx? 16 r.index with
    | some i => domainFields rs (d.1.set i (readDomain r.entry), d.2)
    | none => domainFields rs (d.1, fieldAt 0 1 r.entry)

/-- The domain table that a group of records makes over another; none when it leaves MGMT_DOMAIN naming no entry (R11, R171). -/
def domainGroup (rs : List ImageRecord) (d : Domains) : Option Domains :=
  let f := domainFields rs (d.entries, d.mgmt.val)
  (idx? 16 f.2).map fun i => ⟨f.1, i⟩

/-- The tests on a whole domain table (R10 to R12, R171). -/
def State.domainsOk (s : State) (d : Domains) : Bool :=
  let all := List.finRange 16
  all.all (fun i => !d.entries[i].valid || inRange 1 4094 d.entries[i].vid) &&
    all.all (fun i => all.all fun j =>
      i == j || !d.entries[i].valid || !d.entries[j].valid || d.entries[i].vid != d.entries[j].vid) &&
    d.entries[d.mgmt].managementOk && !rewritesTo s.steer d.mgmt &&
    all.all (fun i => !imageDomainOf s.media.regions i ||
      (d.entries[i].valid && d.entries[i].members.u && d.entries[i].members.m)) &&
    all.all (fun i => d.entries[i].valid || !rewritesTo s.steer i)

def Load.count (l : Load) (n : Nat) (s : Option State) : Load :=
  match s with
  | none => { l with skipped := l.skipped + n }
  | some s => { l with applied := l.applied + n, state := s }

/-- The DOMAIN records, applied together over the factory table or not at all (R171). -/
def Load.domains (rs : List ImageRecord) (l : Load) : Load :=
  let group := rs.filter ImageRecord.inDomainGroup
  let made := (domainGroup group Factory.domains).filter fun d => l.state.domainsOk d
  { l with domainsMet := true }.count group.length (made.map fun d => { l.state with dom := d })

/-- A record is judged as a TABLE_WRITE would be, and applied or skipped (R171, R180). -/
def State.applyRecord (r : ImageRecord) (s : State) : Option State :=
  match TableId.ofCode r.table with
  | none => none
  | some t =>
    if t.entryForm r.index r.entry then
      match s.writeEntry t r.index r.entry with
      | .ok s1 => some s1
      | .error _ => none
    else none

/-- One record of the image (R171). The DOMAIN group is applied at the first DOMAIN record of the right form: a malformed one, or one
beyond index 16, is skipped where it stands and fixes no place: the model's choice (notes/assumptions/32.md). -/
def Load.step (all : List ImageRecord) (l : Load) (r : ImageRecord) : Load :=
  if r.inDomainGroup then (if l.domainsMet then l else l.domains all)
  else if r.table = TableId.domain.code then l.count 1 none
  else l.count 1 (l.state.applyRecord r)

/-- The records of a valid image are applied in order (R171). -/
def State.applyImage (s : State) : Load :=
  let e := s.loader.eeprom
  let bs := e.records.take e.length
  let w := imageWalk bs.length bs
  w.1.foldl (Load.step w.1) ⟨0, w.2, false, s⟩

/-- The tables are set, by records or by factory content, and the image status with them (R170, R171, R177). -/
def State.loadTables (ack : EepromAck) (s : State) : State :=
  match s.loader.sourceOf ack with
  | .image =>
    let l := s.applyImage
    l.state.onLoader fun x => { x with image := ⟨.image, s.loader.eeprom.length, l.applied, l.skipped, .asLoaded⟩ }
  | src => s.onLoader fun x => { x with image := ⟨src, 0, 0, 0, .asLoaded⟩ }

/-! ### The start (R172) -/

/-- Each output line becomes driven at its idle level (R136). -/
def PowerUnit.driveIdle (p : PowerUnit) : PowerUnit :=
  { p with lines := Vector.ofFn fun k => { p.lines[k] with level := p.lines[k].idle, driven := true, byScript := false } }

/-- An establishment starts on a sense line, and completes at once with a debounce time of 0 (R141). -/
def State.beginSensing (s : State) (k : Fin 4) : State :=
  let x := s.power.sense[k]
  if x.debounce = 0 then s.establish k s.pins.raw[k]
  else s.setSense k { x with pending := .establishing (afterMs s.clock.now x.debounce) }

/-- A link takes the state its PHY reports (R1). -/
def State.takePhy (p : Port) (s : State) : State :=
  match s.pins.phy.get p with
  | none => s
  | some v => (s.setLink p (some v)).onCnt p fun c => { c with
      linkChanges := c.linkChanges + 1 }

/-- A valid region with the auto-attach flag begins an attach (R97). -/
def State.autoAttach (s : State) (g : Fin 4) : State :=
  if s.media.regions[g].cfg.valid && s.media.regions[g].cfg.autoAttach && s.media.regions[g].state == .detached then
    s.beginAttach g
  else s

/-- The regions begin their attaches in index order (notes/assumptions/39.md). -/
def State.autoAttachAll (s : State) : State := (List.finRange 4).foldl State.autoAttach s

/-- The start is completed, in the order of R172. -/
def State.completeStart (s : State) : State :=
  let s1 := s.onPower PowerUnit.driveIdle
  let s2 := (List.finRange 4).foldl State.beginSensing s1
  let s3 := ((s2.takePhy .u).takePhy .s).onLine fun l => { l with rts := true }
  let s4 := (s3.setPhase .running).autoAttachAll
  s4.onLoader fun l => { l with start := ⟨.powerOn, false, 0, false, false⟩ }

/-- LOADER_DONE: the image read at power-on is applied and the start completed (R170 to R172, notes/assumptions/31.md). -/
def State.loaderDone (ack : EepromAck) (s : State) : State :=
  if s.phase = .loading then (s.loadTables ack).completeStart else s
def execLoaderDone (ack : EepromAck) (s : State) : Host.Outcome State Fault Refusal := .next (s.loaderDone ack)

/-! ### STORE (R173, R174) -/

/-- The order in which STORE writes the tables (R173). -/
def storeOrder : List TableId :=
  [.port, .domain, .pcpMap, .queue, .pool, .meter, .steering, .operator, .console, .pattern, .region, .mediaParams, .line,
    .sense, .senseTrigger, .scriptDir, .scriptStep]

/-- Every table at its factory content. -/
def factoryState : State := State.powerOn .loading ⟨false, false⟩ Pins.reset Eeprom.blank []

/-- The indexes of a table in the order STORE takes them: valid entries holding ADMIN first in OPERATOR (R173). -/
def State.storeIndexes (s : State) (t : TableId) : List Nat :=
  let all := List.range t.entries
  if t = .operator then
    let admin (i : Nat) : Bool := (idx? 8 i).any fun k => s.operators[k].valid && s.operators[k].privs.admin
    all.filter admin ++ all.filter fun i => !admin i
  else all

/-- The record of an entry, unless its configurable fields equal the factory content (R173). -/
def State.storeRecord (s : State) (t : TableId) (i : Nat) : List Byte :=
  match s.entryBytes t i with
  | none => []
  | some e => if factoryState.entryBytes t i = some e then [] else (ImageRecord.mk t.code i e).bytes

def State.imageBytes (s : State) : List Byte :=
  (storeOrder.map fun t => ((s.storeIndexes t).map (s.storeRecord t)).flatten).flatten

/-- The magic value is erased as a store begins (R174, notes/assumptions/29.md). -/
def Loader.beginStore (l : Loader) (bs : List Byte) : Loader :=
  { l with store := .inProgress bs, eeprom := { l.eeprom with magic := none } }

/-- The reply's image length is that of the records (R173, notes/assumptions/30.md), in 4 bytes (14.md). -/
def State.storeImage (_ : Rec) (s : State) : Answer :=
  if s.loader.store ≠ .idle then ⟨.busy, [], s⟩
  else
    let bs := s.imageBytes
    if eepromBytes s.loader.straps < Config.imageHeader + bs.length then ⟨.range, [], s⟩
    else ⟨.ok, count4 bs.length, s.onLoader fun l => l.beginStore bs⟩

/-- STORE (R173). -/
def execStore (s : State) : Host.Outcome State Fault Refusal := .next (s.runRecord .store State.storeImage)

/-- STORE_COMPLETE: the header is written and the sum read back agrees, or not (R174). -/
def State.storeComplete (agreed : Bool) (s : State) : State :=
  match s.loader.store with
  | .idle => s
  | .inProgress bs =>
    let s1 := s.onLoader fun l =>
      if agreed then
        { l with store := .idle, image := { l.image with eeprom := .stored }
                 eeprom := ⟨some Config.imageMagic, bs.length, byteSum bs, bs⟩ }
      else { l with store := .idle, image := { l.image with eeprom := .invalid } }
    s1.raiseNotice (.storeDone agreed)
def execStoreComplete (agreed : Bool) (s : State) : Host.Outcome State Fault Refusal := .next (s.storeComplete agreed)

/-! ### RESTART (R55, R175) -/

/-- The tests of R175, made without force; the status of the first that fails. -/
def State.restartRefusal (s : State) : Option Status :=
  if s.media.dirtyCount ≠ 0 then some .dirty
  else if s.script.running.isSome then some .busy
  else if s.loader.store ≠ .idle then some .busy
  else none

def State.judgeRestart (force : Bool) (s : State) : Answer :=
  match if force then none else s.restartRefusal with
  | some st => ⟨st, [], s⟩
  | none =>
    ⟨.ok, flagByte force ++ count4 s.media.dirtyCount ++ flagByte s.script.running.isSome ++
      flagByte (s.loader.store != .idle), s⟩

/-- An accepted RESTART, its reply packed, ends its inbox frame once the reply frames before its own are placed; the records after
it are not executed (R52, R55). -/
def State.acceptRestart (force : Bool) (s : State) : State :=
  (s.onAgent fun a => { a with todo := [], trailing := none, restartForce := force, restartAccepted := true }).advance

def State.runRestart (c : Instr) (force : Bool) (s : State) : State :=
  match s.nextRecord c with
  | none => s
  | some r =>
    let a := s.popRecord.perform r fun _ t => t.judgeRestart force
    let s1 := a.state.pack ⟨r.type, r.tag, a.status, a.body⟩
    if a.status = .ok then s1.acceptRestart force else s1.advance

/-- RESTART (R175). -/
def execRestart (s : State) : Host.Outcome State Fault Refusal := .next (s.runRestart .restart false)

/-- RESTART_FORCE (R175). -/
def execRestartForce (s : State) : Host.Outcome State Fault Refusal := .next (s.runRestart .restartForce true)

/-! ### The restart (R176) -/

/-- Step 1: a running script finishes ABORTED and starts nothing. -/
def State.restartScript (s : State) : State :=
  match s.script.running with
  | none => s
  | some c => s.finishCore .aborted c.cur

/-- Step 2: a store in progress is abandoned. -/
def State.restartStore (s : State) : State :=
  if s.loader.store = .idle then s
  else s.onLoader fun l => { l with store := .idle, image := { l.image with eeprom := .invalid } }

/-- Step 3: every held frame is discarded. -/
def State.restartFrames (s : State) : State :=
  let flush (e : Egress) : Egress := { e.flushed with tx := none }
  { s with
    sched := { s.sched with port := ⟨flush s.sched.port.u, flush s.sched.port.s⟩ }
    agentOut := ⟨[], .idle⟩
    mediaOut := ⟨[], .idle⟩
    agent := { s.agent with inbox := [], todo := [], trailing := none, openReplies := [], closed := [], lastPlaced := .reply, retries := 0 }
    media := { s.media with inbox := [] } }

/-- Step 4: held requests, transfers and lines are cleared; every region is DETACHED. With step 3 every cell is free. -/
def State.restartMedia (s : State) : State :=
  (s.onMedia fun m => { m with
    held := [], lines := [], dirtyOrder := [], issue := [], issueWaiting := false, waitingInquiries := []
    fillWaiting := false, rescans := 0
    table := Vector.ofFn fun e => { m.table[e] with use := none }
    regions := Vector.ofFn fun g => { m.regions[g] with
      state := .detached, sectors := 0, writable := false, failures := 0, err := none } }).onPool fun p => { p with
    free := Config.poolCells }

/-- A break in progress ends at once, with TX raised and the gap sent (R71). -/
def State.endBreak (s : State) : State :=
  match s.line.tx with
  | .brk _ c _ => s.onLine fun l => { l with tx := .gap c.cycles s.clock.now }
  | _ => s

/-- Step 5: the input FIFO, ownership, a measurement, watchers, notices and marks. A wait for CTS ends (notes/assumptions/25.md). -/
def State.restartConsole (s : State) : State :=
  (s.abandonMeasurement.endBreak.flushFifo.onLine fun l => { l with owner := none, ctsCounted := false }).onHist fun h => { h with
    watchers := Vector.replicate 4 none, lastServed := none, notices := [], offerWaiting := false, marks := [], nextMark := 0 }

/-- Step 6: the power-request queue, the boot window and the triggers. -/
def State.restartPower (s : State) : State :=
  (s.onScript fun e => { e with queue := [] }).onPower fun p => { p with
    window := none, triggers := Vector.ofFn fun n => { p.triggers[n] with valid := false } }

/-- Step 7: every counter of every group is 0, and LOW_FREE 8,192. -/
def State.clearAll (s : State) : State :=
  (Group.all.foldl State.clearGroup s).onPool fun p => { p with lowFree := Config.poolCells }

/-- Every table is set to its factory content, with the runtime state that R177 keeps. -/
def State.factoryTables (s : State) : State :=
  { s with
    dom := Factory.domains
    steer := Vector.replicate 64 Factory.steeringEntry
    pcp := Factory.pcp
    ports := { s.ports with set := Factory.portSettings, partMac := Config.factoryMac }
    pool := { s.pool with reserve := Factory.pool.reserve, ceiling := Factory.pool.ceiling }
    meters := Factory.meters s.clock.now
    sched := Factory.scheduler
    operators := Factory.operators
    line := { s.line with set := Factory.lineSettings }
    hist := { s.hist with
      patterns := Vector.replicate 8 Factory.pattern, threshold := History.powerOn.threshold, delay := History.powerOn.delay }
    media := { s.media with
      regions := Vector.ofFn fun g => { s.media.regions[g] with cfg := Factory.regionConfig }
      timeoutMs := Media.powerOn.timeoutMs, retryCount := Media.powerOn.retryCount }
    power := { s.power with
      lines := Vector.ofFn fun k => { s.power.lines[k] with cls := Factory.outLines[k].cls, idle := Factory.outLines[k].idle }
      guardSecs := PowerUnit.powerOn.guardSecs
      sense := Vector.ofFn fun k => { s.power.sense[k] with debounce := Factory.senseLine.debounce }
      triggers := Vector.replicate 8 Factory.trigger }
    script := { s.script with dir := ScriptEngine.powerOn.dir, steps := ScriptEngine.powerOn.steps } }

/-- The clearing of R176, steps 1 to 7, and the start record. -/
def State.restartClear (s : State) : State :=
  let start : StartRecord := ⟨.restart, s.agent.restartForce, s.media.dirtyCount, s.script.running.isSome, s.loader.store != .idle⟩
  let s1 := s.restartScript.restartStore.restartFrames.restartMedia.restartConsole.restartPower.clearAll
  s1.onLoader fun l => { l with start := start }

/-- RESTART_BEGIN: the reply frame has gone; the clearing, and the reload from the factory tables onwards (R176, R177). -/
def State.restartBegin (s : State) : State :=
  if s.phase = .running ∧ s.agent.state = .restartPending ∧ s.agent.restartGone = true then
    s.restartClear.factoryTables.setPhase .reloading
  else s
def execRestartBegin (s : State) : Host.Outcome State Fault Refusal := .next s.restartBegin

/-- RESTART_RELOAD_DONE: the records are applied, the RESTART mark is added, regions attach, the agent is IDLE (R177). -/
def State.restartReloadDone (ack : EepromAck) (s : State) : State :=
  if s.phase = .reloading then
    let s1 := (s.loadTables ack).addMark .restart (if s.loader.start.force then 1 else 0)
    (s1.setPhase .running).autoAttachAll.onAgent fun a => { a with
      state := .idle, restartForce := false, restartGone := false }
  else s
def execRestartReloadDone (ack : EepromAck) (s : State) : Host.Outcome State Fault Refusal := .next (s.restartReloadDone ack)

end Sys2Proof.Machine
end

