-- ==== Sys2Proof/Machine/Dispatch.lean ====
section
/-! DEFINITION. The effect of a command on everything but the queue: one arm for each row of spec/opcode_table.json. -/

namespace Sys2Proof.Machine

def exec (i : Instr) (s : State) : Host.Outcome State Fault Refusal :=
  match i with
  | .powerOn straps => Sys2Proof.Machine.execPowerOn straps s
  | .loaderDone ack => Sys2Proof.Machine.execLoaderDone ack s
  | .linkUp p speed => Sys2Proof.Machine.execLinkUp p speed s
  | .linkDown p => Sys2Proof.Machine.execLinkDown p s
  | .frameArrival p bytes fcsGood => Sys2Proof.Machine.execFrameArrival p bytes fcsGood s
  | .transmissionComplete p => Sys2Proof.Machine.execTransmissionComplete p s
  | .shaperWaitExpiry sh => Sys2Proof.Machine.execShaperWaitExpiry sh s
  | .shaperBlockedRetry sh => Sys2Proof.Machine.execShaperBlockedRetry sh s
  | .agentTakeFrame => Sys2Proof.Machine.execAgentTakeFrame s
  | .outQueueRetry => Sys2Proof.Machine.execOutQueueRetry s
  | .identify => Sys2Proof.Machine.execIdentify s
  | .tableRead => Sys2Proof.Machine.execTableRead s
  | .tableWriteUnknown => Sys2Proof.Machine.execTableWriteUnknown s
  | .tableWriteDomain => Sys2Proof.Machine.execTableWriteDomain s
  | .tableWriteMgmtDomain => Sys2Proof.Machine.execTableWriteMgmtDomain s
  | .tableWriteSteering => Sys2Proof.Machine.execTableWriteSteering s
  | .tableWritePcpMap => Sys2Proof.Machine.execTableWritePcpMap s
  | .tableWritePort => Sys2Proof.Machine.execTableWritePort s
  | .tableWriteMeter => Sys2Proof.Machine.execTableWriteMeter s
  | .tableWriteMeterSettings => Sys2Proof.Machine.execTableWriteMeterSettings s
  | .tableWriteQueue => Sys2Proof.Machine.execTableWriteQueue s
  | .tableWritePool => Sys2Proof.Machine.execTableWritePool s
  | .tableWriteOperator => Sys2Proof.Machine.execTableWriteOperator s
  | .tableWriteConsoleLine => Sys2Proof.Machine.execTableWriteConsoleLine s
  | .tableWriteConsoleHistory => Sys2Proof.Machine.execTableWriteConsoleHistory s
  | .tableWritePattern => Sys2Proof.Machine.execTableWritePattern s
  | .tableWriteRegion => Sys2Proof.Machine.execTableWriteRegion s
  | .tableWriteMediaParams => Sys2Proof.Machine.execTableWriteMediaParams s
  | .tableWriteLine => Sys2Proof.Machine.execTableWriteLine s
  | .tableWriteSense => Sys2Proof.Machine.execTableWriteSense s
  | .tableWriteSenseTrigger => Sys2Proof.Machine.execTableWriteSenseTrigger s
  | .tableWriteScriptDir => Sys2Proof.Machine.execTableWriteScriptDir s
  | .tableWriteScriptStep => Sys2Proof.Machine.execTableWriteScriptStep s
  | .recordUnknownType => Sys2Proof.Machine.execRecordUnknownType s
  | .consoleBaud => Sys2Proof.Machine.execConsoleBaud s
  | .consoleBaudAuto => Sys2Proof.Machine.execConsoleBaudAuto s
  | .consoleClaim => Sys2Proof.Machine.execConsoleClaim s
  | .consoleClaimForce => Sys2Proof.Machine.execConsoleClaimForce s
  | .consoleRelease => Sys2Proof.Machine.execConsoleRelease s
  | .consoleType => Sys2Proof.Machine.execConsoleType s
  | .consoleBreak => Sys2Proof.Machine.execConsoleBreak s
  | .consoleMark => Sys2Proof.Machine.execConsoleMark s
  | .consoleMarks => Sys2Proof.Machine.execConsoleMarks s
  | .consoleArm => Sys2Proof.Machine.execConsoleArm s
  | .consoleWatch => Sys2Proof.Machine.execConsoleWatch s
  | .consoleUnwatch => Sys2Proof.Machine.execConsoleUnwatch s
  | .consoleFetch => Sys2Proof.Machine.execConsoleFetch s
  | .mediaAttach => Sys2Proof.Machine.execMediaAttach s
  | .mediaDetach => Sys2Proof.Machine.execMediaDetach s
  | .mediaDetachDiscard => Sys2Proof.Machine.execMediaDetachDiscard s
  | .mediaResume => Sys2Proof.Machine.execMediaResume s
  | .mediaStatus => Sys2Proof.Machine.execMediaStatus s
  | .powerRequest => Sys2Proof.Machine.execPowerRequest s
  | .powerCancelRunning => Sys2Proof.Machine.execPowerCancelRunning s
  | .powerCancelQueued => Sys2Proof.Machine.execPowerCancelQueued s
  | .powerStatus => Sys2Proof.Machine.execPowerStatus s
  | .lineStatus => Sys2Proof.Machine.execLineStatus s
  | .timeSet => Sys2Proof.Machine.execTimeSet s
  | .statsRead => Sys2Proof.Machine.execStatsRead s
  | .statsReadClear => Sys2Proof.Machine.execStatsReadClear s
  | .store => Sys2Proof.Machine.execStore s
  | .storeComplete agreed => Sys2Proof.Machine.execStoreComplete agreed s
  | .restart => Sys2Proof.Machine.execRestart s
  | .restartForce => Sys2Proof.Machine.execRestartForce s
  | .restartBegin => Sys2Proof.Machine.execRestartBegin s
  | .restartReloadDone ack => Sys2Proof.Machine.execRestartReloadDone ack s
  | .rxCharacter samples rose => Sys2Proof.Machine.execRxCharacter samples rose s
  | .breakDetected => Sys2Proof.Machine.execBreakDetected s
  | .breakInEnd => Sys2Proof.Machine.execBreakInEnd s
  | .autobaudInterval cycles => Sys2Proof.Machine.execAutobaudInterval cycles s
  | .autobaudOverflow => Sys2Proof.Machine.execAutobaudOverflow s
  | .autobaudTimeout => Sys2Proof.Machine.execAutobaudTimeout s
  | .txCharacterDone => Sys2Proof.Machine.execTxCharacterDone s
  | .breakOutEnd => Sys2Proof.Machine.execBreakOutEnd s
  | .breakGapEnd => Sys2Proof.Machine.execBreakGapEnd s
  | .ctsAssert => Sys2Proof.Machine.execCtsAssert s
  | .consoleIdleExpiry => Sys2Proof.Machine.execConsoleIdleExpiry s
  | .pushDelayExpiry w => Sys2Proof.Machine.execPushDelayExpiry w s
  | .epochAnchorAdvance => Sys2Proof.Machine.execEpochAnchorAdvance s
  | .blkRead => Sys2Proof.Machine.execBlkRead s
  | .blkWrite => Sys2Proof.Machine.execBlkWrite s
  | .blkInquire => Sys2Proof.Machine.execBlkInquire s
  | .blkSync => Sys2Proof.Machine.execBlkSync s
  | .blkMalformed => Sys2Proof.Machine.execBlkMalformed s
  | .imgInfo => Sys2Proof.Machine.execImgInfo s
  | .imgData => Sys2Proof.Machine.execImgData s
  | .imgWriteAck => Sys2Proof.Machine.execImgWriteAck s
  | .imgMalformedAnswer => Sys2Proof.Machine.execImgMalformedAnswer s
  | .transferIssue => Sys2Proof.Machine.execTransferIssue s
  | .transferDeadline e => Sys2Proof.Machine.execTransferDeadline e s
  | .resourceRescan => Sys2Proof.Machine.execResourceRescan s
  | .heldDeadline k => Sys2Proof.Machine.execHeldDeadline k s
  | .scriptDelayExpiry => Sys2Proof.Machine.execScriptDelayExpiry s
  | .stepPause => Sys2Proof.Machine.execStepPause s
  | .stepBootOpen => Sys2Proof.Machine.execStepBootOpen s
  | .stepBootClose => Sys2Proof.Machine.execStepBootClose s
  | .stepHoldS => Sys2Proof.Machine.execStepHoldS s
  | .stepReleaseS => Sys2Proof.Machine.execStepReleaseS s
  | .stepMark => Sys2Proof.Machine.execStepMark s
  | .stepNotify => Sys2Proof.Machine.execStepNotify s
  | .stepFail => Sys2Proof.Machine.execStepFail s
  | .stepDrive => Sys2Proof.Machine.execStepDrive s
  | .stepCall => Sys2Proof.Machine.execStepCall s
  | .stepEnd => Sys2Proof.Machine.execStepEnd s
  | .awaitTimeout => Sys2Proof.Machine.execAwaitTimeout s
  | .guardWaitExpiry => Sys2Proof.Machine.execGuardWaitExpiry s
  | .bootWindowExpiry => Sys2Proof.Machine.execBootWindowExpiry s
  | .senseRawChange k level => Sys2Proof.Machine.execSenseRawChange k level s
  | .senseChangeDue k => Sys2Proof.Machine.execSenseChangeDue k s
  | .senseEstablishmentDue k => Sys2Proof.Machine.execSenseEstablishmentDue k s
  | .rxdFallingEdge => Sys2Proof.Machine.execRxdFallingEdge s
  | .falseStart => Sys2Proof.Machine.execFalseStart s
  | .ctsDeassert => Sys2Proof.Machine.execCtsDeassert s
  | .powerLoss => Sys2Proof.Machine.execPowerLoss s

end Sys2Proof.Machine
end

