-- ==== Sys2Proof/Machine/Tick.lean ====
section
/-! DEFINITION. The passing of time: what happens when no command waits (notes/assumptions/2.md). -/

namespace Sys2Proof.Machine

/-- The receiver's start sample: RXD low half a bit after the falling edge begins the character (R64). -/
def State.startSampled (s : State) : State :=
  match s.line.rx with
  | .start c t => if surelyPassed s.clock.now t (c.samplePoint 0) then s.setRx (.character c t) else s
  | _ => s

/-- One microsecond of device time (R167); that none passes without supply is the model's choice (notes/assumptions/6.md). -/
def State.tick (s : State) : State :=
  if s.phase = .off then s else (s.onClock fun c => { c with now := c.now + 1 }).startSampled

/-- The state with the queue's front taken off. -/
def State.withPending (s : State) (cs : List Instr) : State := { s with pending := cs }

end Sys2Proof.Machine
end

