-- ==== Sys2Proof/Safety.lean ====
section
/-! DEFINITION. What statements about this part speak of: the properties every step keeps, what the part's own traffic may
change, and when a record is executed. -/

namespace Sys2Proof.Machine

/-! ### Properties every step keeps -/

/-- The capacities of R8, R9, R23, R34, R71, R79, R81, R89, R111, R157 and R159. -/
structure Capacities (s : State) : Prop where
  agentInbox : s.agent.inbox.length ≤ 32
  mediaInbox : s.media.inbox.length ≤ 16
  agentOut : s.agentOut.frames.length ≤ 16
  mediaOut : s.mediaOut.frames.length ≤ 16
  classQueue : ∀ (p : Port) (k : Fin 4), (s.sched.port.get p).queues[k].frames.length ≤ 256
  ring : s.hist.ring.length ≤ 65536
  marks : s.hist.marks.length ≤ 32
  notices : s.hist.notices.length ≤ 16
  fifo : s.line.fifo.length ≤ 256
  held : s.media.held.length ≤ 16
  requests : s.script.queue.length ≤ 8
  stack : ∀ c, s.script.running = some c → c.stack.length ≤ 4

/-- R27 and R29: "Every meter's credit lies within 0..BURST × 1000 milli-bytes, and its BURST within 1,542..1,048,575". -/
def Meter.InRange (m : Meter) : Prop :=
  m.rate ≤ 125000 ∧ 1542 ≤ m.burst ∧ m.burst ≤ 1048575 ∧ m.credit ≤ m.burst * 1000

def MetersInRange (s : State) : Prop := ∀ i : Fin 16, (s.meters.bank[i]).InRange

/-- Some valid operator entry holds ADMIN (R45). -/
def SomeAdmin (s : State) : Prop := ∃ i : Fin 8, (s.operators[i]).valid = true ∧ (s.operators[i]).privs.admin = true

/-- The port-S hold is set only while a script runs (R7, R158). -/
def HoldBelongsToScript (s : State) : Prop := s.ports.holdS = true → s.script.running.isSome = true

/-- Valid domain entries have VIDs in 1..4094, no two the same (R10). -/
def DomainVids (d : Domains) : Prop :=
  (∀ i : Fin 16, (d.entries[i]).valid = true → 1 ≤ (d.entries[i]).vid ∧ (d.entries[i]).vid ≤ 4094) ∧
  ∀ i j : Fin 16, i ≠ j → (d.entries[i]).valid = true → (d.entries[j]).valid = true → (d.entries[i]).vid ≠ (d.entries[j]).vid

/-- The entry MGMT_DOMAIN names is valid, with U and M as members and S not (R11). -/
def ManagementProtected (d : Domains) : Prop :=
  (d.entries[d.mgmt]).valid = true ∧ (d.entries[d.mgmt]).members.u = true ∧ (d.entries[d.mgmt]).members.m = true ∧
    (d.entries[d.mgmt]).members.s = false

/-- A valid steering entry rewrites only to a valid domain other than the management domain (R11 to R13). -/
def RewritesSound (d : Domains) (st : Vector Steering 64) : Prop :=
  ∀ (k : Fin 64) (r : Nat), (st[k]).valid = true → (st[k]).rewrite = some r →
    ∃ i : Fin 16, i.val = r ∧ (d.entries[i]).valid = true ∧ i ≠ d.mgmt

/-- A valid region's image domain is a valid entry with U and M as members (R12, R96). -/
def ImageDomainsSound (d : Domains) (rs : Vector Region 4) : Prop :=
  ∀ g : Fin 4, (rs[g]).cfg.valid = true →
    ∃ i : Fin 16, i.val = (rs[g]).cfg.domain ∧ (d.entries[i]).valid = true ∧ (d.entries[i]).members.u = true ∧
      (d.entries[i]).members.m = true

/-- The protections of R10 to R13 and R96 together. -/
structure DomainsSound (s : State) : Prop where
  vids : DomainVids s.dom
  management : ManagementProtected s.dom
  rewrites : RewritesSound s.dom s.steer
  images : ImageDomainsSound s.dom s.media.regions

/-- Numeric settings lie in their ranges (R3, R26, R35, R60, R85, R127, R135, R140, R149). -/
structure SettingsInRange (s : State) : Prop where
  pvid : ∀ p, 1 ≤ (s.ports.set.get p).pvid ∧ (s.ports.set.get p).pvid ≤ 4094
  pool : s.pool.reserve ≤ 4096 ∧ s.pool.ceiling ≤ 4096
  queues : ∀ (p : Port) (k : Fin 4), 16 ≤ (s.sched.port.get p).queues[k].cellLimit ∧
    (s.sched.port.get p).queues[k].cellLimit ≤ 4096 ∧ 1 ≤ (s.sched.port.get p).queues[k].weight ∧
    (s.sched.port.get p).queues[k].weight ≤ 15
  div : 32 ≤ s.line.set.div ∧ s.line.set.div ≤ 65535
  idle : s.line.set.idleLimit = 0 ∨ (10 ≤ s.line.set.idleLimit ∧ s.line.set.idleLimit ≤ 3600)
  push : 1 ≤ s.hist.threshold ∧ s.hist.threshold ≤ 1024 ∧ 1 ≤ s.hist.delay ∧ s.hist.delay ≤ 1000
  transfers : 20 ≤ s.media.timeoutMs ∧ s.media.timeoutMs ≤ 2000 ∧ s.media.retryCount ≤ 3
  guard : s.power.guardSecs ≤ 600
  debounce : ∀ k : Fin 4, (s.power.sense[k]).debounce ≤ 255
  dir : ∀ i : Fin 16, (s.script.dir[i]).first ≤ 255 ∧ (s.script.dir[i]).prio ≤ 7

/-- "The free count, the frame cells and the cache cells always add up to 8,192" (R22). -/
def CellsAddUp (s : State) : Prop := s.pool.free + s.frameCells + s.cacheCells = 8192

/-- A region and sector have one line at most (R115). -/
def OneLineEach (m : Media) : Prop := (m.lines.map fun l => (l.region, l.sector)).Nodup

/-- R22's sum, with what its being kept rests on: a frame the part has built is untagged (R51, R105, R122), and the form a
BLOCKED shaper keeps has no fewer cells than the head it was made from (R24, R33). -/
structure CellsSound (s : State) : Prop where
  total : CellsAddUp s
  lines : OneLineEach s.media
  built : ∀ f ∈ s.agentOut.frames ++ s.mediaOut.frames ++ s.agent.closed, f.frame.tag = none
  blocked : ∀ (sh : Shaper) (g : Frame) (k : Fin 4) (w : Bool) (n : Nat) (h : OutFrame) (rest : List OutFrame),
    (s.outQueue sh).shaper = .blocked g k w n → (s.outQueue sh).frames = h :: rest → h.frame.cells ≤ g.cells

/-- A transfer is of the line's region, and the line's sector is one of its sectors. -/
def Transfer.Covers (t : Transfer) (l : CacheLine) : Prop :=
  t.region = l.region ∧ t.first ≤ l.sector ∧ l.sector < t.first + t.count

/-- A transfer but for its deadline, which begins as its request frame leaves (R123). -/
def Transfer.undated (t : Transfer) : Transfer := { t with deadline := none }

/-- The sector cache, the held requests and the transfers agree (R97, R100, R109, R111, R115, R116, R118, R119, R121, R133). -/
structure CacheSound (m : Media) : Prop where
  lines : OneLineEach m
  dirtyOnce : m.dirtyOrder.Nodup
  dirtyListed : ∀ (g : Fin 4) (x : Nat), (g, x) ∈ m.dirtyOrder ↔ ∃ l ∈ m.lines, l.region = g ∧ l.sector = x ∧ l.cond = .dirty
  dirtyLimit : m.dirtyCount ≤ 256
  filling : ∀ l ∈ m.lines, ∀ e, l.cond = .filling e →
    ∃ t, (m.table[e]).use = some t ∧ t.kind = .fetch ∧ t.Covers l ∧ l.sector ∉ t.received
  flushing : ∀ l ∈ m.lines, ∀ e, l.cond = .flushing e ∨ l.cond = .redirtied e →
    ∃ t, (m.table[e]).use = some t ∧ t.kind = .flush ∧ t.Covers l
  lineRegions : ∀ l ∈ m.lines, (m.regions[l.region]).state ≠ .detached ∧ (m.regions[l.region]).state ≠ .attaching
  held : ∀ h ∈ m.held, (m.regions[h.unit]).state = .attached
  fetches : m.inUse .fetch ≤ 12
  inquiries : ∀ g : Fin 4, (m.entriesOf g (· == .inquire)).length + m.waitingInquiries.count g ≤
    (if (m.regions[g]).state = .attaching then 1 else 0)

/-- The power-request queue stands by priority, highest first (R159). -/
def RequestsInOrder (s : State) : Prop := s.script.queue.Pairwise fun a b => b.prio ≤ a.prio

/-! ### What the part's own traffic may change -/

/-- Replies and pushes that leave the part change queues, cells, credits and counters of the frame path, the agent, and what
the history block keeps of pushes; everything named here is as it was. -/
structure SameButPushes (s t : State) : Prop where
  pending : t.pending = s.pending
  phase : t.phase = s.phase
  pins : t.pins = s.pins
  clock : t.clock = s.clock
  loader : t.loader = s.loader
  link : t.ports.link = s.ports.link
  portSet : t.ports.set = s.ports.set
  partMac : t.ports.partMac = s.ports.partMac
  holdS : t.ports.holdS = s.ports.holdS
  dom : t.dom = s.dom
  steer : t.steer = s.steer
  pcp : t.pcp = s.pcp
  reserve : t.pool.reserve = s.pool.reserve
  ceiling : t.pool.ceiling = s.pool.ceiling
  meterRoles : t.meters.agentMeter = s.meters.agentMeter ∧ t.meters.mediaMeter = s.meters.mediaMeter
  meters : ∀ i : Fin 16, (t.meters.bank[i]).rate = (s.meters.bank[i]).rate ∧
    (t.meters.bank[i]).burst = (s.meters.bank[i]).burst ∧ (t.meters.bank[i]).mode = (s.meters.bank[i]).mode
  classes : t.sched.mgmtClass = s.sched.mgmtClass ∧ t.sched.mediaClass = s.sched.mediaClass
  modes : ∀ p, (t.sched.port.get p).mode = (s.sched.port.get p).mode
  queues : ∀ (p : Port) (k : Fin 4), (t.sched.port.get p).queues[k].cellLimit = (s.sched.port.get p).queues[k].cellLimit ∧
    (t.sched.port.get p).queues[k].weight = (s.sched.port.get p).queues[k].weight
  mediaOut : t.mediaOut.frames = s.mediaOut.frames
  operators : t.operators = s.operators
  line : t.line = s.line
  ring : t.hist.ring = s.hist.ring ∧ t.hist.newest = s.hist.newest
  marks : t.hist.marks = s.hist.marks ∧ t.hist.nextMark = s.hist.nextMark
  patterns : t.hist.patterns = s.hist.patterns
  push : t.hist.threshold = s.hist.threshold ∧ t.hist.delay = s.hist.delay
  regions : t.media.regions = s.media.regions
  mediaInbox : t.media.inbox = s.media.inbox
  held : t.media.held = s.media.held
  cache : t.media.lines = s.media.lines ∧ t.media.dirtyOrder = s.media.dirtyOrder
  gens : ∀ e : Fin 16, (t.media.table[e]).gen = (s.media.table[e]).gen
  uses : ∀ e : Fin 16, (t.media.table[e]).use.map Transfer.undated = (s.media.table[e]).use.map Transfer.undated
  issue : t.media.issue = s.media.issue ∧ t.media.waitingInquiries = s.media.waitingInquiries
  mediaSet : t.media.timeoutMs = s.media.timeoutMs ∧ t.media.retryCount = s.media.retryCount
  mediaCnt : t.media.blk = s.media.blk ∧ t.media.xfer = s.media.xfer
  power : t.power = s.power
  script : t.script = s.script

/-- The same where no push is made either: the console history is as it was. -/
structure SameButTraffic (s t : State) : Prop extends SameButPushes s t where
  hist : t.hist = s.hist

/-! ### Executing a record -/

/-- The agent is about to execute record `r`, which command `c` executes. -/
structure Ready (c : Instr) (r : Rec) (s : State) : Prop where
  executing : s.agent.state = .executing
  nothingClosed : s.agent.closed = []
  next : s.agent.todo.head? = some r
  kind : r.command = c

/-- The record passes the tests common to all: a valid operator, its privilege, the body length of its type (R47, R48, R179). -/
structure Passes (r : Rec) (s : State) : Prop where
  valid : (s.operators[s.agent.op]).valid = true
  privilege : (s.operators[s.agent.op]).privs.grants r.need = true
  length : bodyLengthOk r.type.toNat r.body.length = true

/-- The record is answered: its reply is packed, and the agent goes on (R49, R51, R52). -/
def State.replied (r : Rec) (st : Status) (body : List Byte) (s : State) : State :=
  (s.pack ⟨r.type, r.tag, st, body⟩).advance

/-- Command `c` executes record `r`: the answer is `st` with `body`, the state `s1` is what the record makes of `s`, and the
reply's own traffic changes nothing else. -/
def Answers (c : Instr) (s : State) (r : Rec) (st : Status) (body : List Byte) (s1 : State) : Prop :=
  exec c s = .next (s1.replied r st body) ∧ SameButTraffic s1 (s1.replied r st body)

/-- Command `c` refuses record `r`: nothing is changed but the agent's list of records. -/
def Refuses (c : Instr) (s : State) (r : Rec) (st : Status) (body : List Byte) : Prop := Answers c s r st body s.popRecord

/-- Record `r` is a TABLE_WRITE of entry `e` at index `idx` of table `t`, past the tests of R56 that precede the owner's. -/
structure WriteOf (c : Instr) (t : TableId) (idx : Nat) (e : List Byte) (r : Rec) (s : State) : Prop where
  ready : Ready c r s
  passes : Passes r s
  noStore : s.loader.store = .idle
  bodyLong : 2 ≤ r.body.length
  index : r.tableIndex = idx
  entry : r.tableEntry = e
  form : t.entryForm idx e = true

/-- The write is accepted: the reply carries table, index and the entry as it then stands (R56). -/
def Writes (c : Instr) (s : State) (r : Rec) (t : TableId) (idx : Nat) (s1 : State) : Prop :=
  Answers c s r .ok (r.body.take 2 ++ (s1.entryBytes t idx).getD []) s1

/-- The owner refuses the write: the reply carries the entry as it stands, where there is one (R56). -/
def RefusesWrite (c : Instr) (s : State) (r : Rec) (t : TableId) (idx : Nat) (st : Status) : Prop :=
  Refuses c s r st (r.body.take 2 ++ (s.entryBytes t idx).getD [])

/-- Command `c` makes state `s1` and raises notice `n` in it; the pushes that follow change nothing else. -/
def Notifies (c : Instr) (s s1 : State) (n : Notice) : Prop :=
  exec c s = .next (s1.raiseNotice n) ∧ SameButPushes s1 (s1.raiseNotice n)

/-! ### The tests of the frame path, as the rules put them -/

/-- R8: the control frames at port U that go to the agent inbox. -/
def GoesToAgent (s : State) (p : Port) (d : Fin 16) (f : Frame) : Prop :=
  p = .u ∧ f.etherType = 0x88B5 ∧ d = s.dom.mgmt ∧ (f.dst = s.ports.partMac ∨ f.dst = 0xFFFFFFFFFFFF)

/-- R9: the media frames that go to the media inbox. -/
def GoesToMedia (s : State) (p : Port) (d : Fin 16) (f : Frame) : Prop :=
  f.etherType = 0x88B6 ∧ (s.dom.entries[d]).members.m = true ∧
    ((p = .s ∧ d ≠ s.dom.mgmt ∧ (f.dst = s.ports.partMac ∨ f.dst = 0xFFFFFFFFFFFF)) ∨ (p = .u ∧ f.dst = s.ports.partMac))

/-- R14: entry `e` matches frame `f`, arrived at `p` with resolved VID `vid`. -/
def MatchesFrame (e : Steering) (p : Port) (vid : Nat) (f : Frame) : Prop :=
  e.valid = true ∧ e.ingress.has p = true ∧ (e.hasDst = true → e.dst = f.dst) ∧ (e.hasSrc = true → e.src = f.src) ∧
    (e.hasVid = true → e.vid = vid) ∧ (e.hasType = true → e.etherType = f.etherType) ∧
    (e.hasPcp = true → ∃ t, f.tag = some t ∧ e.pcp = t.pcp.val)

end Sys2Proof.Machine
end

