-- ==== Sys2Proof/Certificates/Slice0/Obligations.lean ====
section
/-! DEFINITION. The statements about the part, for the provers (OBLIGATIONS.json says what each one rests on). -/

open Sys2Proof Sys2Proof.Machine

/-! ### Every command, and the properties every step keeps -/

def Obligations.StepRunsFrontCommand : Prop :=
  ∀ (c : Instr) (rest : List Instr) (s : State), s.pending = c :: rest → step s = exec c (s.withPending rest)

/-- The tick is the model's choice (notes/assumptions/2.md), and so is that none passes without supply (6.md). -/
def Obligations.IdleStepIsOneMicrosecond : Prop :=
  ∀ s : State, s.pending = [] →
    (s.phase = .off → step s = .next s) ∧
    (s.phase ≠ .off → (∀ c t, s.line.rx ≠ .start c t) →
      step s = .next { s with clock := { s.clock with now := s.clock.now + 1 } }) ∧
    (s.phase ≠ .off → ∀ c t, s.line.rx = .start c t →
      step s = .next { s with
        clock := { s.clock with now := s.clock.now + 1 }
        line := { s.line with
          rx := if (c.div / 2 + 100) ≤ (s.clock.now + 1 - t).toNat * 100 then .character c t else .start c t } })

/-- What the spec itself gives for power-on; the straps, pins and EEPROM of the model's reset are in
notes/assumptions/4.md, 5.md, 29.md; the address of the wildcard operator is in 7.md. -/
def Obligations.ResetHoldsPowerOnValues : Prop :=
  State.reset.pending = [] ∧ State.reset.phase = .loading ∧ State.reset.clock = ⟨0, none⟩ ∧
  State.reset.ports.link = ⟨none, none⟩ ∧ State.reset.ports.set = ⟨⟨1, 0⟩, ⟨2, 0⟩⟩ ∧
  State.reset.ports.partMac = 0x024B48000001 ∧ State.reset.ports.holdS = false ∧ State.reset.ports.cnt = ⟨{}, {}⟩ ∧
  State.reset.dom.mgmt = 0 ∧ State.reset.dom.entries[(0 : Fin 16)] = ⟨true, 1, ⟨true, false, true⟩, ⟨false, false, false⟩⟩ ∧
  State.reset.dom.entries[(1 : Fin 16)] = ⟨true, 2, ⟨true, true, true⟩, ⟨false, false, false⟩⟩ ∧
  (∀ i : Fin 16, 2 ≤ i.val → State.reset.dom.entries[i] = ⟨false, 0, ⟨false, false, false⟩, ⟨false, false, false⟩⟩) ∧
  (∀ k : Fin 64, (State.reset.steer[k]).valid = false) ∧ State.reset.pcp = #v[0, 0, 1, 1, 2, 2, 3, 3] ∧
  State.reset.pool.free = 8192 ∧ State.reset.pool.lowFree = 8192 ∧ State.reset.pool.reserve = 1024 ∧
  State.reset.pool.ceiling = 2048 ∧ State.reset.meters.agentMeter = 14 ∧ State.reset.meters.mediaMeter = 15 ∧
  (∀ i : Fin 16, (State.reset.meters.bank[i]).rate = 0 ∧ (State.reset.meters.bank[i]).burst = 1542 ∧
    (State.reset.meters.bank[i]).mode = .policeDrop ∧ (State.reset.meters.bank[i]).credit = 1542000) ∧
  State.reset.sched.mgmtClass = 3 ∧ State.reset.sched.mediaClass = 2 ∧
  (∀ (p : Port) (k : Fin 4), (State.reset.sched.port.get p).queues[k] = ⟨[], 512, 2 ^ k.val, 0⟩) ∧
  (∀ p, (State.reset.sched.port.get p).mode = .weighted ∧ (State.reset.sched.port.get p).visit = 3 ∧
    (State.reset.sched.port.get p).granted = false ∧ (State.reset.sched.port.get p).tx = none) ∧
  State.reset.agentOut = ⟨[], .idle⟩ ∧ State.reset.mediaOut = ⟨[], .idle⟩ ∧ State.reset.agent.state = .idle ∧
  State.reset.agent.inbox = [] ∧ State.reset.agent.lastPlaced = .reply ∧
  State.reset.operators[(0 : Fin 8)] = ⟨true, true, 0, ⟨false, false, false, false, true⟩, 0⟩ ∧
  (∀ i : Fin 8, i ≠ 0 → (State.reset.operators[i]).valid = false) ∧
  State.reset.line.set = ⟨true, .none, false, false, 868, 900⟩ ∧ State.reset.line.rx = .ready ∧
  State.reset.line.tx = .idle ∧ State.reset.line.fifo = [] ∧ State.reset.line.rts = false ∧ State.reset.line.owner = none ∧
  State.reset.hist.ring = [] ∧ State.reset.hist.newest = 0 ∧ State.reset.hist.marks = [] ∧ State.reset.hist.nextMark = 0 ∧
  State.reset.hist.notices = [] ∧ (∀ w : Fin 4, State.reset.hist.watchers[w] = none) ∧ State.reset.hist.threshold = 256 ∧
  State.reset.hist.delay = 20 ∧
  (∀ i : Fin 8, State.reset.hist.patterns[i] =
    ⟨false, 0, List.replicate 16 0, false, 0, false, false, false, 0, 0, false, 0, false, 0, []⟩) ∧
  (∀ g : Fin 4, State.reset.media.regions[g] = ⟨⟨false, 0, 0, 0, false, false, 0, 1, 500, false⟩, .detached, 0, false, 0, none⟩) ∧
  State.reset.media.held = [] ∧ State.reset.media.lines = [] ∧ State.reset.media.inbox = [] ∧
  (∀ e : Fin 16, State.reset.media.table[e] = ⟨0, none⟩) ∧ State.reset.media.timeoutMs = 200 ∧
  State.reset.media.retryCount = 2 ∧
  (∀ k : Fin 6, (State.reset.power.lines[k]).driven = false) ∧
  State.reset.power.lines.toList.map (fun l => (l.cls, l.idle)) = [(.momentary, false), (.momentary, false), (.latching, true),
    (.latching, false), (.momentary, false), (.momentary, false)] ∧
  (∀ n : Fin 8, State.reset.power.triggers[n] = ⟨false, 0, 0, 0, 0, false, 0⟩) ∧
  State.reset.power.guardRec = none ∧ State.reset.power.guardSecs = 10 ∧ State.reset.power.state = .unknown ∧
  State.reset.power.window = none ∧ (∀ k : Fin 4, State.reset.power.sense[k] = ⟨20, none, .none⟩) ∧
  State.reset.script.running = none ∧ State.reset.script.queue = [] ∧ State.reset.script.last = none ∧
  (∀ i : Fin 16, State.reset.script.dir[i] = ⟨false, 0, 0, true⟩) ∧
  (∀ i : Fin 256, State.reset.script.steps[i] = ⟨0, 0, 0, 0⟩) ∧ State.reset.loader.store = .idle ∧
  State.reset.loader.image.eeprom = .asLoaded ∧
  Capacities State.reset ∧ MetersInRange State.reset ∧ SomeAdmin State.reset ∧ HoldBelongsToScript State.reset ∧
  DomainsSound State.reset ∧ SettingsInRange State.reset ∧ CellsSound State.reset ∧ CacheSound State.reset.media ∧
  RequestsInOrder State.reset

def Obligations.EveryCommandKeepsQueue : Prop :=
  ∀ (c : Instr) (s : State), ∃ t, exec c s = .next t ∧ t.pending = s.pending

/-- The capacities, and the sum of the cells with what its being kept rests on. -/
def Obligations.StepKeepsCapacities : Prop :=
  (∀ s t : State, Capacities s → step s = .next t → Capacities t) ∧
  ∀ s t : State, CellsSound s → step s = .next t → CellsSound t

def Obligations.StepKeepsMetersInRange : Prop :=
  ∀ s t : State, MetersInRange s → step s = .next t → MetersInRange t

def Obligations.StepKeepsSomeAdmin : Prop :=
  ∀ s t : State, SomeAdmin s → step s = .next t → SomeAdmin t

/-- The hold of port S is the running script's, and the power-request queue stands by priority. -/
def Obligations.StepKeepsHoldWithScript : Prop :=
  (∀ s t : State, HoldBelongsToScript s → step s = .next t → HoldBelongsToScript t) ∧
  ∀ s t : State, RequestsInOrder s → step s = .next t → RequestsInOrder t

def Obligations.StepKeepsDomainProtections : Prop :=
  ∀ s t : State, DomainsSound s → step s = .next t → DomainsSound t

def Obligations.StepKeepsSettingsInRange : Prop :=
  ∀ s t : State, SettingsInRange s → step s = .next t → SettingsInRange t

/-! ### Frames -/

def Obligations.FrameCheckedByLengthAndFcs : Prop :=
  ∀ (s : State) (p : Port) (v : Speed) (bytes : List Byte) (fcsGood : Bool), s.ports.link.get p = some v →
    let len := bytes.length + 4
    (len < 64 → exec (.frameArrival p bytes fcsGood) s = .next (s.onCnt p fun c => { c with runt := c.runt + 1 })) ∧
    (1522 < len → exec (.frameArrival p bytes fcsGood) s = .next (s.onCnt p fun c => { c with oversize := c.oversize + 1 })) ∧
    (64 ≤ len → len ≤ 1522 → fcsGood = false →
      exec (.frameArrival p bytes fcsGood) s = .next (s.onCnt p fun c => { c with fcsErr := c.fcsErr + 1 })) ∧
    (64 ≤ len → len ≤ 1522 → fcsGood = true →
      let s1 := s.onCnt p fun c => { c with rxFrames := c.rxFrames + 1, rxBytes := c.rxBytes + BitVec.ofNat 32 len }
      (s1.resolve p (parseFrame bytes) = none →
        exec (.frameArrival p bytes fcsGood) s = .next (s1.onCnt p fun c => { c with domainMiss := c.domainMiss + 1 })) ∧
      (∀ d vid, s1.resolve p (parseFrame bytes) = some (d, vid) →
        exec (.frameArrival p bytes fcsGood) s = .next (s1.classify p d vid (parseFrame bytes))))

/-- The bytes are those of a frame from its destination to the byte before its FCS. That the bit between PCP and VID is ignored, and
which addresses are group addresses, are the model's choices (notes/assumptions/11.md, 10.md). -/
def Obligations.ResolvedDomainFollowsTag : Prop :=
  (∀ (a b c d e f u v w x y z : Byte) (rest : List Byte),
    (parseFrame ([a, b, c, d, e, f, u, v, w, x, y, z] ++ rest)).dst = a ++ b ++ c ++ d ++ e ++ f ∧
    (parseFrame ([a, b, c, d, e, f, u, v, w, x, y, z] ++ rest)).src = u ++ v ++ w ++ x ++ y ++ z ∧
    (isGroup (a ++ b ++ c ++ d ++ e ++ f) = true ↔ a.getLsbD 0 = true)) ∧
  (∀ m : PortSet, m.has .u = m.u ∧ m.has .s = m.s) ∧
  (∀ (macs rest : List Byte) (a b : Byte), macs.length = 12 → (a, b) ≠ (0x81, 0x00) →
    (parseFrame (macs ++ [a, b] ++ rest)).tag = none ∧ (parseFrame (macs ++ [a, b] ++ rest)).etherType = a ++ b ∧
    (parseFrame (macs ++ [a, b] ++ rest)).payload = rest) ∧
  (∀ (macs rest : List Byte) (pcp : BitVec 3) (dei : BitVec 1) (vid : BitVec 12) (a b : Byte), macs.length = 12 →
    let tci := (pcp ++ dei ++ vid : BitVec 16)
    let f := parseFrame (macs ++ [0x81, 0x00, BitVec.ofNat 8 (tci.toNat / 256), BitVec.ofNat 8 tci.toNat, a, b] ++ rest)
    f.tag = some ⟨⟨pcp.toNat, pcp.isLt⟩, vid.toNat⟩ ∧ f.etherType = a ++ b ∧ f.payload = rest) ∧
  ∀ (s : State) (p : Port) (f : Frame) (d : Fin 16) (vid : Nat), DomainVids s.dom →
    (s.resolve p f = some (d, vid) ↔
      ((f.tag = none ∧ vid = (s.ports.set.get p).pvid) ∨
        (∃ t, f.tag = some t ∧ t.vid = 0 ∧ vid = (s.ports.set.get p).pvid) ∨
        (∃ t, f.tag = some t ∧ t.vid ≠ 0 ∧ t.vid ≠ 4095 ∧ vid = t.vid)) ∧
      (s.dom.entries[d]).valid = true ∧ (s.dom.entries[d]).vid = vid ∧ (s.dom.entries[d]).members.has p = true)

def Obligations.ArrivalGoesToItsPlace : Prop :=
  ∀ (s : State) (p : Port) (d : Fin 16) (vid : Nat) (f : Frame),
    (p = .s → s.ports.holdS = true → s.classify p d vid f = s.onCnt .s fun c => { c with held := c.held + 1 }) ∧
    (p = .s → s.ports.holdS = false → f.etherType = 0x88B5 →
      s.classify p d vid f = s.onCnt .s fun c => { c with controlFromServer := c.controlFromServer + 1 }) ∧
    (GoesToAgent s p d f →
      (s.agent.inbox.length < 32 → f.cells ≤ s.pool.free →
        s.classify p d vid f = (s.takeCells f.cells).onAgent fun a => { a with inbox := a.inbox ++ [f] }) ∧
      (32 ≤ s.agent.inbox.length ∨ s.pool.free < f.cells →
        s.classify p d vid f = s.onCnt .u fun c => { c with agentFull := c.agentFull + 1 })) ∧
    (GoesToMedia s p d f → (p = .s → s.ports.holdS = false) →
      (s.media.inbox.length < 16 → f.cells ≤ s.pool.free →
        s.classify p d vid f = (s.takeCells f.cells).onMedia fun m => { m with inbox := m.inbox ++ [⟨p, d, f⟩] }) ∧
      (16 ≤ s.media.inbox.length ∨ s.pool.free < f.cells →
        s.classify p d vid f = s.onCnt p fun c => { c with mediaFull := c.mediaFull + 1 })) ∧
    ((p = .s → s.ports.holdS = false ∧ f.etherType ≠ 0x88B5) → ¬ GoesToAgent s p d f → ¬ GoesToMedia s p d f →
      s.classify p d vid f = s.steerFrame p d vid f)

/-- A frame that steering forwards in a class of a domain is offered to the opposite port (R15, R19). -/
def Obligations.SteeringDecidesFrame : Prop :=
  (∀ (s : State) (p : Port) (d : Fin 16) (vid : Nat) (f : Frame),
    let cls := fun o : Option Nat => frameClass o s.pcp (s.ports.set.get p).defaultClass f
    ((∀ k : Fin 64, ¬ MatchesFrame s.steer[k] p vid f) → s.steerFrame p d vid f = s.forward p d (cls none) f) ∧
    ∀ k : Fin 64, MatchesFrame s.steer[k] p vid f → (∀ j : Fin 64, j < k → ¬ MatchesFrame s.steer[j] p vid f) →
      let e := s.steer[k]
      let hit := s.setSteering k { e with hits := e.hits + 1 }
      (e.action = 1 → s.steerFrame p d vid f = hit.onCnt p fun c => { c with steerDrop := c.steerDrop + 1 }) ∧
      (e.action = 0 → e.meter = none → s.steerFrame p d vid f = hit.rewriteForward p d (cls e.override) e.rewrite f) ∧
      (e.action = 0 → ∀ m : Fin 16, e.meter = some m.val →
        let r := s.meters.bank[m].present s.clock.now (f.length + 20)
        let metered := hit.setMeter m r.1
        (r.2 = true → s.steerFrame p d vid f = metered.rewriteForward p d (cls e.override) e.rewrite f) ∧
        (r.2 = false → (s.meters.bank[m]).mode = .policeDrop →
          s.steerFrame p d vid f = metered.onCnt p fun c => { c with meterDrop := c.meterDrop + 1 }) ∧
        (r.2 = false → (s.meters.bank[m]).mode = .policeDemote →
          s.steerFrame p d vid f = metered.rewriteForward p d 0 e.rewrite f))) ∧
  (∀ (o : Nat) (map : Vector (Fin 4) 8) (dflt : Fin 4) (f : Frame), o ≤ 3 → (frameClass (some o) map dflt f).val = o) ∧
  (∀ (map : Vector (Fin 4) 8) (dflt : Fin 4) (f : Frame) (t : Tag), f.tag = some t → frameClass none map dflt f = map[t.pcp]) ∧
  (∀ (map : Vector (Fin 4) 8) (dflt : Fin 4) (f : Frame), f.tag = none → frameClass none map dflt f = dflt) ∧
  ∀ (s : State) (p : Port) (d : Fin 16) (k : Fin 4) (f : Frame),
    s.rewriteForward p d k none f = s.forward p d k f ∧
    (∀ r : Fin 16, (s.dom.entries[r]).valid = true → s.rewriteForward p d k (some r.val) f = s.forward p r k f) ∧
    (∀ r : Fin 16, (s.dom.entries[r]).valid = false →
      s.rewriteForward p d k (some r.val) f = s.onCnt p fun c => { c with domainMiss := c.domainMiss + 1 }) ∧
    s.forward .u d k f = (s.offerEgress .s d k f .passThrough).2 ∧ s.forward .s d k f = (s.offerEgress .u d k f .passThrough).2

def Obligations.EgressJudged : Prop :=
  ∀ (s : State) (p : Port) (d : Fin 16) (k : Fin 4) (f : Frame),
    let dom := s.dom.entries[d]
    (dom.valid = false ∨ dom.members.has p = false → s.judgeEgress p d k f = .notMember) ∧
    (dom.valid = true → dom.members.has p = true →
      (dom.tag.has p = false → s.judgeEgress p d k f = .form { f with
        tag := none, payload := f.payload ++ List.replicate (64 - (18 + f.payload.length)) 0 }) ∧
      (dom.tag.has p = true → ∀ t, f.tag = some t → s.judgeEgress p d k f = .form { f with tag := some ⟨t.pcp, dom.vid⟩ }) ∧
      (dom.tag.has p = true → f.tag = none → 1522 < f.length + 4 → s.judgeEgress p d k f = .tagOversize) ∧
      (dom.tag.has p = true → f.tag = none → f.length + 4 ≤ 1522 →
        (∀ i : Fin 8, s.pcp[i] = k → (∀ j : Fin 8, j < i → s.pcp[j] ≠ k) →
          s.judgeEgress p d k f = .form { f with tag := some ⟨i, dom.vid⟩ }) ∧
        ((∀ j : Fin 8, s.pcp[j] ≠ k) → s.judgeEgress p d k f = .form { f with tag := some ⟨0, dom.vid⟩ }))) ∧
    ∀ o : Origin,
      (s.judgeEgress p d k f = .notMember →
        s.offerEgress p d k f o = (false, s.onCnt p fun c => { c with egressNotMember := c.egressNotMember + 1 })) ∧
      (s.judgeEgress p d k f = .tagOversize →
        s.offerEgress p d k f o = (false, s.onCnt p fun c => { c with tagOversize := c.tagOversize + 1 })) ∧
      ∀ g, s.judgeEgress p d k f = .form g →
        (s.offerEgress p d k f o).2 = (s.offerClass p k g.cells ⟨g, o⟩).2 ∧
        ((s.offerEgress p d k f o).1 = true ↔ (s.offerClass p k g.cells ⟨g, o⟩).1 = .admitted)

/-- `need` is the cells the pool must grant: all of the frame's, or the extra cell of a frame that moves from an out-queue. The first
clauses give the length and the cells of a frame (R22: ceil(L / 128)), and what granting cells does to the pool. -/
def Obligations.ClassQueueAdmission : Prop :=
  (∀ f : Frame, f.length = 18 + (match f.tag with | none => 0 | some _ => 4) + f.payload.length ∧
    f.length ≤ 128 * f.cells ∧ 128 * f.cells < f.length + 128) ∧
  (∀ fs : List QFrame, queuedCells fs = (fs.map fun q => q.frame.cells).sum) ∧
  (∀ (s : State) (n : Nat), s.takeCells n = { s with
    pool := { s.pool with free := s.pool.free - n, lowFree := min s.pool.lowFree (s.pool.free - n) } }) ∧
  ∀ (s : State) (p : Port) (k : Fin 4) (need : Nat) (q : QFrame),
    let queue := (s.sched.port.get p).queues[k]
    let full := 256 ≤ queue.frames.length ∨ queue.cellLimit < queuedCells queue.frames + q.frame.cells
    (s.ports.link.get p = none →
      s.offerClass p k need q = (.linkDown, s.onCnt p fun c => { c with linkDown := c.linkDown + 1 })) ∧
    (s.ports.link.get p ≠ none → p = .s → s.ports.holdS = true →
      s.offerClass p k need q = (.held, s.onCnt p fun c => { c with held := c.held + 1 })) ∧
    (s.ports.link.get p ≠ none → (p = .s → s.ports.holdS = false) →
      (full → s.offerClass p k need q = (.queueFull, s.onCnt p fun c => { c with queueFull := c.queueFull + 1 })) ∧
      (¬ full → s.pool.free < need →
        s.offerClass p k need q = (.poolFull, s.onCnt p fun c => { c with poolFull := c.poolFull + 1 })) ∧
      (¬ full → need ≤ s.pool.free →
        let joined := (s.takeCells need).onEgress p fun e => { e with
          queues := e.queues.set k { queue with frames := queue.frames ++ [q] } }
        s.offerClass p k need q = (.admitted, joined.choose p) ∧
        ((s.sched.port.get p).tx ≠ none → joined.choose p = joined)))

def Obligations.MeterFirstUpdatesCredit : Prop :=
  ∀ (m : Meter) (n : Time) (q : Nat),
    (m.rate = 0 → m.present n q = ({ m with conform := m.conform + 1 }, true)) ∧
    (m.rate ≠ 0 →
      let e := (n.toNat + 2 ^ 48 - m.last.toNat) % 2 ^ 48
      ∀ c : Nat, ((m.burst * 1000 + m.rate - 1) / m.rate ≤ e → c = m.burst * 1000) →
        (e < (m.burst * 1000 + m.rate - 1) / m.rate → c = min (m.burst * 1000) (m.credit + e * m.rate)) →
        (q * 1000 ≤ c →
          m.present n q = ({ m with credit := c - q * 1000, last := n, conform := m.conform + 1 }, true)) ∧
        (c < q * 1000 → m.present n q = ({ m with credit := c, last := n, exceed := m.exceed + 1 }, false)))

/-! ### Links, the egress scheduler and the shapers -/

/-- A report of a PHY to a part without supply or in its start moves the pin alone: the model's choice
(notes/assumptions/1.md, 6.md). What is owed after the flush is counted by event (notes/assumptions/8.md). -/
def Obligations.LinkFollowsPhy : Prop :=
  (∀ (s : State) (p : Port) (v : Speed),
    let up : Pins := { s.pins with phy := s.pins.phy.set p (some v) }
    let cnt := s.ports.cnt.get p
    (s.phase = .running ∨ s.phase = .reloading → s.ports.link.get p = none →
      exec (.linkUp p v) s = .next { s with
        pins := up
        ports := { s.ports with
          link := s.ports.link.set p (some v)
          cnt := s.ports.cnt.set p { cnt with linkChanges := cnt.linkChanges + 1 } } }) ∧
    (s.phase = .off ∨ s.phase = .loading → exec (.linkUp p v) s = .next { s with pins := up }) ∧
    (s.ports.link.get p ≠ none → exec (.linkUp p v) s = .next { s with pins := up }) ∧
    (s.ports.link.get p = none →
      exec (.linkDown p) s = .next { s with pins := { s.pins with phy := s.pins.phy.set p none } }) ∧
    (s.ports.link.get p = none → ∀ bytes fcsGood, exec (.frameArrival p bytes fcsGood) s = .next s)) ∧
  ∀ (s : State) (p : Port) (v : Speed), s.ports.link.get p = some v →
    let e := s.sched.port.get p
    let gone := (e.queues.toList.map fun q => q.frames).flatten ++ (e.tx.map (·.q)).toList
    let cnt := s.ports.cnt.get p
    let one : Nat := if gone = [] then 0 else 1
    let room (x : ShaperState) : ShaperState :=
      match p with
      | .u => x.oweRoom fun k => !e.queues[k].frames.isEmpty
      | .s => x
    let cell (x : ShaperState) : ShaperState := if gone = [] then x else x.oweCell
    exec (.linkDown p) s = .next { s with
      pins := { s.pins with phy := s.pins.phy.set p none }
      ports := { s.ports with
        link := s.ports.link.set p none
        cnt := s.ports.cnt.set p { cnt with
          linkChanges := cnt.linkChanges + 1, linkFlush := cnt.linkFlush + BitVec.ofNat 32 gone.length } }
      sched := { s.sched with port := s.sched.port.set p { e with
        queues := e.queues.map fun q => { q with frames := [], deficit := 0 }, visit := 3, granted := false, tx := none } }
      pool := { s.pool with free := s.pool.free + (gone.map fun f => f.frame.cells).sum }
      agentOut := { s.agentOut with shaper := cell (room s.agentOut.shaper) }
      mediaOut := { s.mediaOut with shaper := cell (room s.mediaOut.shaper) }
      agent := { s.agent with
        restartGone := s.agent.restartGone || (gone.map QFrame.origin).contains .restartReply
        retries := s.agent.retries + one }
      media := { s.media with rescans := s.media.rescans + one } }

/-- A completion off its occasion changes nothing, and the time is judged by whole microseconds: the model's choices
(notes/assumptions/1.md, 28.md). -/
def Obligations.TransmissionCompletes : Prop :=
  ∀ (s : State) (p : Port),
    ((s.sched.port.get p).tx = none → exec (.transmissionComplete p) s = .next s) ∧
    (∀ x, (s.sched.port.get p).tx = some x →
      let sent := (s.onEgress p fun e => { e with tx := none }).onCnt p fun c => { c with
        txFrames := c.txFrames + 1, txBytes := c.txBytes + BitVec.ofNat 32 x.q.frame.length }
      (x.duration < ((s.clock.now - x.since).toNat + 1) * 1000 → exec (.transmissionComplete p) s =
        .next (((sent.noteGone [x.q.origin]).returnCells x.q.frame.cells).choose p)) ∧
      (((s.clock.now - x.since).toNat + 1) * 1000 ≤ x.duration → exec (.transmissionComplete p) s = .next s)) ∧
    ((s.sched.port.get p).pick = none → s.choose p = s) ∧
    ∀ speed f k e, s.ports.link.get p = some speed → (s.sched.port.get p).tx = none → (s.sched.port.get p).pick = some (f, k, e) →
      ∃ bitNs, (speed = .mbit10 → bitNs = 100) ∧ (speed = .mbit100 → bitNs = 10) ∧ (speed = .mbit1000 → bitNs = 1) ∧
        s.choose p = (s.onEgress p fun _ => { e with
          tx := some ⟨f, s.clock.now, (f.frame.length + 20) * 8 * bitNs⟩ }).announceRoom p (· == k)

def Obligations.StrictChoiceTakesHighestClass : Prop :=
  ∀ e : Egress, e.mode = .strict →
    ((∀ k : Fin 4, e.queues[k].frames = []) → e.pick = none) ∧
    ∀ (k : Fin 4) (f : QFrame) (rest : List QFrame), e.queues[k].frames = f :: rest →
      (∀ j : Fin 4, k < j → e.queues[j].frames = []) →
      e.pick = some (f, k, { e with queues := e.queues.set k { e.queues[k] with frames := rest } })

/-- One visit of the walk, and that the walk's 32 visits are enough. That the pointer moves on when the chosen frame empties its
queue is the model's choice (notes/assumptions/33.md). -/
def Obligations.WeightedChoiceIsVisitWalk : Prop :=
  (∀ (n : Nat) (e : Egress),
    let q := e.queues[e.visit]
    let onward := fun d : Nat => { e with
      queues := e.queues.set e.visit { q with deficit := d }, visit := e.visit - 1, granted := false }
    let d := if e.granted = true then q.deficit else q.deficit + q.weight * 256
    (q.frames = [] → e.weightedPick (n + 1) = (onward 0).weightedPick n) ∧
    ∀ f rest, q.frames = f :: rest →
      (d < f.frame.length → e.weightedPick (n + 1) = (onward d).weightedPick n) ∧
      (f.frame.length ≤ d → rest = [] → e.weightedPick (n + 1) = some (f, e.visit, { e with
        queues := e.queues.set e.visit { q with frames := [], deficit := 0 }, visit := e.visit - 1, granted := false })) ∧
      (f.frame.length ≤ d → rest ≠ [] → e.weightedPick (n + 1) = some (f, e.visit, { e with
        queues := e.queues.set e.visit { q with frames := rest, deficit := d - f.frame.length }, granted := true }))) ∧
  ∀ e : Egress, e.mode = .weighted →
    ((∀ k : Fin 4, e.queues[k].frames = []) → e.pick = none) ∧
    ((∃ k : Fin 4, e.queues[k].frames ≠ []) → e.pick = e.weightedPick 32) ∧
    ((∃ k : Fin 4, e.queues[k].frames ≠ []) →
      (∀ (k : Fin 4) (f : QFrame), f ∈ e.queues[k].frames → f.frame.length ≤ 1522) →
      (∀ k : Fin 4, 1 ≤ e.queues[k].weight) → ∃ r, e.pick = some r)

/-- That each event owes a waiting party a retry of its own, counted until it is made, is the model's choice
(notes/assumptions/8.md). -/
def Obligations.ShaperTestsHead : Prop :=
  (∀ (s : State) (sh : Shaper),
    ((s.outQueue sh).frames = [] → s.runShaper sh = s.setShaper sh .idle) ∧
    ∀ h rest, (s.outQueue sh).frames = h :: rest →
      let k := s.shaperClass sh
      let i := s.shaperMeter sh
      (s.judgeEgress .u h.domain k h.frame = .notMember → s.runShaper sh =
        ((s.onCnt .u fun c => { c with egressNotMember := c.egressNotMember + 1 }).dropHead sh).runShaper sh) ∧
      (s.judgeEgress .u h.domain k h.frame = .tagOversize → s.runShaper sh =
        ((s.onCnt .u fun c => { c with tagOversize := c.tagOversize + 1 }).dropHead sh).runShaper sh) ∧
      ∀ g, s.judgeEgress .u h.domain k h.frame = .form g →
        let q := g.length + 20
        let m := s.meters.bank[i].present s.clock.now q
        let tested := s.setMeter i m.1
        (m.2 = false → s.runShaper sh = tested.setShaper sh
          (.waiting (s.clock.now + BitVec.ofNat 48 ((q * 1000 - m.1.credit + m.1.rate - 1) / m.1.rate)))) ∧
        (m.2 = true → (tested.moveHead sh k g h 0).1 = true →
          s.runShaper sh = ((tested.moveHead sh k g h 0).2).runShaper sh) ∧
        (m.2 = true → (tested.moveHead sh k g h 0).1 = false → s.runShaper sh = (tested.moveHead sh k g h 0).2)) ∧
  (∀ s : State, s.shaperClass .agent = s.sched.mgmtClass ∧ s.shaperClass .media = s.sched.mediaClass ∧
    s.shaperMeter .agent = s.meters.agentMeter ∧ s.shaperMeter .media = s.meters.mediaMeter) ∧
  ∀ (s : State) (sh : Shaper) (k : Fin 4) (g : Frame) (h : OutFrame) (rest : List OutFrame) (n : Nat),
    (s.outQueue sh).frames = h :: rest →
    (∀ t, s.offerClass .u k (g.cells - h.frame.cells) ⟨g, h.origin⟩ = (.admitted, t) →
      s.moveHead sh k g h n = (true, t.popHead sh)) ∧
    (∀ t, s.offerClass .u k (g.cells - h.frame.cells) ⟨g, h.origin⟩ = (.queueFull, t) →
      s.moveHead sh k g h n = (false, t.setShaper sh (.blocked g k false n))) ∧
    (∀ t, s.offerClass .u k (g.cells - h.frame.cells) ⟨g, h.origin⟩ = (.poolFull, t) →
      s.moveHead sh k g h n = (false, t.setShaper sh (.blocked g k true n))) ∧
    (∀ t, s.offerClass .u k (g.cells - h.frame.cells) ⟨g, h.origin⟩ = (.linkDown, t) →
      s.moveHead sh k g h n = (true, ((t.popHead sh).noteGone [h.origin]).returnCells h.frame.cells)) ∧
    (let left := s.setOutQueue sh { s.outQueue sh with frames := rest };
      (sh = .agent → s.popHead sh = (left.onAgent fun a => { a with retries := a.retries + 1 }).departed h.origin) ∧
      (sh = .media → s.popHead sh = left.departed h.origin)) ∧
    (∀ (i : Fin 16) (gen : Byte) (x : Transfer), h.origin = .media i gen → s.media.table[i] = ⟨gen, some x⟩ →
      x.deadline = none →
      s.departed h.origin = s.onMedia fun m => { m with
        table := m.table.set i ⟨gen, some { x with deadline := some (s.clock.now + BitVec.ofNat 48 (m.timeoutMs * 1000)) }⟩ }) ∧
    ((¬ ∃ (i : Fin 16) (gen : Byte) (x : Transfer), h.origin = .media i gen ∧ s.media.table[i] = ⟨gen, some x⟩ ∧ x.deadline = none) →
      s.departed h.origin = s) ∧
    s.dropHead sh = ((s.popHead sh).noteGone [h.origin]).returnCells h.frame.cells ∧
    (∀ os : List Origin, (.restartReply ∈ os → s.noteGone os = s.onAgent fun a => { a with restartGone := true }) ∧
      (.restartReply ∉ os → s.noteGone os = s)) ∧
    ∀ cells : Nat, s.returnCells cells = { s with
      pool := { s.pool with free := s.pool.free + cells }
      agentOut := { s.agentOut with shaper := s.agentOut.shaper.oweCell }
      mediaOut := { s.mediaOut with shaper := s.mediaOut.shaper.oweCell }
      agent := { s.agent with retries := s.agent.retries + 1 }
      media := { s.media with rescans := s.media.rescans + 1 } }

/-- That a retry has a command of its own, one for each event, and that an expiry or a retry off its occasion changes nothing, are
the model's choices (notes/assumptions/1.md, 8.md). -/
def Obligations.ShaperWaitAndRetry : Prop :=
  ∀ (s : State) (sh : Shaper),
    (∀ t, (s.outQueue sh).shaper = .waiting t →
      ((s.clock.now - t).toNat < 2 ^ 47 → exec (.shaperWaitExpiry sh) s = .next (s.runShaper sh)) ∧
      (2 ^ 47 ≤ (s.clock.now - t).toNat → exec (.shaperWaitExpiry sh) s = .next s)) ∧
    (∀ g k w n h rest, (s.outQueue sh).shaper = .blocked g k w (n + 1) → (s.outQueue sh).frames = h :: rest →
      ((s.moveHead sh k g h n).1 = true →
        exec (.shaperBlockedRetry sh) s = .next (((s.moveHead sh k g h n).2).runShaper sh)) ∧
      ((s.moveHead sh k g h n).1 = false → exec (.shaperBlockedRetry sh) s = .next (s.moveHead sh k g h n).2)) ∧
    (∀ g k w, (s.outQueue sh).shaper = .blocked g k w 0 → exec (.shaperBlockedRetry sh) s = .next s) ∧
    (((s.outQueue sh).shaper = .idle ∨ (s.outQueue sh).frames = []) → exec (.shaperBlockedRetry sh) s = .next s) ∧
    (∀ n, ((s.returnCells n).outQueue .agent).shaper = (s.agentOut.shaper).oweCell ∧
      ((s.returnCells n).outQueue .media).shaper = (s.mediaOut.shaper).oweCell) ∧
    (∀ removed, ((s.announceRoom .u removed).outQueue .agent).shaper = (s.agentOut.shaper).oweRoom removed ∧
      ((s.announceRoom .u removed).outQueue .media).shaper = (s.mediaOut.shaper).oweRoom removed) ∧
    (∀ x : ShaperState, (x = .idle ∨ ∃ t, x = .waiting t) → x.oweCell = x ∧ ∀ removed : Fin 4 → Bool, x.oweRoom removed = x) ∧
    ∀ g k n, ShaperState.oweCell (.blocked g k true n) = .blocked g k true (n + 1) ∧
      ShaperState.oweCell (.blocked g k false n) = .blocked g k false n ∧
      ∀ w (removed : Fin 4 → Bool),
        (removed k = true → ShaperState.oweRoom removed (.blocked g k w n) = .blocked g k w (n + 1)) ∧
        (removed k = false → ShaperState.oweRoom removed (.blocked g k w n) = .blocked g k w n)

/-! ### The control agent -/

/-- A frame taken off its occasion changes nothing: the model's choice (notes/assumptions/1.md); the rest is R42's and R43's. -/
def Obligations.AgentTakesOldestFrame : Prop :=
  ∀ (s : State),
    (s.agent.state ≠ .idle ∨ s.agent.inbox = [] → exec .agentTakeFrame s = .next s) ∧
    ∀ f rest, s.agent.state = .idle → s.agent.inbox = f :: rest →
      let taken := s.onAgentCnt fun c => { c with framesTaken := c.framesTaken + 1 }
      let drop := fun (count : AgentCounters → AgentCounters) (t : State) =>
        ((t.onAgentCnt count).onAgent fun a => { a with inbox := rest }).returnCells f.cells
      (isGroup f.src = true ∨
          (∀ i : Fin 8, (s.operators[i]).valid = true → (s.operators[i]).wildcard = false ∧ (s.operators[i]).addr ≠ f.src) →
        exec .agentTakeFrame s = .next (drop (fun c => { c with unknownSource := c.unknownSource + 1 }) taken)) ∧
      ∀ i : Fin 8, isGroup f.src = false → (s.operators[i]).valid = true →
        ((s.operators[i]).wildcard = true ∨ (s.operators[i]).addr = f.src) →
        (∀ j : Fin 8, j < i → (s.operators[j]).valid = true →
          (s.operators[j]).wildcard = false ∧ (s.operators[j]).addr ≠ f.src) →
        let admitted := taken.setOperator i { s.operators[i] with admitted := (s.operators[i]).admitted + 1 }
        let begun := admitted.onAgent fun a => { a with
          state := .executing, op := i, src := f.src, todo := (walkFrame f.payload).1, trailing := (walkFrame f.payload).2
          openReplies := [], closed := [] }
        (f.payload.head? ≠ some 1 →
          exec .agentTakeFrame s = .next (drop (fun c => { c with badHeader := c.badHeader + 1 }) admitted)) ∧
        (f.payload.head? = some 1 → (walkFrame f.payload).1 ≠ [] → exec .agentTakeFrame s = .next begun) ∧
        (f.payload.head? = some 1 → (walkFrame f.payload).1 = [] → exec .agentTakeFrame s = .next begun.advance)

/-- `count` is the header's record count; requests carry a status byte of 0 and any flags. `padding` is what ends a walk: fewer than
8 bytes, or a length field of 0, whatever follows. -/
def Obligations.FrameWalkYieldsRecords : Prop :=
  let spelled := fun rs : List Rec => (rs.map fun r => recordBytes r.type r.tag 0 r.flags.toNat r.body).flatten
  let padding := fun p : List Byte => p.length < 8 ∨ ∃ a b rest, p = [a, b, 0, 0] ++ rest
  (∀ (rs : List Rec) (flags count : Byte) (rest : List Byte), rs.length = 16 → 16 < count.toNat →
    (∀ r ∈ rs, 8 + r.body.length ≤ 1400) → walkFrame (1 :: flags :: count :: (spelled rs ++ rest)) = (rs, none)) ∧
  (∀ (rs : List Rec) (flags count : Byte) (p : List Byte), rs ≠ [] → rs.length < count.toNat → rs.length < 16 →
    (∀ r ∈ rs, 8 + r.body.length ≤ 1400) → padding p → walkFrame (1 :: flags :: count :: (spelled rs ++ p)) = (rs, none)) ∧
  (∀ (flags count : Byte) (p : List Byte), padding p → walkFrame (1 :: flags :: count :: p) = ([], some (0, 0))) ∧
  (∀ (type tag : Half) (status flags : Nat) (body : List Byte),
    recordBytes type tag status flags body = [type.extractLsb' 8 8, type.extractLsb' 0 8, BitVec.ofNat 8 ((8 + body.length) / 256),
      BitVec.ofNat 8 (8 + body.length), tag.extractLsb' 8 8, tag.extractLsb' 0 8, BitVec.ofNat 8 status, BitVec.ofNat 8 flags] ++
      body) ∧
  (∀ (rs : List Rec) (flags : Byte) (rest : List Byte), rs ≠ [] → rs.length ≤ 16 → (∀ r ∈ rs, 8 + r.body.length ≤ 1400) →
    walkFrame (1 :: flags :: BitVec.ofNat 8 rs.length :: (spelled rs ++ rest)) = (rs, none)) ∧
  (∀ (rs : List Rec) (flags count : Byte) (zeros : Nat), rs ≠ [] → rs.length < count.toNat → rs.length < 16 →
    (∀ r ∈ rs, 8 + r.body.length ≤ 1400) →
    walkFrame (1 :: flags :: count :: (spelled rs ++ List.replicate zeros 0)) = (rs, none)) ∧
  (∀ (rs : List Rec) (flags count st fl : Byte) (type tag : Half) (len : Nat) (rest : List Byte),
    rs.length < count.toNat → rs.length < 16 → (∀ r ∈ rs, 8 + r.body.length ≤ 1400) →
    (1 ≤ len ∧ len ≤ 7) ∨ (1400 < len ∧ len < 65536) ∨ (8 + rest.length < len ∧ len < 65536) →
    walkFrame (1 :: flags :: count :: (spelled rs ++ natBytes 2 type.toNat ++ natBytes 2 len ++ natBytes 2 tag.toNat ++
      [st, fl] ++ rest)) = (rs, some (type, tag))) ∧
  ∀ (flags : Byte) (rest : List Byte), walkFrame (1 :: flags :: 0 :: rest) = ([], some (0, 0))

/-- Which command executes a record of each type, flag, target and table: a command takes the record the agent has next when it is
of its kind (notes/assumptions/3.md). A refused TABLE_WRITE names its table and index (16.md): the model's choices. -/
def Obligations.RecordsRefusedAlike : Prop :=
  (∀ (c : Instr) (r : Rec) (s : State), Ready c r s →
    let op := s.operators[s.agent.op]
    let head := if r.type = 0x0003 then r.body.take 2 else []
    (op.valid = false → Refuses c s r .denied head) ∧
    (op.valid = true → c = .recordUnknownType → Refuses c s r .noSuch []) ∧
    (op.valid = true → c ≠ .recordUnknownType → op.privs.grants r.need = false → Refuses c s r .denied head) ∧
    (op.valid = true → c ≠ .recordUnknownType → op.privs.grants r.need = true →
      bodyLengthOk r.type.toNat r.body.length = false → Refuses c s r .malformed head)) ∧
  (∀ r : Rec,
    (r.type = 0x0001 → r.need = .none) ∧
    (r.type ∈ [0x0002, 0x0017, 0x0018, 0x0019, 0x001A, 0x0023, 0x0032, 0x0033] → r.need = .view) ∧
    (r.type ∈ [0x0003, 0x0010, 0x0040, 0x0042, 0x0043] → r.need = .admin) ∧
    (r.type = 0x0011 → r.flags.getLsbD 0 = false → r.need = .typing) ∧
    (r.type = 0x0011 → r.flags.getLsbD 0 = true → r.need = .admin) ∧
    (r.type ∈ [0x0012, 0x0013, 0x0014, 0x0015, 0x0016] → r.need = .typing) ∧
    (r.type ∈ [0x0020, 0x0021, 0x0022] → r.need = .media) ∧
    (r.type ∈ [0x0030, 0x0031] → r.need = .power) ∧
    (r.type = 0x0041 → r.flags.getLsbD 0 = false → r.need = .view) ∧
    (r.type = 0x0041 → r.flags.getLsbD 0 = true → r.need = .admin) ∧
    (r.type ∉ ([0x0001, 0x0002, 0x0003, 0x0010, 0x0011, 0x0012, 0x0013, 0x0014, 0x0015, 0x0016, 0x0017, 0x0018, 0x0019, 0x001A,
      0x0020, 0x0021, 0x0022, 0x0023, 0x0030, 0x0031, 0x0032, 0x0033, 0x0040, 0x0041, 0x0042, 0x0043] : List Half) →
      r.command = .recordUnknownType)) ∧
  (∀ r : Rec,
    let flag := r.flags.getLsbD 0
    (r.type = 0x0001 → r.command = .identify) ∧ (r.type = 0x0002 → r.command = .tableRead) ∧
    (r.type = 0x0010 → r.command = if flag = true then .consoleBaudAuto else .consoleBaud) ∧
    (r.type = 0x0011 → r.command = if flag = true then .consoleClaimForce else .consoleClaim) ∧
    (r.type = 0x0012 → r.command = .consoleRelease) ∧ (r.type = 0x0013 → r.command = .consoleType) ∧
    (r.type = 0x0014 → r.command = .consoleBreak) ∧ (r.type = 0x0015 → r.command = .consoleMark) ∧
    (r.type = 0x0016 → r.command = .consoleArm) ∧ (r.type = 0x0017 → r.command = .consoleWatch) ∧
    (r.type = 0x0018 → r.command = .consoleUnwatch) ∧ (r.type = 0x0019 → r.command = .consoleFetch) ∧
    (r.type = 0x001A → r.command = .consoleMarks) ∧ (r.type = 0x0020 → r.command = .mediaAttach) ∧
    (r.type = 0x0021 → r.command = if flag = true then .mediaDetachDiscard else .mediaDetach) ∧
    (r.type = 0x0022 → r.command = .mediaResume) ∧ (r.type = 0x0023 → r.command = .mediaStatus) ∧
    (r.type = 0x0030 → r.command = .powerRequest) ∧
    (r.type = 0x0031 → ∀ target rest, r.body = target :: rest →
      r.command = if target = 0 then .powerCancelRunning else .powerCancelQueued) ∧
    (r.type = 0x0032 → r.command = .powerStatus) ∧ (r.type = 0x0033 → r.command = .lineStatus) ∧
    (r.type = 0x0040 → r.command = .timeSet) ∧
    (r.type = 0x0041 → r.command = if flag = true then .statsReadClear else .statsRead) ∧
    (r.type = 0x0042 → r.command = .store) ∧
    (r.type = 0x0043 → r.command = if flag = true then .restartForce else .restart)) ∧
  (∀ (r : Rec) (t i : Byte) (e : List Byte), r.type = 0x0003 → r.body = t :: i :: e ∨ (r.body = [t] ∧ i = 0) →
    r.command = match t.toNat with
      | 1 => if i = 16 then .tableWriteMgmtDomain else .tableWriteDomain
      | 2 => .tableWriteSteering
      | 3 => .tableWritePcpMap
      | 4 => .tableWritePort
      | 5 => if i = 16 then .tableWriteMeterSettings else .tableWriteMeter
      | 6 => .tableWriteQueue
      | 7 => .tableWritePool
      | 8 => .tableWriteOperator
      | 9 => if i = 1 then .tableWriteConsoleHistory else .tableWriteConsoleLine
      | 10 => .tableWritePattern
      | 11 => .tableWriteRegion
      | 12 => .tableWriteMediaParams
      | 13 => .tableWriteLine
      | 14 => .tableWriteSense
      | 15 => .tableWriteSenseTrigger
      | 16 => .tableWriteScriptDir
      | 17 => .tableWriteScriptStep
      | _ => .tableWriteUnknown) ∧
  (∀ n : Nat,
    (∀ t ∈ [0x01, 0x11, 0x12, 0x18, 0x32, 0x33, 0x42, 0x43], bodyLengthOk t n = true ↔ n = 0) ∧
    (bodyLengthOk 0x10 n = true ↔ n = 4) ∧ (bodyLengthOk 0x13 n = true ↔ n ≤ 1392) ∧
    (∀ t ∈ [0x14, 0x15, 0x31], bodyLengthOk t n = true ↔ n = 2) ∧
    (∀ t ∈ [0x16, 0x20, 0x21, 0x22, 0x23, 0x41], bodyLengthOk t n = true ↔ n = 1) ∧
    (bodyLengthOk 0x17 n = true ↔ n = 9) ∧ (bodyLengthOk 0x19 n = true ↔ n = 8) ∧
    (bodyLengthOk 0x1A n = true ↔ n = 0 ∨ n = 4) ∧ (bodyLengthOk 0x30 n = true ↔ n = 1 ∨ n = 2) ∧
    (bodyLengthOk 0x40 n = true ↔ n = 5) ∧ (∀ t ∈ [0x02, 0x03], bodyLengthOk t n = true)) ∧
  ∀ p : Privileges,
    (p.grants .none = true) ∧ (p.grants .view = true ↔ p.admin = true ∨ p.view = true) ∧
    (p.grants .typing = true ↔ p.admin = true ∨ p.typing = true) ∧ (p.grants .media = true ↔ p.admin = true ∨ p.media = true) ∧
    (p.grants .power = true ↔ p.admin = true ∨ p.power = true) ∧ (p.grants .admin = true ↔ p.admin = true)

/-- Packing a reply, and what follows it: `advance` is given by what it does at each stage, until it stops. A RESTART_PENDING agent
that waits is counted in OUT_WAIT, and a wait that begins is owed no retry: the model's choices (notes/assumptions/24.md, 8.md). -/
def Obligations.RepliesPackedInOrder : Prop :=
  (∀ (type tag : Half) (status flags : Nat) (body : List Byte),
    recordBytes type tag status flags body = [type.extractLsb' 8 8, type.extractLsb' 0 8, BitVec.ofNat 8 ((8 + body.length) / 256),
      BitVec.ofNat 8 (8 + body.length), tag.extractLsb' 8 8, tag.extractLsb' 0 8, BitVec.ofNat 8 status, BitVec.ofNat 8 flags] ++
      body) ∧
  ([Status.ok, .denied, .noSuch, .range, .malformed, .busy, .conflict, .state, .lastAdmin, .dirty].map Status.code =
    [0, 1, 2, 3, 4, 5, 6, 7, 8, 9]) ∧
  (∀ s : State, s.popRecord = s.onAgent fun a => { a with todo := a.todo.drop 1 }) ∧
  (∀ s : State,
    let placed (t : State) : State := t.onAgent fun a => { a with
      closed := a.closed.drop 1, lastPlaced := .reply, cnt := { a.cnt with replyFrames := a.cnt.replyFrames + 1 } }
    let left (t : State) : State := match t.agent.inbox with
      | [] => t
      | f :: rest => (t.onAgent fun a => { a with inbox := rest }).returnCells f.cells
    (∀ f rest, s.agent.closed = f :: rest →
      (∀ t, s.placeOut .agent f = some t → s.advance = (placed t).advance) ∧
      (s.placeOut .agent f = none → s.advance = s.onAgent fun a => { a with
        state := if a.state = .restartPending then .restartPending else .waiting
        retries := if s.hist.offerWaiting = true then a.retries else 0
        cnt := { a.cnt with outWait := a.cnt.outWait + 1 } })) ∧
    (s.agent.closed = [] → s.agent.state = .restartPending → s.advance = s) ∧
    (s.agent.closed = [] → s.agent.state ≠ .restartPending → s.agent.restartAccepted = true →
      s.advance = State.advance ((left (s.closeOpen false .restartReply)).onAgent fun a => { a with
        state := .restartPending, restartAccepted := false, restartGone := false })) ∧
    (s.agent.closed = [] → s.agent.state ≠ .restartPending → s.agent.restartAccepted = false →
      (s.agent.todo ≠ [] → s.advance = s.onAgent fun a => { a with state := .executing }) ∧
      (s.agent.todo = [] → ∀ type tag, s.agent.trailing = some (type, tag) →
        s.advance = ((s.onAgent fun a => { a with trailing := none }).pack ⟨type, tag, .malformed, []⟩).advance) ∧
      (s.agent.todo = [] → s.agent.trailing = none → s.agent.openReplies ≠ [] → s.advance = (s.closeOpen false .reply).advance) ∧
      (s.agent.todo = [] → s.agent.trailing = none → s.agent.openReplies = [] →
        s.advance = left (s.onAgent fun a => { a with state := .idle })))) ∧
  ∀ (s : State) (r : Reply),
    let counted := s.onAgentCnt fun c => { c with
      records := c.records + 1
      denied := if r.status = .denied then c.denied + 1 else c.denied
      malformed := if r.status = .malformed then c.malformed + 1 else c.malformed }
    let held := (s.agent.openReplies.map fun x => 8 + x.body.length).sum
    (s.agent.openReplies = [] ∨ held + (8 + r.body.length) ≤ 1479 →
      s.pack r = counted.onAgent fun a => { a with openReplies := a.openReplies ++ [r] }) ∧
    (s.agent.openReplies ≠ [] → 1479 < held + (8 + r.body.length) →
      s.pack r = (counted.closeOpen true .reply).onAgent fun a => { a with openReplies := [r] }) ∧
    ∀ (more : Bool) (o : Origin),
      let records := (s.agent.openReplies.map fun x => recordBytes x.type x.tag x.status.code 0 x.body).flatten
      let payload := [1, if more then 2 else 0, BitVec.ofNat 8 s.agent.openReplies.length] ++ records
      s.closeOpen more o = s.onAgent fun a => { a with
        openReplies := []
        closed := a.closed ++ [⟨⟨a.src, s.ports.partMac, none, 0x88B5,
          payload ++ List.replicate (64 - (18 + payload.length)) 0⟩, s.dom.mgmt, o⟩] }

/-- A push is claimed while the history block's offer waits; `p` is the push it has prepared. That a retry is a command of its own,
one for each event, and that one off its occasion changes nothing, are the model's choices (notes/assumptions/1.md, 8.md). -/
def Obligations.OutQueueSharedByTurns : Prop :=
  (∀ (s : State) (sh : Shaper) (f : OutFrame),
    let q := s.outQueue sh
    let placed := (s.takeCells f.frame.cells).setOutQueue sh { q with frames := q.frames ++ [f] }
    (q.frames.length < 16 → f.frame.cells ≤ s.pool.free → q.frames = [] → s.placeOut sh f = some (placed.runShaper sh)) ∧
    (q.frames.length < 16 → f.frame.cells ≤ s.pool.free → q.frames ≠ [] → s.placeOut sh f = some placed) ∧
    (16 ≤ q.frames.length ∨ s.pool.free < f.frame.cells → s.placeOut sh f = none)) ∧
  (∀ s : State, s.agent.retries = 0 → exec .outQueueRetry s = .next s) ∧
  (∀ (s0 : State) (n : Nat), s0.agent.retries = n + 1 →
    let s := s0.onAgent fun a => { a with retries := n }
    let push := if s.hist.offerWaiting = true then s.hist.nextPush else none
    (s.agent.closed = [] → push = none → exec .outQueueRetry s0 = .next s) ∧
    (∀ f rest, s.agent.closed = f :: rest → push = none ∨ s.agent.lastPlaced = .push →
      (s.placeOut .agent f = none → exec .outQueueRetry s0 = .next s) ∧
      (∀ t, s.placeOut .agent f = some t → exec .outQueueRetry s0 = .next (State.advance (t.onAgent fun a => { a with
        closed := a.closed.drop 1, lastPlaced := .reply, cnt := { a.cnt with replyFrames := a.cnt.replyFrames + 1 } })))) ∧
    ∀ p, push = some p → s.agent.closed = [] ∨ s.agent.lastPlaced = .reply →
      (s.placeOut .agent (s.pushFrame p) = none → exec .outQueueRetry s0 = .next s) ∧
      (∀ t, s.placeOut .agent (s.pushFrame p) = some t → exec .outQueueRetry s0 = .next (State.pump
        ((t.onAgent fun a => { a with
          lastPlaced := .push, cnt := { a.cnt with pushFrames := a.cnt.pushFrames + 1 } }).onHist fun h =>
            { h.commitPush t.clock.now p with offerWaiting := false })))) ∧
  (∀ (s : State) (n : Nat), (s.returnCells n).agent = { s.agent with retries := s.agent.retries + 1 }) ∧
  ∀ s : State,
    s.enterWaiting.agent.retries = (if s.hist.offerWaiting = true then s.agent.retries else 0) ∧
    s.waitOffer.agent.retries = (if s.agent.closed = [] then 0 else s.agent.retries) ∧
    s.waitOffer.hist = { s.hist with offerWaiting := true }

/-! ### Records that read -/

/-- Which values a reply lists and in which lengths and order, that a CONSOLE_FETCH at NEWEST or beyond repeats its start, and what
a TABLE_READ appends, are the model's choices (notes/assumptions/14.md, 15.md, 34.md, 35.md, 39.md). -/
def Obligations.ReadingRecordsChangeNothing : Prop :=
  (∀ (r : Rec) (s : State), Passes r s →
    let h := s.hist
    (Ready .identify r s → Answers .identify s r .ok s.identityBytes s.popRecord) ∧
    (Ready .powerStatus r s → Answers .powerStatus s r .ok s.powerStatusBytes s.popRecord) ∧
    (Ready .lineStatus r s → Answers .lineStatus s r .ok s.lineStatusBytes s.popRecord) ∧
    (Ready .mediaStatus r s →
      (∀ g : Fin 4, r.body = [BitVec.ofNat 8 g.val] →
        Answers .mediaStatus s r .ok (s.mediaStatusBytes g) s.popRecord) ∧
      (∀ b : Byte, r.body = [b] → 3 < b.toNat → Refuses .mediaStatus s r .noSuch [])) ∧
    (Ready .statsRead r s →
      (∀ b g, r.body = [b] → Group.ofCode b.toNat = some g →
        Answers .statsRead s r .ok (b :: timeBytes s.clock.now ++ [0] ++ s.groupBytes g) s.popRecord) ∧
      (∀ b : Byte, r.body = [b] → b = 0 ∨ 9 < b.toNat → Refuses .statsRead s r .noSuch [])) ∧
    (Ready .consoleMarks r s →
      (r.body = [] → Answers .consoleMarks s r .ok (natBytes 4 h.marks.length ++ counterBytes h.nextMark ++
        natBytes 1 h.marks.length ++ (h.marks.map Mark.bytes).flatten) s.popRecord) ∧
      (∀ first : Counter, r.body = counterBytes first →
        let ms := h.marks.filter fun m => first.toNat ≤ m.seq.toNat
        Answers .consoleMarks s r .ok (natBytes 4 h.marks.length ++ counterBytes h.nextMark ++ natBytes 1 ms.length ++
          (ms.map Mark.bytes).flatten) s.popRecord)) ∧
    (Ready .consoleFetch r s → ∀ (x : Offset) (len : Half), r.body = timeBytes x ++ natBytes 2 len.toNat →
      let n := min len.toNat 1024
      let back := (h.newest - x).toNat
      let reply := fun (start : Offset) (gap : Byte) (bytes : List Byte) =>
        Answers .consoleFetch s r .ok (timeBytes start ++ natBytes 2 bytes.length ++ [gap] ++ natBytes 2 n ++
          timeBytes h.newest ++ timeBytes h.oldest ++ bytes) s.popRecord
      (1 ≤ back → back ≤ h.ring.length → back < 2 ^ 47 → reply x 0 (((h.ring.take back).reverse).take n)) ∧
      (h.ring.length < back → back < 2 ^ 47 → h.ring.length < 2 ^ 48 → reply h.oldest 1 (h.ring.reverse.take n)) ∧
      (back = 0 ∨ 2 ^ 47 ≤ back → reply x 0 [])) ∧
    (Ready .tableRead r s →
      (r.body = [] → Refuses .tableRead s r .malformed []) ∧
      (∀ b rest, r.body = b :: rest → TableId.ofCode b.toNat = none → Refuses .tableRead s r .noSuch []) ∧
      (∀ b rest t, r.body = b :: rest → TableId.ofCode b.toNat = some t → rest.length ≠ 1 →
        Refuses .tableRead s r .malformed []) ∧
      (∀ b i t, r.body = [b, i] → TableId.ofCode b.toNat = some t →
        (s.entryBytes t i.toNat = none → Refuses .tableRead s r .noSuch []) ∧
        ∀ e, s.entryBytes t i.toNat = some e →
          Answers .tableRead s r .ok ([b, i] ++ e ++ s.runtimeBytes t i.toNat) s.popRecord))) ∧
  ∀ s : State,
    let b1 := natBytes 1
    let b2 := natBytes 2
    let b4 := natBytes 4
    let time := fun t : Time => natBytes 6 t.toNat
    let cs := fun l : List Counter => (l.map fun c => natBytes 4 c.toNat).flatten
    let flag := fun b : Bool => b1 (if b = true then 1 else 0)
    let optional := fun (n : Nat) (v : Option Nat) => match v with | none => List.replicate (n + 1) 0 | some x => 1 :: natBytes n x
    let expiry := fun v : Option Time => optional 6 (v.map BitVec.toNat)
    let inState := fun (c : Nat) (p : CacheLine → Bool) => b4 (s.media.lines.countP fun l => l.cond.code == c && p l)
    let users := fun (k : TransferKind) (p : Transfer → Bool) => b4 ((List.finRange 16).countP fun e =>
      (s.media.table[e]).use.any fun t => t.kind == k && p t)
    let uses := users .inquire (fun _ => true) ++ users .fetch (fun _ => true) ++ users .flush (fun _ => true)
    let conditions := fun p : CacheLine → Bool => inState 0 p ++ inState 1 p ++ inState 2 p ++ inState 3 p ++ inState 4 p
    let dirty := b4 (s.media.lines.countP fun l => l.cond.isDirty)
    let owner := optional 1 (s.line.owner.map fun o => o.op.val)
    let region := fun g : Fin 4 =>
      let r := s.media.regions[g]
      b1 r.state.code ++ b4 r.sectors ++ flag r.writable ++ b4 r.failures ++ (match r.err with
        | none => List.replicate 13 0
        | some e => 1 :: b1 e.code.code ++ optional 4 e.sector ++ time e.time)
    let changeDue := fun k : Fin 4 => match (s.power.sense[k]).pending with | .change t => some t | _ => none
    let open' := b1 (if s.power.window = none then 1 else 0)
    (s.identityBytes = [0x0D, 0x6E, 0x42, 0x10, 1] ++
      (([16, 64, 16, 8192, 8, 65536, 32, 4, 8, 4, 1024, 16, 16, 6, 4, 16, 256].map b4).flatten ++
      natBytes 6 s.ports.partMac.toNat ++ time s.clock.now ++ (match s.loader.start.cause with
        | .powerOn => List.replicate 9 0
        | .restart => [1, 1] ++ flag s.loader.start.force ++ b4 s.loader.start.dirtyLost ++ flag s.loader.start.scriptAborted ++
            flag s.loader.start.storeAbandoned) ++
      (match s.loader.image.source with
        | .image => [0, 1] ++ b4 s.loader.image.length ++ b4 s.loader.image.applied ++ b4 s.loader.image.skipped
        | .noEeprom => 1 :: List.replicate 13 0
        | .invalid => 2 :: List.replicate 13 0
        | .loaderOff => 3 :: List.replicate 13 0) ++
      b1 s.loader.image.eeprom.code ++ b1 s.loader.store.code ++ b1 s.agent.op.val ++ (s.operators[s.agent.op]).privs.bytes)) ∧
    s.powerStatusBytes = (match s.script.running with
        | none => List.replicate 22 0
        | some c => (match c.wait with | .delaying _ => 1 | .acting => 2 | .awaiting _ => 3 | .guardWait _ => 4) :: 1 ::
            b1 c.script.val ++ c.source.bytes ++ b1 c.prio ++ flag c.preemptible ++ time c.start ++ b1 c.cur ++
            b1 c.stack.length ++ (c.stack.map b1).flatten ++ (match c.wait with
              | .acting => List.replicate 7 0
              | .delaying t => 1 :: time t
              | .awaiting t => 1 :: time t
              | .guardWait t => 1 :: time t)) ++
      flag s.ports.holdS ++ b1 s.script.queue.length ++
      (s.script.queue.map fun q => b1 q.script.val ++ q.source.bytes ++ b1 q.prio ++ flag q.preempt ++ time q.arrival).flatten ++
      (match s.script.last with
        | none => List.replicate 22 0
        | some o => 1 :: b1 o.script.val ++ o.source.bytes ++ b1 o.prio ++ (match o.outcome with
            | .ok => [0, 0, 0, 0]
            | .failed code => [1, 1] ++ b2 code.toNat
            | .fault => [2, 0, 0, 0]
            | .aborted => [3, 0, 0, 0]) ++ b1 o.step ++ time o.start ++ time o.finish) ++ time s.clock.now ∧
    s.lineStatusBytes = (s.power.lines.toList.map fun l =>
        b1 l.cls.code ++ flag l.idle ++ flag l.level ++ flag l.driven ++ flag l.byScript).flatten ++
      (match s.power.guardRec with
        | none => List.replicate 16 0
        | some g => 1 :: time g.fall ++ b2 g.secs ++ time (g.fall + BitVec.ofNat 48 (g.secs * 1000000)) ++
            flag (decide (g.secs ≠ 0 ∧ (s.clock.now - g.fall).toNat < g.secs * 1000000))) ++
      ((List.finRange 4).map fun k => flag s.pins.raw[k] ++ b1 (levelCode (s.power.sense[k]).level) ++
        b2 (s.power.sense[k]).debounce ++ expiry (changeDue k)).flatten ++
      b1 s.power.state.code ++ time s.power.stateAt ++ open' ++ expiry s.power.window ++ time s.clock.now ∧
    (∀ g : Fin 4,
      let c := (s.media.regions[g]).cfg
      s.mediaStatusBytes g = flag c.valid ++ flag c.bootOnly ++ flag c.writeProtect ++ b1 c.service ++ region g ++
        conditions (fun l => l.region == g) ++ b4 (s.media.held.countP fun h => h.unit == g) ++
        users .inquire (fun t => t.region == g) ++ users .fetch (fun t => t.region == g) ++ users .flush (fun t => t.region == g) ++
        b4 (((s.media.held.filter fun h => h.unit == g).map fun h => h.awaiting.countP fun x =>
          (s.media.findLine g x).isNone).sum) ++ open' ++ b4 s.media.held.length ++ dirty) ∧
    (∀ p : Port,
      let c := s.ports.cnt.get p
      let e := s.sched.port.get p
      s.groupBytes (match p with | .u => .portU | .s => .portS) =
        cs [c.rxFrames, c.rxBytes, c.runt, c.oversize, c.fcsErr, c.domainMiss, c.held, c.controlFromServer, c.agentFull,
          c.mediaFull, c.steerDrop, c.meterDrop, c.egressNotMember, c.tagOversize, c.linkDown, c.linkFlush, c.txFrames, c.txBytes,
          c.linkChanges, c.queueFull, c.poolFull, c.holdFlush] ++
        (e.queues.toList.map fun q => b4 q.frames.length ++ b4 (queuedCells q.frames) ++ b4 q.deficit).flatten ++
        b1 (if e.tx = none then 0 else 1)) ∧
    s.groupBytes .steering = cs (s.steer.toList.map fun e => e.hits) ∧
    s.groupBytes .meters = (s.meters.bank.toList.map fun m => cs [m.conform, m.exceed] ++ b4 m.credit).flatten ∧
    (let queued := fun p : Port => b4 (((s.sched.port.get p).queues.toList.map fun q => queuedCells q.frames).sum);
      s.groupBytes .pool = b4 s.pool.free ++ queued .u ++ queued .s ++ b4 (s.agent.inbox.map Frame.cells).sum ++
        b4 (s.media.inbox.map fun m => m.frame.cells).sum ++ b4 (s.agentOut.frames.map fun f => f.frame.cells).sum ++
        b4 (s.mediaOut.frames.map fun f => f.frame.cells).sum ++ b4 s.txCells ++ b4 (4 * s.media.lines.length) ++
        b4 s.media.lines.length ++ cs [s.pool.cacheAlloc, s.pool.cacheEvict, s.pool.cacheAllocFail, s.pool.ceilingEvict] ++
        b4 s.pool.lowFree) ∧
    (let c := s.agent.cnt;
      s.groupBytes .agent = cs [c.framesTaken, c.unknownSource, c.badHeader, c.records, c.denied, c.malformed, c.replyFrames,
        c.pushFrames, c.outWait] ++ b4 s.agent.inbox.length ++ b4 s.agentOut.frames.length ++ b1 s.agent.state.code ++
        b1 s.loader.store.code) ∧
    (let c := s.line.cnt;
      let h := s.hist;
      s.groupBytes .console = cs [c.rxChars, c.framingErr, c.parityErr, c.breakIn, c.txChars, c.breakOut, c.ctsWait, c.autobaudOvf,
          c.autobaudOk, c.autobaudFail, c.typeShort] ++ b1 s.line.state.code ++ b4 s.line.set.div ++
          b4 (100000000 / s.line.set.div) ++ b4 s.line.fifo.length ++ owner ++
        (cs [h.cnt.markDropped, h.cnt.dataPushes, h.cnt.dataBytes, h.cnt.gaps, h.cnt.gapBytes, h.cnt.notices, h.cnt.noticeLost,
          h.cnt.patternHits] ++ cs (h.patterns.toList.map fun p => p.hits) ++ time h.newest ++ time h.oldest ++ b4 h.marks.length ++
          cs [h.nextMark] ++ b4 h.notices.length ++ (h.watchers.toList.map fun w => match w with
            | none => List.replicate 14 0
            | some w => 1 :: b1 w.op.val ++ flag w.wantsData ++ flag w.wantsNotices ++ time w.next ++ cs [w.lost]).flatten ++
          (h.patterns.toList.map fun p => flag p.armed).flatten)) ∧
    (let b := s.media.blk;
      let x := s.media.xfer;
      s.groupBytes .media = cs [b.requests, b.replyOk, b.replyNotReady, b.replyBusy, b.replyNoUnit, b.replyRange, b.replyProtected,
          b.replyMediaError, b.replyMalformed, b.replyDrop, b.badSource, b.duplicate, b.heldEntered, b.heldExpired, b.writeBusy,
          b.dirtyLost] ++
        cs [x.fillsStarted, x.fillSectors, x.fillDeferred, x.fetchDone, x.fetchFailed, x.flushesStarted, x.flushDone, x.flushFailed,
          x.timeouts, x.retries, x.refusals, x.stale, x.dataDiscard, x.imgMalformed, x.issueWait] ++
        conditions (fun _ => true) ++ dirty ++ uses ++ b4 s.media.issue.length ++ b4 s.mediaOut.frames.length) ∧
    (let p := s.power;
      let c := p.cnt;
      let e := s.script.cnt;
      s.groupBytes .power = cs [c.drives, c.guardHolds, c.rises[0], c.falls[0], c.rises[1], c.falls[1], c.rises[2], c.falls[2],
          c.rises[3], c.falls[3], c.glitches[0], c.glitches[1], c.glitches[2], c.glitches[3], c.stateChanges, c.bootOpens,
          c.bootCloses] ++ cs (p.triggers.toList.map fun t => t.hits) ++ (p.lines.toList.map fun l => flag l.level).flatten ++
          (p.sense.toList.map fun x => b1 (levelCode x.level)).flatten ++ b1 p.state.code ++ open' ++
        (cs [e.started, e.finishedOk, e.finishedFailed, e.finishedFault, e.finishedAborted, e.steps, e.awaitTimeouts, e.queued,
          e.coalesced, e.displaced, e.preemptions, e.cancelled, e.requestLost, e.requestInvalid] ++
          b1 (engineCode s.script.running) ++ optional 1 (s.script.running.map fun c => c.script.val) ++
          b4 s.script.queue.length)) ∧
    (∀ i : Fin 64, s.runtimeBytes .steering i.val = cs [(s.steer[i]).hits]) ∧
    (∀ (p : Port) (k : Fin 4),
      let q := (s.sched.port.get p).queues[k]
      s.runtimeBytes .queue (k.val + match p with | .u => 0 | .s => 4) =
        b4 q.frames.length ++ b4 (queuedCells q.frames) ++ b4 q.deficit) ∧
    s.runtimeBytes .pool 0 = b4 s.pool.free ++ b4 s.frameCells ++ b4 (4 * s.media.lines.length) ++ b4 s.media.lines.length ∧
    (∀ i : Fin 8, s.runtimeBytes .operator i.val = cs [(s.operators[i]).admitted] ∧
      s.runtimeBytes .pattern i.val = flag (s.hist.patterns[i]).armed ++ cs [(s.hist.patterns[i]).hits] ++
        b4 (s.hist.patterns[i]).window.length ∧
      s.runtimeBytes .senseTrigger i.val = cs [(s.power.triggers[i]).hits]) ∧
    s.runtimeBytes .console 0 = b4 (100000000 / s.line.set.div) ++ b1 s.line.state.code ++ b1 s.line.rx.code ++
      b1 s.line.tx.code ++ b4 s.line.fifo.length ++ owner ++
      expiry (s.line.owner.bind fun o => if s.line.set.idleLimit = 0 then none
        else some (o.last + BitVec.ofNat 48 (s.line.set.idleLimit * 1000000))) ∧
    s.runtimeBytes .console 1 = time s.hist.newest ++ time s.hist.oldest ++ b4 s.hist.ring.length ++ b4 s.hist.marks.length ++
      b4 (s.hist.watchers.toList.countP Option.isSome) ++ b4 s.hist.notices.length ∧
    (∀ g : Fin 4, s.runtimeBytes .region g.val = region g) ∧
    s.runtimeBytes .mediaParams 0 = uses ++ b4 s.media.issue.length ++ b4 s.media.waitingInquiries.length ++
      b4 s.mediaOut.frames.length ++ conditions (fun _ => true) ++ dirty ∧
    (∀ k : Fin 6, s.runtimeBytes .line k.val =
      flag (s.power.lines[k]).level ++ flag (s.power.lines[k]).driven ++ flag (s.power.lines[k]).byScript) ∧
    (∀ k : Fin 4, s.runtimeBytes .sense k.val =
      flag s.pins.raw[k] ++ b1 (levelCode (s.power.sense[k]).level) ++ expiry (changeDue k)) ∧
    (∀ (t : TableId) (i : Nat), t ∈ [.domain, .pcpMap, .port, .meter, .scriptDir, .scriptStep] → s.runtimeBytes t i = []) ∧
    (∀ m : Mark, m.bytes = b1 m.kind.code ++ natBytes 4 m.seq.toNat ++ time m.offset ++ time m.time ++
      (match m.epoch with | none => List.replicate 6 0 | some v => 1 :: natBytes 5 v) ++ b2 m.code.toNat) ∧
    ([MarkKind.breakIn, .pattern, .power, .autobaud, .ownerChange, .restart, .operator, .powerState].map MarkKind.code =
      [0, 1, 2, 3, 4, 5, 6, 7] ∧
      [RegionState.detached, .attaching, .attached, .detaching, .faulted].map RegionState.code = [0, 1, 2, 3, 4] ∧
      [ErrorCode.unknownImage, .badInfo, .inquireFailed, .fetchFailed, .flushFailed].map ErrorCode.code = [0, 1, 2, 3, 4] ∧
      [AgentState.idle, .executing, .waiting, .restartPending].map AgentState.code = [0, 1, 2, 3] ∧
      [PowerState.unknown, .on, .off].map PowerState.code = [0, 1, 2] ∧ [LineClass.momentary, .latching].map LineClass.code = [0, 1] ∧
      [EepromState.asLoaded, .stored, .invalid].map EepromState.code = [0, 1, 2] ∧
      [some false, some true, none].map levelCode = [0, 1, 2] ∧
      StoreState.idle.code = 0 ∧ (∀ records, (StoreState.inProgress records).code = 1) ∧
      LineState.running.code = 0 ∧ (∀ n m t b, (LineState.measuring n m t b).code = 1) ∧
      (∀ e : Fin 16, [LineCond.filling e, .clean, .dirty, .flushing e, .redirtied e].map LineCond.code = [0, 1, 2, 3, 4]) ∧
      (∀ c t, [Receiver.ready, .start c t, .character c t, .lowWait c t, .brk].map Receiver.code = [0, 1, 2, 3, 4]) ∧
      (∀ b c n t, [Transmitter.idle, .character b c t, .brk n c t, .gap n t].map Transmitter.code = [0, 1, 2, 3]) ∧
      (∀ i : Fin 8, [Source.operator i, .pattern i, .trigger i].map Source.bytes =
        [[0, BitVec.ofNat 8 i.val], [1, BitVec.ofNat 8 i.val], [2, BitVec.ofNat 8 i.val]]) ∧
      engineCode none = 0 ∧ (∀ (c : Running) (t : Time), engineCode (some { c with wait := .delaying t }) = 1 ∧
        engineCode (some { c with wait := .acting }) = 2 ∧ engineCode (some { c with wait := .awaiting t }) = 3 ∧
        engineCode (some { c with wait := .guardWait t }) = 4) ∧
      (∀ p : Privileges, p.bytes = [BitVec.ofBool p.admin ++ BitVec.ofBool p.power ++ BitVec.ofBool p.media ++
        BitVec.ofBool p.typing ++ BitVec.ofBool p.view |>.zeroExtend 8])) ∧
    (s.txCells = ((s.sched.port.u.tx.map fun x => x.q.frame.cells).getD 0) + ((s.sched.port.s.tx.map fun x => x.q.frame.cells).getD 0)) ∧
    (s.frameCells =
      let queued (e : Egress) : Nat := queuedCells (e.queues[0].frames ++ e.queues[1].frames ++ e.queues[2].frames ++ e.queues[3].frames)
      let sent (e : Egress) : Nat := (e.tx.map fun x => x.q.frame.cells).getD 0
      let u := s.sched.port.u
      let v := s.sched.port.s
      queued u + queued v + (s.agent.inbox.map Frame.cells).sum + (s.media.inbox.map fun m => m.frame.cells).sum +
        (s.agentOut.frames.map fun f => f.frame.cells).sum + (s.mediaOut.frames.map fun f => f.frame.cells).sum + sent u + sent v)

/-! ### Table writes -/

/-- What a refused TABLE_WRITE carries, the table identifier and index as far as the body holds them, is the model's choice
(notes/assumptions/16.md). How a body is read, the code and size of each table and the length of its
entries are said too (R56, 11.3), and that what the owning block makes of an entry, `writeEntry`, is what the record
does. -/
def Obligations.TableWriteJudgedInOrder : Prop :=
  (∀ (r : Rec) (s : State), Ready .tableWriteUnknown r s → Passes r s →
    (r.body ≠ [] → Refuses .tableWriteUnknown s r .noSuch (r.body.take 2)) ∧
    (r.body = [] → Refuses .tableWriteUnknown s r .malformed [])) ∧
  (∀ r : Rec, r.type = 0x0003 → (r.command = .tableWriteUnknown ↔ r.body = [] ∨ TableId.ofCode r.tableCode = none)) ∧
  (∀ (r : Rec) (b : Byte) (rest : List Byte), r.body = b :: rest → r.tableCode = b.toNat ∧
    (rest = [] → r.tableIndex = 0) ∧ ∀ i e, rest = i :: e → r.tableIndex = i.toNat ∧ r.tableEntry = e) ∧
  (∀ (t : TableId) (code entries : Nat), (t, code, entries) ∈ ([(.domain, 1, 17), (.steering, 2, 64), (.pcpMap, 3, 8), (.port, 4, 3),
      (.meter, 5, 17), (.queue, 6, 11), (.pool, 7, 1), (.operator, 8, 8), (.console, 9, 2), (.pattern, 10, 8), (.region, 11, 4),
      (.mediaParams, 12, 1), (.line, 13, 6), (.sense, 14, 4), (.senseTrigger, 15, 8), (.scriptDir, 16, 16),
      (.scriptStep, 17, 256)] : List (TableId × Nat × Nat)) →
    t.code = code ∧ t.entries = entries ∧ ∀ n, TableId.ofCode n = some t ↔ n = code) ∧
  (∀ i : Nat,
    TableId.domain.entryLength i = (if i < 16 then 5 else 1) ∧ TableId.steering.entryLength i = 27 ∧
    TableId.pcpMap.entryLength i = 1 ∧ TableId.port.entryLength i = (if i < 2 then 3 else 6) ∧
    TableId.meter.entryLength i = (if i < 16 then 9 else 2) ∧
    TableId.queue.entryLength i = (if i < 8 then 3 else if i < 10 then 1 else 2) ∧ TableId.pool.entryLength i = 4 ∧
    TableId.operator.entryLength i = 9 ∧ TableId.console.entryLength i = (if i = 0 then 10 else 4) ∧
    TableId.pattern.entryLength i = 25 ∧ TableId.region.entryLength i = 19 ∧ TableId.mediaParams.entryLength i = 3 ∧
    TableId.line.entryLength i = 4 ∧ TableId.sense.entryLength i = 2 ∧ TableId.senseTrigger.entryLength i = 6 ∧
    TableId.scriptDir.entryLength i = 5 ∧ TableId.scriptStep.entryLength i = 6) ∧
  (∀ (t : TableId) (i : Nat) (e : List Byte), t.entryForm i e = true ↔ t.entries ≤ i ∨ e.length = t.entryLength i) ∧
  ∀ (c : Instr) (t : TableId) (r : Rec) (s : State), Ready c r s → Passes r s → r.type = 0x0003 → r.body ≠ [] →
    TableId.ofCode r.tableCode = some t →
    (s.loader.store ≠ .idle → Refuses c s r .busy
      (r.body.take 2 ++ if r.body.length < 2 then [] else (s.entryBytes t r.tableIndex).getD [])) ∧
    (s.loader.store = .idle → r.body.length < 2 → Refuses c s r .malformed (r.body.take 2)) ∧
    (s.loader.store = .idle → 2 ≤ r.body.length → r.tableIndex < t.entries → r.tableEntry.length ≠ t.entryLength r.tableIndex →
      Refuses c s r .malformed (r.body.take 2)) ∧
    (s.loader.store = .idle → 2 ≤ r.body.length → t.entries ≤ r.tableIndex → Refuses c s r .noSuch (r.body.take 2)) ∧
    (s.loader.store = .idle → 2 ≤ r.body.length → t.entryForm r.tableIndex r.tableEntry = true →
      (∀ st, s.popRecord.writeEntry t r.tableIndex r.tableEntry = .error st → st ≠ .malformed →
        RefusesWrite c s r t r.tableIndex st) ∧
      ∀ s1, s.popRecord.writeEntry t r.tableIndex r.tableEntry = .ok s1 →
        (t ≠ .operator → Writes c s r t r.tableIndex s1) ∧ ∃ body, Answers c s r .ok body s1)

/-- The bytes of every entry as 11.3 lays them out, how an entry is read from bytes, and that what was written is read back.
That a presence byte other than 0 and 1 is taken as present is the model's choice (notes/assumptions/39.md). -/
def Obligations.EntryBytesReadBack : Prop :=
  (∀ v : Nat,
    let b := fun n : Nat => BitVec.ofNat 8 (v / 256 ^ n)
    natBytes 1 v = [b 0] ∧ natBytes 2 v = [b 1, b 0] ∧ natBytes 4 v = [b 3, b 2, b 1, b 0] ∧
    natBytes 5 v = [b 4, b 3, b 2, b 1, b 0] ∧ natBytes 6 v = [b 5, b 4, b 3, b 2, b 1, b 0]) ∧
  (∀ (off n : Nat) (bs : List Byte), fieldAt off n bs = ((bs.drop off).take n).foldl (fun v b => 256 * v + b.toNat) 0) ∧
  (∀ (b : Bool) (t : Time) (m : Mac) (c : Counter) (v : Nat), flagByte b = [if b = true then 1 else 0] ∧
    timeBytes t = natBytes 6 t.toNat ∧ macBytes m = natBytes 6 m.toNat ∧ counterBytes c = natBytes 4 c.toNat ∧
    epochBytes none = [0, 0, 0, 0, 0, 0] ∧ epochBytes (some v) = 1 :: natBytes 5 v) ∧
  ([Parity.none, .even, .odd].map Parity.code = [0, 1, 2] ∧ [LineClass.momentary, .latching].map LineClass.code = [0, 1] ∧
    [SchedMode.strict, .weighted].map SchedMode.code = [0, 1] ∧ [MeterMode.policeDrop, .policeDemote].map MeterMode.code = [0, 1]) ∧
  (∀ (d : Domain) (e : Steering) (o : Operator) (p : Pattern) (c : RegionConfig) (t : Trigger) (x : ScriptDir) (y : Step)
      (l : LineSettings) (m : Meter),
    let one := fun v : Nat => BitVec.ofNat 8 v
    let bit := fun v : Bool => if v = true then 1 else 0
    let flag := fun v : Bool => one (bit v)
    let optional := fun v : Option Nat => match v with | none => [one 0, one 0] | some n => [one 1, one n]
    d.bytes = [flag d.valid] ++ natBytes 2 d.vid ++ [one (bit d.members.u + 2 * bit d.members.s + 4 * bit d.members.m),
      one (bit d.tag.u + 2 * bit d.tag.s + 4 * bit d.tag.m)] ∧
    e.bytes = [flag e.valid, one (bit e.ingress.u + 2 * bit e.ingress.s + 4 * bit e.ingress.m),
        one (bit e.hasDst + 2 * bit e.hasSrc + 4 * bit e.hasVid + 8 * bit e.hasType + 16 * bit e.hasPcp)] ++
      natBytes 6 e.dst.toNat ++ natBytes 6 e.src.toNat ++ natBytes 2 e.vid ++ natBytes 2 e.etherType.toNat ++
      [one e.pcp, one e.action] ++ optional e.override ++ optional e.meter ++ optional e.rewrite ∧
    o.bytes = [flag o.valid, flag o.wildcard] ++ natBytes 6 o.addr.toNat ++ [one (bit o.privs.view + 2 * bit o.privs.typing +
      4 * bit o.privs.media + 8 * bit o.privs.power + 16 * bit o.privs.admin)] ∧
    p.entryBytes = [flag p.valid, one p.len] ++ p.bytes ++ [flag p.fold, one p.qualifier,
      one (bit p.mark + 2 * bit p.notify + 4 * bit p.request), one p.script, one p.prio, flag p.preempt, one p.mode] ∧
    c.bytes = [flag c.valid] ++ natBytes 6 c.server.toNat ++ [one c.domain] ++ natBytes 4 c.imageId.toNat ++
      [flag c.writeProtect, flag c.bootOnly, one c.service, one c.prefetch] ++ natBytes 2 c.holdMs ++ [flag c.autoAttach] ∧
    t.bytes = [flag t.valid, one t.line, one t.edge, one t.script, one t.prio, flag t.preempt] ∧
    x.bytes = [flag x.valid] ++ natBytes 2 x.first ++ [one x.prio, flag x.preemptible] ∧
    y.bytes = [one y.op, one y.operand] ++ natBytes 2 y.arg ++ natBytes 2 y.delay ∧
    l.bytes = [if l.eight = true then one 8 else one 7, match l.parity with | .none => one 0 | .even => one 1 | .odd => one 2,
      if l.twoStop = true then one 2 else one 1, flag l.rtsCts] ++ natBytes 4 l.div ++ natBytes 2 l.idleLimit ∧
    m.bytes = natBytes 4 m.rate ++ natBytes 4 m.burst ++ [match m.mode with | .policeDrop => one 0 | .policeDemote => one 1]) ∧
  (∀ s : State,
    (∀ i : Fin 16, s.entryBytes .domain i.val = some (s.dom.entries[i]).bytes ∧
      s.entryBytes .meter i.val = some (s.meters.bank[i]).bytes ∧ s.entryBytes .scriptDir i.val = some (s.script.dir[i]).bytes) ∧
    s.entryBytes .domain 16 = some (natBytes 1 s.dom.mgmt.val) ∧
    s.entryBytes .meter 16 = some (natBytes 1 s.meters.agentMeter.val ++ natBytes 1 s.meters.mediaMeter.val) ∧
    (∀ i : Fin 64, s.entryBytes .steering i.val = some (s.steer[i]).bytes) ∧
    (∀ i : Fin 8, s.entryBytes .pcpMap i.val = some (natBytes 1 (s.pcp[i]).val) ∧
      s.entryBytes .operator i.val = some (s.operators[i]).bytes ∧ s.entryBytes .pattern i.val = some (s.hist.patterns[i]).entryBytes ∧
      s.entryBytes .senseTrigger i.val = some (s.power.triggers[i]).bytes) ∧
    (∀ p : Port,
      let set := s.ports.set.get p
      let e := s.sched.port.get p
      let at' : Nat := match p with | .u => 0 | .s => 1
      s.entryBytes .port at' = some (natBytes 2 set.pvid ++ natBytes 1 set.defaultClass.val) ∧
      (∀ k : Fin 4, s.entryBytes .queue (4 * at' + k.val) =
        some (natBytes 2 (e.queues[k]).cellLimit ++ natBytes 1 (e.queues[k]).weight)) ∧
      s.entryBytes .queue (8 + at') = some ([match e.mode with | .strict => 0 | .weighted => 1] : List Byte)) ∧
    s.entryBytes .port 2 = some (natBytes 6 s.ports.partMac.toNat) ∧
    s.entryBytes .queue 10 = some (natBytes 1 s.sched.mgmtClass.val ++ natBytes 1 s.sched.mediaClass.val) ∧
    s.entryBytes .pool 0 = some (natBytes 2 s.pool.reserve ++ natBytes 2 s.pool.ceiling) ∧
    s.entryBytes .console 0 = some s.line.set.bytes ∧
    s.entryBytes .console 1 = some (natBytes 2 s.hist.threshold ++ natBytes 2 s.hist.delay) ∧
    (∀ i : Fin 4, s.entryBytes .region i.val = some (s.media.regions[i]).cfg.bytes ∧
      s.entryBytes .sense i.val = some (natBytes 2 (s.power.sense[i]).debounce)) ∧
    s.entryBytes .mediaParams 0 = some (natBytes 2 s.media.timeoutMs ++ natBytes 1 s.media.retryCount) ∧
    (∀ k : Fin 6, s.entryBytes .line k.val = some (([match (s.power.lines[k]).cls with | .momentary => 0 | .latching => 1,
      if (s.power.lines[k]).idle = true then 1 else 0] : List Byte) ++ natBytes 2 (if k = 2 then s.power.guardSecs else 0))) ∧
    (∀ i : Fin 256, s.entryBytes .scriptStep i.val = some (s.script.steps[i]).bytes) ∧
    ∀ (t : TableId) (i : Nat), t.entries ≤ i → s.entryBytes t i = none) ∧
  (∀ (v w x a b c d e f g h : Byte) (vid type : Half) (dst src : Mac) (id : BitVec 32) (run : List Byte), run.length = 16 →
    let set := fun x : Byte => x != 0
    let ports := fun (x : Byte) (m : Bool) => (⟨x.getLsbD 0, x.getLsbD 1, m⟩ : PortSet)
    let optional := fun p x : Byte => if p = 0 then none else some x.toNat
    readDomain ([v] ++ natBytes 2 vid.toNat ++ [a, b]) = ⟨set v, vid.toNat, ports a (a.getLsbD 2), ports b false⟩ ∧
    readSteering ([v, a, b] ++ natBytes 6 dst.toNat ++ natBytes 6 src.toNat ++ natBytes 2 vid.toNat ++ natBytes 2 type.toNat ++
        [c, d, e, f, g, h, w, x]) =
      ⟨set v, ports a false, b.getLsbD 0, b.getLsbD 1, b.getLsbD 2, b.getLsbD 3, b.getLsbD 4, dst, src, vid.toNat, type, c.toNat,
        d.toNat, optional e f, optional g h, optional w x, 0⟩ ∧
    readOperator ([v, w] ++ natBytes 6 dst.toNat ++ [a]) =
      ⟨set v, set w, dst, ⟨a.getLsbD 0, a.getLsbD 1, a.getLsbD 2, a.getLsbD 3, a.getLsbD 4⟩, 0⟩ ∧
    readPattern ([v, a] ++ run ++ [w, b, c, d, e, f, g]) = ⟨set v, a.toNat, run, set w, b.toNat, c.getLsbD 0, c.getLsbD 1,
      c.getLsbD 2, d.toNat, e.toNat, set f, g.toNat, set v, 0, []⟩ ∧
    readRegionConfig ([v] ++ natBytes 6 src.toNat ++ [a] ++ natBytes 4 id.toNat ++ [b, c, d, e] ++ natBytes 2 vid.toNat ++ [w]) =
      ⟨set v, src, a.toNat, id, set b, set c, d.toNat, e.toNat, vid.toNat, set w⟩ ∧
    readTrigger [v, a, b, c, d, w] = ⟨set v, a.toNat, b.toNat, c.toNat, d.toNat, set w, 0⟩ ∧
    readScriptDir ([v] ++ natBytes 2 vid.toNat ++ [a, w]) = ⟨set v, vid.toNat, a.toNat, set w⟩ ∧
    readStep ([a, b] ++ natBytes 2 vid.toNat ++ natBytes 2 type.toNat) = ⟨a.toNat, b.toNat, vid.toNat, type.toNat⟩) ∧
  (∀ d : Domain, d.vid < 2 ^ 16 → d.tag.m = false → readDomain d.bytes = d) ∧
  (∀ e : Steering, e.vid < 2 ^ 16 → e.pcp < 256 → e.action < 256 → e.ingress.m = false → (∀ v ∈ e.override, v < 256) →
    (∀ v ∈ e.meter, v < 256) → (∀ v ∈ e.rewrite, v < 256) → readSteering e.bytes = { e with hits := 0 }) ∧
  (∀ o : Operator, readOperator o.bytes = { o with admitted := 0 }) ∧
  (∀ l : LineSettings, 32 ≤ l.div → l.div ≤ 65535 → l.idleLimit = 0 ∨ (10 ≤ l.idleLimit ∧ l.idleLimit ≤ 3600) →
    readLineSettings l.bytes = some l) ∧
  (∀ p : Pattern, p.len < 256 → p.bytes.length = 16 → p.qualifier < 256 → p.script < 256 → p.prio < 256 → p.mode < 256 →
    readPattern p.entryBytes = { p with armed := p.valid, hits := 0, window := [] }) ∧
  (∀ c : RegionConfig, c.domain < 256 → c.service < 256 → c.prefetch < 256 → c.holdMs < 2 ^ 16 →
    readRegionConfig c.bytes = c) ∧
  (∀ t : Trigger, t.line < 256 → t.edge < 256 → t.script < 256 → t.prio < 256 → readTrigger t.bytes = { t with hits := 0 }) ∧
  (∀ d : ScriptDir, d.first < 2 ^ 16 → d.prio < 256 → readScriptDir d.bytes = d) ∧
  (∀ t : Step, t.op < 256 → t.operand < 256 → t.arg < 2 ^ 16 → t.delay < 2 ^ 16 → readStep t.bytes = t)

def Obligations.DomainWritesKeepProtections : Prop :=
  (∀ (r : Rec) (s : State) (i : Fin 16) (e : List Byte), WriteOf .tableWriteDomain .domain i.val e r s →
    let d := readDomain e
    let outOfRange := d.valid = true ∧ (d.vid < 1 ∨ 4094 < d.vid)
    let breaks :=
      (d.valid = true ∧ ∃ j : Fin 16, j ≠ i ∧ (s.dom.entries[j]).valid = true ∧ (s.dom.entries[j]).vid = d.vid) ∨
      (i = s.dom.mgmt ∧ ¬ (d.valid = true ∧ d.members.u = true ∧ d.members.m = true ∧ d.members.s = false)) ∨
      ((∃ g : Fin 4, (s.media.regions[g]).cfg.valid = true ∧ (s.media.regions[g]).cfg.domain = i.val) ∧
        ¬ (d.valid = true ∧ d.members.u = true ∧ d.members.m = true)) ∨
      (d.valid = false ∧ ∃ k : Fin 64, (s.steer[k]).valid = true ∧ (s.steer[k]).rewrite = some i.val)
    (outOfRange → RefusesWrite .tableWriteDomain s r .domain i.val .range) ∧
    (¬ outOfRange → breaks → RefusesWrite .tableWriteDomain s r .domain i.val .conflict) ∧
    (¬ outOfRange → ¬ breaks → Writes .tableWriteDomain s r .domain i.val
      (s.popRecord.onDom fun x => { x with entries := x.entries.set i d }))) ∧
  (∀ (r : Rec) (s : State) (v : Byte), WriteOf .tableWriteMgmtDomain .domain 16 [v] r s →
    (15 < v.toNat → RefusesWrite .tableWriteMgmtDomain s r .domain 16 .noSuch) ∧
    ∀ i : Fin 16, v.toNat = i.val →
      let d := s.dom.entries[i]
      let fit := d.valid = true ∧ d.members.u = true ∧ d.members.m = true ∧ d.members.s = false ∧
        ¬ ∃ k : Fin 64, (s.steer[k]).valid = true ∧ (s.steer[k]).rewrite = some i.val
      (¬ fit → RefusesWrite .tableWriteMgmtDomain s r .domain 16 .conflict) ∧
      (fit → Writes .tableWriteMgmtDomain s r .domain 16 (s.popRecord.onDom fun x => { x with mgmt := i })))

/-- That an action code beyond the list is refused with RANGE, and that this test comes before those of meter and rewrite, are the
model's choices (notes/assumptions/13.md, 39.md). -/
def Obligations.SteeringPcpAndPortWrites : Prop :=
  (∀ (r : Rec) (s : State) (i : Fin 64) (e : List Byte), WriteOf .tableWriteSteering .steering i.val e r s →
    let x := readSteering e
    let outOfRange := (x.hasVid = true ∧ (x.vid < 1 ∨ 4094 < x.vid)) ∨ (x.hasPcp = true ∧ 7 < x.pcp) ∨ 1 < x.action
    let missing := (∃ m, x.meter = some m ∧ 15 < m) ∨
      ∃ w, x.rewrite = some w ∧ ∀ d : Fin 16, d.val = w → (s.dom.entries[d]).valid = false
    let toManagement := x.rewrite = some s.dom.mgmt.val
    (x.valid = false → Writes .tableWriteSteering s r .steering i.val (s.popRecord.setSteering i x)) ∧
    (x.valid = true → outOfRange → RefusesWrite .tableWriteSteering s r .steering i.val .range) ∧
    (x.valid = true → ¬ outOfRange → missing → RefusesWrite .tableWriteSteering s r .steering i.val .noSuch) ∧
    (x.valid = true → ¬ outOfRange → ¬ missing → toManagement →
      RefusesWrite .tableWriteSteering s r .steering i.val .conflict) ∧
    (x.valid = true → ¬ outOfRange → ¬ missing → ¬ toManagement → Writes .tableWriteSteering s r .steering i.val
      (s.popRecord.setSteering i { x with override := x.override.map fun c => if c ≤ 3 then c else 3 }))) ∧
  (∀ (r : Rec) (s : State) (i : Fin 8) (v : Byte), WriteOf .tableWritePcpMap .pcpMap i.val [v] r s →
    (∀ k : Fin 4, v.toNat = k.val → Writes .tableWritePcpMap s r .pcpMap i.val (s.popRecord.setPcp i k)) ∧
    (3 < v.toNat → Writes .tableWritePcpMap s r .pcpMap i.val (s.popRecord.setPcp i 3))) ∧
  (∀ (r : Rec) (s : State) (p : Port) (idx : Nat) (vid : Half) (cls : Byte),
    (p = .u ∧ idx = 0) ∨ (p = .s ∧ idx = 1) → WriteOf .tableWritePort .port idx (natBytes 2 vid.toNat ++ [cls]) r s →
    (vid.toNat < 1 ∨ 4094 < vid.toNat → RefusesWrite .tableWritePort s r .port idx .range) ∧
    (1 ≤ vid.toNat → vid.toNat ≤ 4094 → ∀ k : Fin 4, k.val = min cls.toNat 3 → Writes .tableWritePort s r .port idx
      (s.popRecord.onPorts fun x => { x with set := x.set.set p ⟨vid.toNat, k⟩ }))) ∧
  ∀ (r : Rec) (s : State) (m : Mac), WriteOf .tableWritePort .port 2 (macBytes m) r s →
    (isGroup m = true → RefusesWrite .tableWritePort s r .port 2 .range) ∧
    (isGroup m = false → Writes .tableWritePort s r .port 2 (s.popRecord.onPorts fun x => { x with partMac := m }))

/-- A waiting shaper that uses a rewritten meter, or whose meter changes, tests its head anew (R32). When one write re-tests both
shapers, the agent's comes first (notes/assumptions/39.md); a METER mode above 1 and a QUEUE mode above 1 (entries 8 and 9) are
refused with RANGE (notes/assumptions/13.md): the model's choices. -/
def Obligations.MeterQueueAndPoolWrites : Prop :=
  (∀ (r : Rec) (s : State) (i : Fin 16) (rate burst : BitVec 32) (mode : Byte),
    WriteOf .tableWriteMeter .meter i.val (natBytes 4 rate.toNat ++ natBytes 4 burst.toNat ++ [mode]) r s →
    (1 < mode.toNat → RefusesWrite .tableWriteMeter s r .meter i.val .range) ∧
    ∀ (b : Nat) (m : MeterMode), b = max 1542 (min 1048575 burst.toNat) → m.code = mode.toNat →
      let written := s.popRecord.setMeter i { s.meters.bank[i] with
        rate := min 125000 rate.toNat, burst := b, mode := m, credit := b * 1000, last := s.clock.now }
      (s.meters.agentMeter ≠ i → s.meters.mediaMeter ≠ i → Writes .tableWriteMeter s r .meter i.val written) ∧
      (s.meters.agentMeter = i → s.meters.mediaMeter ≠ i →
        Writes .tableWriteMeter s r .meter i.val (written.retestWaiting .agent)) ∧
      (s.meters.agentMeter ≠ i → s.meters.mediaMeter = i →
        Writes .tableWriteMeter s r .meter i.val (written.retestWaiting .media)) ∧
      (s.meters.agentMeter = i → s.meters.mediaMeter = i →
        Writes .tableWriteMeter s r .meter i.val ((written.retestWaiting .agent).retestWaiting .media))) ∧
  (∀ (r : Rec) (s : State) (a m : Byte), WriteOf .tableWriteMeterSettings .meter 16 [a, m] r s →
    (15 < a.toNat ∨ 15 < m.toNat → RefusesWrite .tableWriteMeterSettings s r .meter 16 .noSuch) ∧
    ∀ i j : Fin 16, a.toNat = i.val → m.toNat = j.val →
      let written := s.popRecord.onMeters fun x => { x with agentMeter := i, mediaMeter := j }
      let agents := if s.meters.agentMeter = i then written else written.retestWaiting .agent
      Writes .tableWriteMeterSettings s r .meter 16 (if s.meters.mediaMeter = j then agents else agents.retestWaiting .media)) ∧
  (∀ (r : Rec) (s : State) (p : Port) (k : Fin 4) (idx : Nat) (limit : Half) (weight : Byte),
    idx = k.val + (match p with | .u => 0 | .s => 4) →
    WriteOf .tableWriteQueue .queue idx (natBytes 2 limit.toNat ++ [weight]) r s →
    Writes .tableWriteQueue s r .queue idx (s.popRecord.onEgress p fun x => { x with
      queues := x.queues.set k { x.queues[k] with
        cellLimit := max 16 (min 4096 limit.toNat), weight := max 1 (min 15 weight.toNat) } })) ∧
  (∀ (r : Rec) (s : State) (p : Port) (idx : Nat) (v : Byte), idx = 8 + (match p with | .u => 0 | .s => 1) →
    WriteOf .tableWriteQueue .queue idx [v] r s →
    (1 < v.toNat → RefusesWrite .tableWriteQueue s r .queue idx .range) ∧
    (∀ m : SchedMode, m.code = v.toNat → (s.sched.port.get p).mode = m → Writes .tableWriteQueue s r .queue idx s.popRecord) ∧
    (∀ m : SchedMode, m.code = v.toNat → (s.sched.port.get p).mode ≠ m → Writes .tableWriteQueue s r .queue idx
      (s.popRecord.onEgress p fun x => { x with
        mode := m, visit := 3, granted := false, queues := x.queues.map fun q => { q with deficit := 0 } }))) ∧
  (∀ (r : Rec) (s : State) (a b : Byte) (i j : Fin 4), WriteOf .tableWriteQueue .queue 10 [a, b] r s →
    i.val = min a.toNat 3 → j.val = min b.toNat 3 →
    Writes .tableWriteQueue s r .queue 10 (s.popRecord.onSched fun x => { x with mgmtClass := i, mediaClass := j })) ∧
  (∀ (r : Rec) (s : State) (reserve ceiling : Half),
    WriteOf .tableWritePool .pool 0 (natBytes 2 reserve.toNat ++ natBytes 2 ceiling.toNat) r s →
    Writes .tableWritePool s r .pool 0 (State.trimExcess (s.popRecord.onPool fun x => { x with
      reserve := min 4096 reserve.toNat, ceiling := min 4096 ceiling.toNat }))) ∧
  (∀ (s : State) (sh : Shaper),
    (∀ t, (s.outQueue sh).shaper = .waiting t → s.retestWaiting sh = s.runShaper sh) ∧
    ((∀ t, (s.outQueue sh).shaper ≠ .waiting t) → s.retestWaiting sh = s)) ∧
  ∀ s : State,
    let evictable := fun l : CacheLine => l.cond = .clean ∧
      ¬ ∃ h ∈ s.media.held, h.op = .read ∧ h.unit = l.region ∧ h.first ≤ l.sector ∧ l.sector < h.first + h.count
    (4 * s.media.lines.length ≤ s.pool.ceiling → s.trimExcess = s) ∧
    ((∀ l ∈ s.media.lines, ¬ evictable l) → s.trimExcess = s) ∧
    (s.pool.ceiling < 4 * s.media.lines.length → ∀ older l newer, s.media.lines = older ++ l :: newer →
      (∀ x ∈ older, ¬ evictable x) → evictable l →
      let evicted := (s.onMedia fun m => { m with
        lines := m.lines.filter fun x => !(x.region == l.region && x.sector == l.sector) }).onPool fun p => { p with
          ceilingEvict := p.ceilingEvict + 1 }
      s.trimExcess = (evicted.returnCells 4).trimExcess)

def Obligations.OperatorWriteRemovesStanding : Prop :=
  (∀ (h : History) (i : Fin 8), (h.watcherOf i).isSome = true ↔ ∃ (w : Fin 4) (x : Watcher), h.watchers[w] = some x ∧ x.op = i) ∧
  (∀ (r : Rec) (s : State) (i : Fin 8) (e : List Byte), WriteOf .tableWriteOperator .operator i.val e r s →
    let o := readOperator e
    let groupAddress := o.valid = true ∧ o.wildcard = false ∧ isGroup o.addr = true
    let adminLeft := (o.valid = true ∧ o.privs.admin = true) ∨
      ∃ j : Fin 8, j ≠ i ∧ (s.operators[j]).valid = true ∧ (s.operators[j]).privs.admin = true
    let owns := s.line.owner.map (·.op) = some i
    (groupAddress → RefusesWrite .tableWriteOperator s r .operator i.val .range) ∧
    (¬ groupAddress → ¬ adminLeft → RefusesWrite .tableWriteOperator s r .operator i.val .lastAdmin) ∧
    (¬ groupAddress → adminLeft →
      let unwatched := (s.popRecord.setOperator i o).removeWatcherOf i
      let drop := fun t : State => t.onScript fun x => { x with queue := x.queue.filter fun q => q.source != .operator i }
      let reply := fun (owned : Byte) => r.body.take 2 ++ o.bytes ++ flagByte (s.hist.watcherOf i).isSome ++ [owned] ++
        natBytes 4 (s.script.queue.countP fun q => q.source == .operator i)
      (¬ owns → Answers .tableWriteOperator s r .ok (reply 0) (drop unwatched)) ∧
      (owns → Answers .tableWriteOperator s r .ok (reply 1) (drop (unwatched.changeOwner none .operatorWrite))))) ∧
  ∀ (s : State) (i : Fin 8),
    ((∀ w x, s.hist.watchers[(w : Fin 4)] = some x → x.op ≠ i) → s.removeWatcherOf i = s) ∧
    ∀ (w : Fin 4) (x : Watcher), s.hist.watchers[w] = some x → x.op = i →
      (∀ v y, v < w → s.hist.watchers[(v : Fin 4)] = some y → y.op ≠ i) →
      s.removeWatcherOf i = State.settleOffer (s.onHist fun h => { h with
        watchers := h.watchers.set w none
        notices := (h.notices.map fun n => { n with owed := n.owed.filter (· != w) }).filter fun n => !n.owed.isEmpty })

/-- That a write tries the transmitter, so that one that switches flow control off begins a waiting item, and that such a write ends
the wait for CTS, are the model's choices (notes/assumptions/26.md, 25.md), and so is a reply that carries DIV without its obtained baud
(39.md). -/
def Obligations.ConsoleTableWrites : Prop :=
  (∀ (r : Rec) (s : State) (bits par stop flow : Byte) (div : BitVec 32) (idle : Half),
    WriteOf .tableWriteConsoleLine .console 0 ([bits, par, stop, flow] ++ natBytes 4 div.toNat ++ natBytes 2 idle.toNat) r s →
    let listed := (bits = 7 ∨ bits = 8) ∧ par.toNat ≤ 2 ∧ (stop = 1 ∨ stop = 2) ∧ flow.toNat ≤ 1
    (¬ listed → RefusesWrite .tableWriteConsoleLine s r .console 0 .range) ∧
    (listed → ∀ (p : Parity) (limit : Nat), p.code = par.toNat →
      (idle = 0 → limit = 0) → (idle ≠ 0 → limit = max 10 (min 3600 idle.toNat)) →
      let set : LineSettings := ⟨bits == 8, p, stop == 2, flow == 1, max 32 (min 65535 div.toNat), limit⟩
      let abandoned := if s.line.state = .running then s.popRecord
        else s.popRecord.onLine fun l => { l with state := .running, rx := .ready }
      let written := abandoned.onLine fun l => { l with set := set, ctsCounted := l.ctsCounted && flow == 1 }
      (s.line.set.idleLimit = limit → Writes .tableWriteConsoleLine s r .console 0 written.txNext) ∧
      (s.line.set.idleLimit ≠ limit → Writes .tableWriteConsoleLine s r .console 0 written.releaseIfIdle.txNext))) ∧
  (∀ (r : Rec) (s : State) (threshold delay : Half),
    WriteOf .tableWriteConsoleHistory .console 1 (natBytes 2 threshold.toNat ++ natBytes 2 delay.toNat) r s →
    Writes .tableWriteConsoleHistory s r .console 1 (State.pump (s.popRecord.onHist fun h =>
      let h1 := { h with threshold := max 1 (min 1024 threshold.toNat), delay := max 1 (min 1000 delay.toNat) }
      { h1 with watchers := h.watchers.map fun w => w.map fun x => { x with
          due := x.due || watcherDue h1 s.clock.now x } }))) ∧
  (∀ s : State,
    (s.line.owner = none → s.releaseIfIdle = s) ∧
    ∀ o, s.line.owner = some o →
      let limit := s.line.set.idleLimit
      let idle := (s.clock.now - o.last).toNat
      (limit = 0 ∨ idle < limit * 1000000 → s.releaseIfIdle = s) ∧
      (limit ≠ 0 → limit * 1000000 ≤ idle → s.releaseIfIdle = s.changeOwner none .idle)) ∧
  ∀ (r : Rec) (s : State) (i : Fin 8) (e : List Byte), WriteOf .tableWritePattern .pattern i.val e r s →
    let p := readPattern e
    let outOfRange := p.len < 1 ∨ 16 < p.len ∨ 2 < p.qualifier ∨ 1 < p.mode
    let put := fun q : Pattern => s.popRecord.onHist fun h => { h with patterns := h.patterns.set i q }
    (p.valid = false → Writes .tableWritePattern s r .pattern i.val (put p)) ∧
    (p.valid = true → outOfRange → RefusesWrite .tableWritePattern s r .pattern i.val .range) ∧
    (p.valid = true → ¬ outOfRange → p.request = true → 15 < p.script →
      RefusesWrite .tableWritePattern s r .pattern i.val .noSuch) ∧
    (p.valid = true → ¬ outOfRange → (p.request = true → p.script ≤ 15) →
      Writes .tableWritePattern s r .pattern i.val (put { p with prio := min 7 p.prio }) ∧
      p.armed = true ∧ p.hits = 0 ∧ p.window = [])

def Obligations.MediaTableWrites : Prop :=
  (∀ (r : Rec) (s : State) (g : Fin 4) (e : List Byte), WriteOf .tableWriteRegion .region g.val e r s →
    let c := readRegionConfig e
    let detached := (s.media.regions[g]).state = .detached
    let outOfRange := isGroup c.server = true ∨ c.prefetch ∉ [1, 2, 4, 8] ∨ 1 < c.service
    let domainMissing := ∀ d : Fin 16, d.val = c.domain → (s.dom.entries[d]).valid = false
    let domainUnfit := ∀ d : Fin 16, d.val = c.domain →
      (s.dom.entries[d]).members.u = false ∨ (s.dom.entries[d]).members.m = false
    let put := fun c : RegionConfig => s.popRecord.onMedia fun m => { m with regions := m.regions.set g { m.regions[g] with
      cfg := c, sectors := 0, writable := false, failures := 0 } }
    (¬ detached → RefusesWrite .tableWriteRegion s r .region g.val .state) ∧
    (detached → c.valid = false → Writes .tableWriteRegion s r .region g.val (put c)) ∧
    (detached → c.valid = true → outOfRange → RefusesWrite .tableWriteRegion s r .region g.val .range) ∧
    (detached → c.valid = true → ¬ outOfRange → domainMissing → RefusesWrite .tableWriteRegion s r .region g.val .noSuch) ∧
    (detached → c.valid = true → ¬ outOfRange → ¬ domainMissing → domainUnfit →
      RefusesWrite .tableWriteRegion s r .region g.val .conflict) ∧
    (detached → c.valid = true → ¬ outOfRange → ¬ domainMissing → ¬ domainUnfit →
      Writes .tableWriteRegion s r .region g.val (put { c with holdMs := max 10 (min 2000 c.holdMs) }))) ∧
  ∀ (r : Rec) (s : State) (timeout : Half) (retries : Byte),
    WriteOf .tableWriteMediaParams .mediaParams 0 (natBytes 2 timeout.toNat ++ [retries]) r s →
    Writes .tableWriteMediaParams s r .mediaParams 0 (s.popRecord.onMedia fun m => { m with
      timeoutMs := max 20 (min 2000 timeout.toNat), retryCount := min 3 retries.toNat })

/-- That an invalid trigger is neither tested nor clamped is R144's; that the tests of SCRIPT_DIR and SCRIPT_STEP apply to every
entry, valid or not, is the model's choice (notes/assumptions/12.md). -/
def Obligations.PowerAndScriptTableWrites : Prop :=
  ((∀ (r : Rec) (s : State) (k : Fin 6) (cls idle : Byte) (guard : Half),
    WriteOf .tableWriteLine .line k.val ([cls, idle] ++ natBytes 2 guard.toNat) r s →
    (1 < cls.toNat ∨ 1 < idle.toNat → RefusesWrite .tableWriteLine s r .line k.val .range) ∧
    ∀ c : LineClass, c.code = cls.toNat → idle.toNat ≤ 1 →
      (k.val < 4 → c ≠ (Factory.outLines[k]).cls → RefusesWrite .tableWriteLine s r .line k.val .range) ∧
      (4 ≤ k.val ∨ c = (Factory.outLines[k]).cls → Writes .tableWriteLine s r .line k.val (s.popRecord.onPower fun p => { p with
        lines := p.lines.set k { p.lines[k] with cls := c, idle := idle == 1 }
        guardSecs := if k = 2 then min 600 guard.toNat else p.guardSecs }))) ∧
  (∀ (r : Rec) (s : State) (k : Fin 4) (ms : Half), WriteOf .tableWriteSense .sense k.val (natBytes 2 ms.toNat) r s →
    Writes .tableWriteSense s r .sense k.val (s.popRecord.onPower fun p => { p with
      sense := p.sense.set k { p.sense[k] with debounce := min 255 ms.toNat } })) ∧
  ∀ (r : Rec) (s : State) (n : Fin 8) (e : List Byte), WriteOf .tableWriteSenseTrigger .senseTrigger n.val e r s →
    let t := readTrigger e
    let put := fun t : Trigger => s.popRecord.onPower fun p => { p with triggers := p.triggers.set n t }
    (t.valid = false → Writes .tableWriteSenseTrigger s r .senseTrigger n.val (put t)) ∧
    (t.valid = true → 3 < t.line ∨ 2 < t.edge → RefusesWrite .tableWriteSenseTrigger s r .senseTrigger n.val .range) ∧
    (t.valid = true → t.line ≤ 3 → t.edge ≤ 2 → 15 < t.script →
      RefusesWrite .tableWriteSenseTrigger s r .senseTrigger n.val .noSuch) ∧
    (t.valid = true → t.line ≤ 3 → t.edge ≤ 2 → t.script ≤ 15 →
      Writes .tableWriteSenseTrigger s r .senseTrigger n.val (put { t with prio := min 7 t.prio }) ∧ t.hits = 0)) ∧
  (∀ (r : Rec) (s : State) (i : Fin 16) (e : List Byte), WriteOf .tableWriteScriptDir .scriptDir i.val e r s →
    let d := readScriptDir e
    (255 < d.first → RefusesWrite .tableWriteScriptDir s r .scriptDir i.val .range) ∧
    (d.first ≤ 255 → Writes .tableWriteScriptDir s r .scriptDir i.val (s.popRecord.onScript fun x => { x with
      dir := x.dir.set i { d with prio := min 7 d.prio } }))) ∧
  ∀ (r : Rec) (s : State) (i : Fin 256) (e : List Byte), WriteOf .tableWriteScriptStep .scriptStep i.val e r s →
    let t := readStep e
    let outOfRange := (t.op = 2 ∧ (5 < t.operand ∨ 1 < t.arg)) ∨ (t.op = 3 ∧ (3 < t.operand ∨ 1 < t.arg)) ∨
      (t.op = 10 ∧ 15 < t.operand)
    let put := fun t : Step => s.popRecord.onScript fun x => { x with steps := x.steps.set i t }
    (outOfRange → RefusesWrite .tableWriteScriptStep s r .scriptStep i.val .range) ∧
    (¬ outOfRange → t.op = 4 → Writes .tableWriteScriptStep s r .scriptStep i.val
      (put { t with arg := max 1 (min 3600 t.arg) })) ∧
    (¬ outOfRange → t.op ≠ 4 → Writes .tableWriteScriptStep s r .scriptStep i.val (put t))

/-! ### The console line -/

/-- The receiver is kept in READY while the line is MEASURING, an event that the time since its beginning rules out changes
nothing, a count above 65,535 is an overflow, times are judged by whole microseconds, and a reply sends DIV and the obtained baud
in 4 bytes each: the model's choices (notes/assumptions/1.md, 28.md, 37.md, 40.md, 14.md). -/
def Obligations.BaudSetByRecordOrMeasured : Prop :=
  (standardRates = [(2400, 41667), (4800, 20833), (9600, 10417), (19200, 5208), (38400, 2604), (57600, 1736), (115200, 868),
    (230400, 434), (460800, 217), (921600, 109)] ∧ ∀ a b : Nat, distance a b = if a ≤ b then b - a else a - b) ∧
  (∀ (r : Rec) (s : State) (baud : BitVec 32), Ready .consoleBaud r s → Passes r s → r.body = natBytes 4 baud.toNat →
    (baud = 0 → Refuses .consoleBaud s r .range []) ∧
    (baud ≠ 0 →
      let d := max 32 (min 65535 ((100000000 + baud.toNat / 2) / baud.toNat))
      let taken := s.popRecord.onLine fun l => { l with set := { l.set with div := d } }
      let reply := natBytes 4 d ++ natBytes 4 (100000000 / d)
      (s.line.state = .running → Answers .consoleBaud s r .ok reply taken) ∧
      (s.line.state ≠ .running → Answers .consoleBaud s r .ok reply
        (taken.onLine fun l => { l with state := .running, rx := .ready })))) ∧
  (∀ (r : Rec) (s : State), Ready .consoleBaudAuto r s → Passes r s →
    Answers .consoleBaudAuto s r .ok (natBytes 4 s.line.set.div ++ natBytes 4 (100000000 / s.line.set.div))
      (s.popRecord.onLine fun l => { l with state := .measuring 0 none s.clock.now none, rx := .ready })) ∧
  ∀ (s : State) (n : Nat) (m : Option Nat) (t : Time),
    (∀ low, s.line.state = .measuring n m t low →
      ((s.clock.now - t).toNat < 10000000 → exec .autobaudTimeout s = .next s) ∧
      (10000000 ≤ (s.clock.now - t).toNat → Notifies .autobaudTimeout s
        (s.onLine fun l => { l with
          state := .running, rx := .ready, cnt := { l.cnt with autobaudFail := l.cnt.autobaudFail + 1 } })
        (.autobaudFailed n))) ∧
    (s.line.state = .measuring n m t none → exec .autobaudOverflow s = .next s ∧
      ∀ cycles, exec (.autobaudInterval cycles) s = .next s) ∧
    (∀ b, s.line.state = .measuring n m t (some b) →
      let us := (s.clock.now - b).toNat
      let overflowed := s.onLine fun l => { l with
        state := .measuring n m t none, cnt := { l.cnt with autobaudOvf := l.cnt.autobaudOvf + 1 } }
      (65536 < (us + 1) * 100 → exec .autobaudOverflow s = .next overflowed) ∧
      ((us + 1) * 100 ≤ 65536 → exec .autobaudOverflow s = .next s) ∧
      ∀ cycles : Nat,
        let least := match m with | none => cycles | some x => min x cycles
        let fits := cycles < (us + 1) * 100 ∧ us * 100 < cycles + 101
        (¬ fits → exec (.autobaudInterval cycles) s = .next s) ∧
        (fits → 65535 < cycles → exec (.autobaudInterval cycles) s = .next (overflowed.onPins fun x => { x with rxd := true })) ∧
        (fits → cycles ≤ 65535 → n < 15 → exec (.autobaudInterval cycles) s = .next ((s.onPins fun x => { x with
          rxd := true }).onLine fun l => { l with state := .measuring (n + 1) (some least) t none })) ∧
        (fits → cycles ≤ 65535 → 15 ≤ n → ∀ (d : Nat) (std : Option Nat),
          (∀ x ∈ standardRates, distance least x.2 * 100 ≤ 3 * x.2 →
            (∀ y ∈ standardRates, y = x ∨ distance least x.2 < distance least y.2) → d = x.2 ∧ std = some x.1) →
          ((∀ x ∈ standardRates, 3 * x.2 < distance least x.2 * 100) → d = max 32 (min 65535 least) ∧ std = none) →
          Notifies (.autobaudInterval cycles) s
            (((s.onPins fun x => { x with rxd := true }).onLine fun l => { l with
              state := .running, rx := .ready, set := { l.set with div := d }
              cnt := { l.cnt with autobaudOk := l.cnt.autobaudOk + 1 } }).addMark .autobaud (BitVec.ofNat 16 d))
            (.autobaudDone d (100000000 / d) least std)))

/-- Claims, releases and the marks and notices of each change of owner. The owner in a reply is an optional value, and the items
removed follow it on a flush alone, in 4 bytes; an expiry off its occasion changes nothing: the model's choices
(notes/assumptions/1.md, 14.md, 39.md). -/
def Obligations.ConsoleOwnership : Prop :=
  (∀ (s : State) (new : Option (Fin 8)) (cause : OwnerCause),
    let owned := (s.onLine fun l => { l with owner := new.map fun i => ⟨i, s.clock.now⟩ }).addMark .ownerChange
      (match new with | none => 255 | some i => BitVec.ofNat 16 i.val)
    s.changeOwner new cause = owned.raiseNotice (.consoleOwner (s.line.owner.map (·.op)) new cause) ∧
      SameButPushes owned (s.changeOwner new cause)) ∧
  (∀ (r : Rec) (s : State), Passes r s →
    let me := s.agent.op
    let mine : List Byte := [1, BitVec.ofNat 8 me.val]
    let other := fun o : Fin 8 => ([1, BitVec.ofNat 8 o.val] : List Byte)
    let renewed := s.popRecord.onLine fun l => { l with owner := some ⟨me, s.clock.now⟩ }
    let forced := (s.popRecord.onLine fun l => { l with fifo := [] }).changeOwner (some me) .forced
    (Ready .consoleClaim r s →
      (s.line.owner = none → Answers .consoleClaim s r .ok mine (s.popRecord.changeOwner (some me) .claim)) ∧
      (∀ t, s.line.owner = some ⟨me, t⟩ → Answers .consoleClaim s r .ok mine renewed) ∧
      (∀ o t, s.line.owner = some ⟨o, t⟩ → o ≠ me → Refuses .consoleClaim s r .conflict (other o))) ∧
    (Ready .consoleClaimForce r s →
      (∀ t, s.line.owner = some ⟨me, t⟩ → Answers .consoleClaimForce s r .ok mine renewed) ∧
      ((∀ t, s.line.owner ≠ some ⟨me, t⟩) →
        Answers .consoleClaimForce s r .ok (mine ++ natBytes 4 s.line.fifo.length) forced)) ∧
    (Ready .consoleRelease r s →
      (s.line.owner = none → Refuses .consoleRelease s r .state []) ∧
      (∀ t, s.line.owner = some ⟨me, t⟩ → Answers .consoleRelease s r .ok [] (s.popRecord.changeOwner none .released)) ∧
      (∀ o t, s.line.owner = some ⟨o, t⟩ → o ≠ me → Refuses .consoleRelease s r .conflict (other o)))) ∧
  ∀ s : State,
    (s.line.owner = none → exec .consoleIdleExpiry s = .next s) ∧
    ∀ o, s.line.owner = some o →
      (s.line.set.idleLimit = 0 ∨ (s.clock.now - o.last).toNat < s.line.set.idleLimit * 1000000 →
        exec .consoleIdleExpiry s = .next s) ∧
      (s.line.set.idleLimit ≠ 0 → s.line.set.idleLimit * 1000000 ≤ (s.clock.now - o.last).toNat →
        exec .consoleIdleExpiry s = .next (s.changeOwner none .idle))

/-- The owner in a reply is an optional value, a number of bytes or places accepted goes in 4 bytes, and a wait for CTS is counted
once by a flag: the model's choices (notes/assumptions/39.md, 14.md, 25.md). -/
def Obligations.OwnerTypesIntoFifo : Prop :=
  (∀ (r : Rec) (s : State), Passes r s →
    let owner : List Byte := match s.line.owner with | none => [0, 0] | some o => [1, BitVec.ofNat 8 o.op.val]
    let n := min r.body.length (256 - s.line.fifo.length)
    (s.line.owner.map (·.op) = some s.agent.op →
      let renewed := s.popRecord.onLine fun l => { l with owner := some ⟨s.agent.op, s.clock.now⟩ }
      (Ready .consoleType r s → Answers .consoleType s r .ok (natBytes 4 n) (State.txNext (renewed.onLine fun l => { l with
        fifo := l.fifo ++ (r.body.take n).map .byte
        cnt := { l.cnt with typeShort := l.cnt.typeShort + BitVec.ofNat 32 (r.body.length - n) } }))) ∧
      (Ready .consoleBreak r s → ∀ d : Half, r.body = natBytes 2 d.toNat →
        let ms := max 100 (min 2000 d.toNat)
        (s.line.fifo.length < 256 → Answers .consoleBreak s r .ok (natBytes 4 1 ++ natBytes 2 ms)
          (State.txNext (renewed.onLine fun l => { l with fifo := l.fifo ++ [.brk ms] }))) ∧
        (256 ≤ s.line.fifo.length → Answers .consoleBreak s r .ok (natBytes 4 0 ++ natBytes 2 ms) renewed.txNext))) ∧
    (s.line.owner.map (·.op) ≠ some s.agent.op →
      (Ready .consoleType r s → Refuses .consoleType s r .conflict owner) ∧
      (Ready .consoleBreak r s → Refuses .consoleBreak s r .conflict owner))) ∧
  ∀ s : State,
    (s.line.tx ≠ .idle ∨ s.line.fifo = [] → s.txNext = s) ∧
    ∀ x rest, s.line.tx = .idle → s.line.fifo = x :: rest →
      (s.line.set.rtsCts = false ∨ s.pins.cts = true →
        (∀ b, x = .byte b → s.txNext = s.onLine fun l => { l with
          tx := .character b ⟨l.set.eight, l.set.parity, l.set.twoStop, l.set.div⟩ s.clock.now, fifo := rest
          ctsCounted := false }) ∧
        (∀ ms, x = .brk ms → s.txNext = s.onLine fun l => { l with
          tx := .brk ms ⟨l.set.eight, l.set.parity, l.set.twoStop, l.set.div⟩ s.clock.now, fifo := rest
          ctsCounted := false })) ∧
      (s.line.set.rtsCts = true → s.pins.cts = false →
        (s.line.ctsCounted = true → s.txNext = s) ∧
        (s.line.ctsCounted = false → s.txNext = s.onLine fun l => { l with
          ctsCounted := true, cnt := { l.cnt with ctsWait := l.cnt.ctsWait + 1 } }))

/-- A character time that may have passed counts as passed, and a completion off its occasion changes nothing: the model's choices
(notes/assumptions/1.md, 28.md). -/
def Obligations.TransmitterSendsItems : Prop :=
  (∀ (s : State) (b : Byte) (c : CharSettings) (t : Time), s.line.tx = .character b c t →
    let bits := 1 + (if c.eight = true then 8 else 7) + (if c.parity = .none then 0 else 1) + (if c.twoStop = true then 2 else 1)
    (bits * c.div < ((s.clock.now - t).toNat + 1) * 100 → exec .txCharacterDone s = .next (State.txNext (s.onLine fun l => { l with
      tx := .idle, cnt := { l.cnt with txChars := l.cnt.txChars + 1 } }))) ∧
    (((s.clock.now - t).toNat + 1) * 100 ≤ bits * c.div → exec .txCharacterDone s = .next s)) ∧
  (∀ (s : State) (ms : Nat) (l : CharSettings) (t : Time), s.line.tx = .brk ms l t →
    let left := (s.clock.now - (t + BitVec.ofNat 48 (ms * 1000))).toNat
    let bits := 1 + (if l.eight = true then 8 else 7) + (if l.parity = .none then 0 else 1) + (if l.twoStop = true then 2 else 1)
    (left < 2 ^ 47 → exec .breakOutEnd s = .next (s.onLine fun x => { x with tx := .gap (bits * l.div) s.clock.now })) ∧
    (2 ^ 47 ≤ left → exec .breakOutEnd s = .next s)) ∧
  (∀ (s : State) (n : Nat) (t : Time), s.line.tx = .gap n t →
    (n < ((s.clock.now - t).toNat + 1) * 100 → exec .breakGapEnd s = .next (State.txNext (s.onLine fun l => { l with
      tx := .idle, cnt := { l.cnt with breakOut := l.cnt.breakOut + 1 } }))) ∧
    (((s.clock.now - t).toNat + 1) * 100 ≤ n → exec .breakGapEnd s = .next s)) ∧
  (∀ (cycles ms : Nat) (b : Byte) (c : CharSettings) (t : Time),
    Transmitter.level cycles .idle = true ∧ Transmitter.level cycles (.brk ms c t) = false ∧
    Transmitter.level cycles (.gap ms t) = true ∧
    ∀ k level, (wireBits c b)[k]? = some level → k * c.div ≤ cycles → cycles < (k + 1) * c.div →
      Transmitter.level cycles (.character b c t) = level) ∧
  ∀ s : State,
    exec .ctsAssert s = .next (State.txNext ((s.onPins fun x => { x with cts := true }).onLine fun l => { l with
      ctsCounted := false })) ∧
    exec .ctsDeassert s = .next (s.onPins fun x => { x with cts := false })

def Obligations.CharacterOnTheWire : Prop :=
  ∀ (c : CharSettings) (b : Byte),
    let data := (List.range (if c.eight = true then 8 else 7)).map fun i => b.getLsbD i
    let ones := (data.filter id).length
    (c.parity = .none → wireBits c b = [false] ++ data ++ List.replicate (if c.twoStop = true then 2 else 1) true) ∧
    (c.parity = .even → wireBits c b =
      [false] ++ data ++ [ones % 2 == 1] ++ List.replicate (if c.twoStop = true then 2 else 1) true) ∧
    (c.parity = .odd → wireBits c b =
      [false] ++ data ++ [ones % 2 == 0] ++ List.replicate (if c.twoStop = true then 2 else 1) true) ∧
    (b.toNat < 128 ∨ c.eight = true → judgeCharacter c ((wireBits c b).drop 1) = (b, false, false)) ∧
    c.frameBits = (wireBits c b).length ∧ c.cycles = (wireBits c b).length * c.div

/-- The times of samples, of a rise in LOW_WAIT and of a break are judged by whole microseconds, an event off its occasion changes
nothing, and an edge at a part without supply moves the pin only: the model's choices (notes/assumptions/28.md, 1.md, 6.md). The
first clause is R65's judgement of the samples that follow the start bit. -/
def Obligations.ReceiverTakesCharacters : Prop :=
  (∀ (c : CharSettings) (samples : List Bool), samples.length = c.frameBits - 1 →
    let judged := judgeCharacter c samples
    let n := if c.eight = true then 8 else 7
    let ones := ((samples.take n).filter id).length
    (∀ i, i < 8 → judged.1.getLsbD i = (decide (i < n) && samples.getD i false)) ∧
    (judged.2.1 = true ↔ false ∈ samples.drop (if c.parity = .none then n else n + 1)) ∧
    (judged.2.2 = true ↔ (c.parity = .even ∧ samples[n]? = some (ones % 2 == 0)) ∨
      (c.parity = .odd ∧ samples[n]? = some (ones % 2 == 1)))) ∧
  (∀ s : State,
    let low := s.onPins fun x => { x with rxd := false }
    (s.phase = .off ∨ s.phase = .loading → exec .rxdFallingEdge s = .next low) ∧
    (s.phase = .running ∨ s.phase = .reloading →
      (∀ n m t, s.line.state = .measuring n m t none →
        exec .rxdFallingEdge s = .next (low.onLine fun l => { l with state := .measuring n m t (some s.clock.now) })) ∧
      (∀ n m t b, s.line.state = .measuring n m t (some b) → exec .rxdFallingEdge s = .next low) ∧
      (s.line.state = .running → s.line.rx = .ready → exec .rxdFallingEdge s = .next (low.onLine fun l => { l with
        rx := .start ⟨l.set.eight, l.set.parity, l.set.twoStop, l.set.div⟩ s.clock.now })) ∧
      (s.line.state = .running → s.line.rx ≠ .ready → exec .rxdFallingEdge s = .next low))) ∧
  (∀ (s : State) (c : CharSettings) (t : Time), s.line.rx = .start c t →
    (c.div / 2 < ((s.clock.now - t).toNat + 1) * 100 → exec .falseStart s =
      .next ((s.onPins fun x => { x with rxd := true }).onLine fun l => { l with rx := .ready })) ∧
    (((s.clock.now - t).toNat + 1) * 100 ≤ c.div / 2 → exec .falseStart s = .next s)) ∧
  (∀ (s : State) (c : CharSettings) (t : Time) (samples : List Bool) (rose : Bool),
    s.line.rx = .start c t ∨ s.line.rx = .character c t →
    samples.length = c.frameBits - 1 →
    (c.frameBits - 1) * c.div + c.div / 2 < ((s.clock.now - t).toNat + 1) * 100 →
    (rose = false → (∀ b ∈ samples, b = false) → exec (.rxCharacter samples rose) s =
      .next (s.onLine fun l => { l with rx := .lowWait c t })) ∧
    (rose = true ∨ true ∈ samples → ∀ value framing parity, judgeCharacter c samples = (value, framing, parity) →
      exec (.rxCharacter samples rose) s = .next (State.appendByte value
        ((s.onPins fun x => { x with rxd := samples.getLast?.getD false }).onLine fun l => { l with
          rx := .ready
          cnt := { l.cnt with
            rxChars := l.cnt.rxChars + 1
            framingErr := if framing = true then l.cnt.framingErr + 1 else l.cnt.framingErr
            parityErr := if parity = true then l.cnt.parityErr + 1 else l.cnt.parityErr } })))) ∧
  (∀ (s : State) (c : CharSettings) (t : Time), s.line.rx = .lowWait c t →
    ((s.clock.now - t).toNat * 100 < c.cycles + 100 → ∀ samples, exec (.rxCharacter samples true) s =
      .next (State.appendByte 0 ((s.onPins fun x => { x with rxd := true }).onLine fun l => { l with
        rx := .ready
        cnt := { l.cnt with
          rxChars := l.cnt.rxChars + 1, framingErr := l.cnt.framingErr + 1
          parityErr := if c.parity = .odd then l.cnt.parityErr + 1 else l.cnt.parityErr } }))) ∧
    (c.cycles < ((s.clock.now - t).toNat + 1) * 100 → exec .breakDetected s = .next (State.addMark .breakIn 0
      (s.onLine fun l => { l with rx := .brk, cnt := { l.cnt with breakIn := l.cnt.breakIn + 1 } }))) ∧
    (((s.clock.now - t).toNat + 1) * 100 ≤ c.cycles → exec .breakDetected s = .next s)) ∧
  ∀ s : State, s.line.rx = .brk → exec .breakInEnd s =
    .next ((s.onPins fun x => { x with rxd := true }).onLine fun l => { l with rx := .ready })

/-! ### The console history -/

/-- A CONSOLE_WATCH with an unlisted start is refused with RANGE, before BUSY and also without wants-data, its reply says created by 0
and updated by 1 (`how`), and one that updates a watcher leaves its dueness to the next push: the model's choices
(notes/assumptions/13.md, 39.md, 22.md). -/
def Obligations.MarkArmAndWatchRecords : Prop :=
  (∀ s : State,
    (s.hist.nextPush = none → s.settleOffer = s.onHist fun h => { h with offerWaiting := false }) ∧
    (s.hist.nextPush ≠ none → s.settleOffer = s)) ∧
  ∀ (r : Rec) (s : State), Passes r s →
    let h := s.hist
    let mine := fun w : Fin 4 => ∃ y, h.watchers[w] = some y ∧ y.op = s.agent.op
    (Ready .consoleMark r s → ∀ note : Half, r.body = natBytes 2 note.toNat → Answers .consoleMark s r .ok
      (counterBytes h.nextMark ++ timeBytes h.newest ++ timeBytes s.clock.now ++ epochBytes s.clock.epoch)
      (s.popRecord.addMark .operator note)) ∧
    (Ready .consoleArm r s → ∀ b : Byte, r.body = [b] →
      ((∀ i : Fin 8, b.toNat = i.val → (h.patterns[i]).valid = false) → Refuses .consoleArm s r .noSuch []) ∧
      (∀ i : Fin 8, b.toNat = i.val → (h.patterns[i]).valid = true →
        Answers .consoleArm s r .ok ([b, 1] ++ counterBytes (h.patterns[i]).hits) (s.popRecord.onHist fun h => { h with
          patterns := h.patterns.set i { h.patterns[i] with armed := true, window := [] } }))) ∧
    (Ready .consoleWatch r s → ∀ (data notices start : Byte) (x : Offset), r.body = [data, notices, start] ++ timeBytes x →
      ((data = 0 ∧ notices = 0) ∨ 2 < start.toNat → Refuses .consoleWatch s r .range []) ∧
      (¬ (data = 0 ∧ notices = 0) → start.toNat ≤ 2 →
        let unsent := (h.newest - x).toNat
        ((∀ w, ¬ mine w) → (∀ w : Fin 4, h.watchers[w] ≠ none) → Refuses .consoleWatch s r .busy []) ∧
        ∀ (w : Fin 4) (how : Byte) (next : Offset),
          (how = 1 ∧ mine w ∧ ∀ v, v < w → ¬ mine v) ∨
            (how = 0 ∧ (∀ v, ¬ mine v) ∧ h.watchers[w] = none ∧ ∀ v : Fin 4, v < w → h.watchers[v] ≠ none) →
          (data = 0 → next = h.newest) → (data ≠ 0 → start = 0 → next = h.newest) →
          (data ≠ 0 → start = 1 → next = h.oldest) → (data ≠ 0 → start = 2 → 2 ^ 47 ≤ unsent → next = h.newest) →
          (data ≠ 0 → start = 2 → unsent < 2 ^ 47 → next = x) →
          let o := s.operators[s.agent.op]
          let made : Watcher := ⟨s.agent.op, if o.wildcard = true then s.agent.src else o.addr, data != 0, notices != 0, next,
            if next = h.newest then none else some s.clock.now, 0, data != 0 && (h.watchers[w]).any Watcher.due⟩
          let entered := s.popRecord.onHist fun h => { h with
            watchers := h.watchers.set w (some made)
            notices := if notices = 0 then
                (h.notices.map fun n => { n with owed := n.owed.filter (· != w) }).filter fun n => !n.owed.isEmpty
              else h.notices }
          Answers .consoleWatch s r .ok ([BitVec.ofNat 8 w.val, how] ++ flagByte (data != 0) ++ flagByte (notices != 0) ++
            timeBytes next ++ timeBytes h.newest ++ timeBytes h.oldest) entered.settleOffer)) ∧
    (Ready .consoleUnwatch r s →
      ((∀ w, ¬ mine w) → Refuses .consoleUnwatch s r .state []) ∧
      (∀ w, mine w → (∀ v, v < w → ¬ mine v) → Answers .consoleUnwatch s r .ok [] (State.settleOffer (s.popRecord.onHist fun h =>
        { h with
          watchers := h.watchers.set w none
          notices := (h.notices.map fun n => { n with owed := n.owed.filter (· != w) }).filter fun n => !n.owed.isEmpty }))))

/-- A watcher's dueness is judged at the events R86 names, one farther back than the ring reaches is below OLDEST however far, and an
expiry off its occasion changes nothing; a push has status and record flags 0, and a CONSOLE_GAP the time at which its frame is
built; bauds, intervals, the bytes lost of a CONSOLE_GAP (the low 4 bytes of their number) and optional groups of a notice have the
widths of notes/assumptions/14.md and 15.md: the model's choices (notes/assumptions/1.md, 22.md, 39.md). -/
def Obligations.MarksNoticesAndPushes : Prop :=
  (∀ h : History, h.oldest = h.newest - BitVec.ofNat 48 h.ring.length) ∧
  (∀ (s : State) (kind : MarkKind) (code : Half),
    let m : Mark := ⟨kind, s.hist.nextMark, s.hist.newest, s.clock.now, s.clock.epoch, code⟩
    (s.hist.marks.length < 32 → s.addMark kind code = s.onHist fun h => { h with
      marks := h.marks ++ [m], nextMark := h.nextMark + 1 }) ∧
    (32 ≤ s.hist.marks.length → s.addMark kind code = s.onHist fun h => { h with
      marks := h.marks.drop 1 ++ [m], nextMark := h.nextMark + 1
      cnt := { h.cnt with markDropped := h.cnt.markDropped + 1 } })) ∧
  (∀ (h : History) (now : Time) (x : Watcher), watcherDue h now x = true ↔ x.wantsData = true ∧
    (h.threshold ≤ (h.newest - x.next).toNat ∨ ∃ t, x.pendingSince = some t ∧ h.delay * 1000 ≤ (now - t).toNat)) ∧
  (∀ (s : State) (n : Notice), s.raiseNotice n = State.pump (s.onHist fun h => h.raise n s.clock.now s.clock.epoch)) ∧
  (∀ (h : History) (n : Notice) (now : Time) (epoch : Option Nat) (owed : List (Fin 4)),
    owed = (List.finRange 4).filter (fun w => (h.watchers[w]).any Watcher.wantsNotices) →
    let t := h.raise n now epoch
    (owed = [] → t = h) ∧
    (owed ≠ [] → h.notices.length < 16 → t = { h with
      notices := h.notices ++ [⟨n, now, epoch, owed⟩], cnt := { h.cnt with notices := h.cnt.notices + 1 } }) ∧
    (owed ≠ [] → 16 ≤ h.notices.length → ∀ e rest, h.notices = e :: rest → e.owed.Nodup →
      t.notices = rest ++ [⟨n, now, epoch, owed⟩] ∧
      t.cnt = { h.cnt with notices := h.cnt.notices + 1, noticeLost := h.cnt.noticeLost + 1 } ∧
      ∀ w : Fin 4, t.watchers[w] = (h.watchers[w]).map fun x => { x with
        lost := if w ∈ e.owed then x.lost + 1 else x.lost })) ∧
  (∀ (s : State) (w : Fin 4),
    (s.hist.watchers[w] = none → exec (.pushDelayExpiry w) s = .next s) ∧
    ∀ x, s.hist.watchers[w] = some x →
      let passed := ∃ t, x.pendingSince = some t ∧ s.hist.delay * 1000 ≤ (s.clock.now - t).toNat
      (x.wantsData = false ∨ x.due = true ∨ ¬ passed → exec (.pushDelayExpiry w) s = .next s) ∧
      (x.wantsData = true → x.due = false → passed → exec (.pushDelayExpiry w) s = .next (State.pump (s.onHist fun h => { h with
        watchers := h.watchers.set w (some { x with due := true }) })))) ∧
  (∀ h : History,
    let due := fun (w : Fin 4) (x : Watcher) => h.watchers[w] = some x ∧ x.wantsData = true ∧ x.due = true
    (∀ e rest w owed x, h.notices = e :: rest → e.owed = w :: owed → h.watchers[w] = some x →
      h.nextPush = some (.notice e w x)) ∧
    (h.notices = [] → (∀ w x, ¬ due w x) → h.nextPush = none) ∧
    ∀ (first i : Fin 4) (x : Watcher), h.notices = [] → (h.lastServed = none → first = 0) →
      (∀ v, h.lastServed = some v → first = v + 1) → due (first + i) x → (∀ j, j < i → ∀ y, ¬ due (first + j) y) →
      let behind := (h.newest - x.next).toNat
      (h.ring.length < behind → h.nextPush = some (.gap (first + i) x)) ∧
      (behind ≤ h.ring.length → h.nextPush = some (.data (first + i) x))) ∧
  (∀ (s : State) (n : Nat),
    (s.hist.offerWaiting = true ∨ s.hist.nextPush = none → s.pumpN (n + 1) = s) ∧
    ∀ p, s.hist.offerWaiting = false → s.hist.nextPush = some p →
      (s.placePush p = none → s.pumpN (n + 1) = s.waitOffer) ∧
      (∀ t, s.placePush p = some t → s.pumpN (n + 1) = t.pumpN n)) ∧
  (∀ s : State, s.pump = s.pumpN 400 ∧
    (s.hist.ring.length ≤ 65536 → 1 ≤ s.hist.threshold → s.hist.notices.length ≤ 16 →
      (∀ e ∈ s.hist.notices, e.owed.length ≤ 4) →
      s.pump.hist.offerWaiting = true ∨ s.pump.hist.nextPush = none)) ∧
  (∀ (s : State) (p : Push),
    (s.placeOut .agent (s.pushFrame p) = none → s.placePush p = none) ∧
    (∀ t, s.placeOut .agent (s.pushFrame p) = some t → s.placePush p = some ((t.onAgent fun a => { a with
      lastPlaced := .push, cnt := { a.cnt with pushFrames := a.cnt.pushFrames + 1 } }).onHist fun h => h.commitPush t.clock.now p))) ∧
  (∀ (s : State) (w : Fin 4) (x : Watcher) (e : NoticeEntry),
    let frame (type : Half) (body : List Byte) : OutFrame :=
      let payload := [1, 1, 1] ++ natBytes 2 type.toNat ++ natBytes 2 (8 + body.length) ++ [0, 0, 0, 0] ++ body
      ⟨⟨x.addr, s.ports.partMac, none, 0x88B5, payload ++ List.replicate (64 - (18 + payload.length)) 0⟩, s.dom.mgmt, .push⟩
    let notice (n : Notice) (time : Time) (epoch : Option Nat) : OutFrame :=
      frame 0x0081 (natBytes 1 n.kindCode ++ natBytes 6 time.toNat ++
        (match epoch with | none => [0, 0, 0, 0, 0, 0] | some v => 1 :: natBytes 5 v) ++ natBytes 4 x.lost.toNat ++ n.bodyBytes)
    let behind := (s.hist.newest - x.next).toNat
    let bytes := ((s.hist.ring.take behind).reverse).take (min behind 1024)
    s.pushFrame (.notice e w x) = notice e.notice e.time e.epoch ∧
    s.pushFrame (.gap w x) =
      notice (.consoleGap x.next s.hist.oldest (s.hist.oldest - x.next).toNat) s.clock.now s.clock.epoch ∧
    s.pushFrame (.data w x) = frame 0x0080
      (natBytes 6 x.next.toNat ++ natBytes 6 s.hist.newest.toNat ++ natBytes 2 bytes.length ++ bytes)) ∧
  (∀ (f n : PowerState) (script : Fin 16) (src : Source) (prio step : Nat) (o : ScriptOutcome) (code : Half) (g : Fin 4)
      (st : RegionState) (err : Option LastError) (i : Fin 8) (off off' : Offset) (hits : Counter) (flag : Bool)
      (former new : Option (Fin 8)) (cause : OwnerCause) (lost div baud m : Nat) (std : Option Nat),
    let b1 := natBytes 1
    let opt (k : Nat) (v : Option Nat) : List Byte := match v with | none => natBytes (k + 1) 0 | some v => 1 :: natBytes k v
    let owner (o : Option (Fin 8)) := opt 1 (o.map fun i => i.val)
    let source := match src with | .operator i => [0, BitVec.ofNat 8 i.val] | .pattern i => [1, BitVec.ofNat 8 i.val]
                                 | .trigger i => [2, BitVec.ofNat 8 i.val]
    let outcome := match o with | .ok => [0, 0, 0, 0] | .failed c => [1, 1] ++ natBytes 2 c.toNat | .fault => [2, 0, 0, 0]
                                | .aborted => [3, 0, 0, 0]
    let error := match err with
      | none => List.replicate 13 0
      | some x => [1] ++ b1 x.code.code ++ opt 4 x.sector ++ natBytes 6 x.time.toNat
    let carries (x : Notice) (kind : Nat) (body : List Byte) : Prop := x.kindCode = kind ∧ x.bodyBytes = body
    carries (.powerState f n) 1 (b1 f.code ++ b1 n.code) ∧
    carries (.scriptStart script src prio) 2 (b1 script.val ++ source ++ b1 prio) ∧
    carries (.scriptEnd script o step) 3 (b1 script.val ++ outcome ++ b1 step) ∧
    carries (.scriptDropped script src prio) 4 (b1 script.val ++ source ++ b1 prio) ∧
    carries (.scriptNote script step code) 5 (b1 script.val ++ b1 step ++ natBytes 2 code.toNat) ∧
    carries (.regionState g st err) 6 (b1 g.val ++ b1 st.code ++ error) ∧
    carries (.patternHit i off hits flag) 7 (b1 i.val ++ natBytes 6 off.toNat ++ natBytes 4 hits.toNat ++ [if flag then 1 else 0]) ∧
    carries (.consoleOwner former new cause) 8 (owner former ++ owner new ++ b1 cause.code) ∧
    carries (.consoleGap off off' lost) 9 (natBytes 6 off.toNat ++ natBytes 6 off'.toNat ++ natBytes 4 lost) ∧
    carries (.autobaudDone div baud m std) 10 (natBytes 4 div ++ natBytes 4 baud ++ natBytes 4 m ++ opt 4 std) ∧
    carries (.autobaudFailed lost) 11 (natBytes 4 lost) ∧
    carries (.storeDone flag) 12 [if flag then 0 else 1]) ∧
  ([PowerState.unknown, .on, .off].map PowerState.code = [0, 1, 2] ∧
    [RegionState.detached, .attaching, .attached, .detaching, .faulted].map RegionState.code = [0, 1, 2, 3, 4] ∧
    [ErrorCode.unknownImage, .badInfo, .inquireFailed, .fetchFailed, .flushFailed].map ErrorCode.code = [0, 1, 2, 3, 4] ∧
    [OwnerCause.claim, .forced, .released, .idle, .operatorWrite].map OwnerCause.code = [0, 1, 2, 3, 4]) ∧
  (∀ (h : History) (now : Time) (e e' : NoticeEntry) (rest : List NoticeEntry) (w : Fin 4) (x : Watcher),
    h.notices = e :: rest →
    let owed := e.owed.filter (· != w)
    h.commitPush now (.notice e' w x) = { h with
      notices := if owed = [] then rest else { e with owed := owed } :: rest
      watchers := h.watchers.set w ((h.watchers[w]).map fun y => { y with lost := 0 }) }) ∧
  ∀ (h : History) (now : Time) (w : Fin 4) (x : Watcher), h.watchers[w] = some x →
    let lost := (h.oldest - x.next).toNat
    let n := min (h.newest - x.next).toNat 1024
    let next := x.next + BitVec.ofNat 48 n
    let unsent := (h.newest - next).toNat
    (h.commitPush now (.gap w x) = { h with
        watchers := h.watchers.set w (some { x with next := h.oldest, lost := 0 }), lastServed := some w
        cnt := { h.cnt with gaps := h.cnt.gaps + 1, gapBytes := h.cnt.gapBytes + BitVec.ofNat 32 lost } }) ∧
    (h.commitPush now (.data w x) = { h with
        watchers := h.watchers.set w (some { x with
          next := next, pendingSince := if next = h.newest then none else some now
          due := x.wantsData && (decide (h.threshold ≤ unsent) || (decide (next ≠ h.newest) && decide (h.delay = 0))) })
        lastServed := some w
        cnt := { h.cnt with
          dataPushes := h.cnt.dataPushes + 1, dataBytes := h.cnt.dataBytes + BitVec.ofNat 32 n } })

def Obligations.ByteAppendedAndMatched : Prop :=
  (∀ b : Byte, (0x41 ≤ b.toNat ∧ b.toNat ≤ 0x5A → foldByte b = b + 0x20) ∧
    (b.toNat < 0x41 ∨ 0x5A < b.toNat → foldByte b = b)) ∧
  (∀ (s : State) (b : Byte),
    let stored := s.onHist fun h => { h with
      ring := (b :: h.ring).take 65536, newest := h.newest + 1
      watchers := h.watchers.map fun w => w.map fun x =>
        if x.wantsData = true then (if x.next = h.newest then { x with pendingSince := some s.clock.now } else x)
        else { x with next := h.newest + 1, pendingSince := none } }
    let matched := (List.finRange 8).foldl (State.judgePattern b) stored
    s.appendByte b = State.pump (matched.onHist fun h => { h with
      watchers := h.watchers.map fun w => w.map fun x => { x with due := x.due || watcherDue h s.clock.now x } })) ∧
  ∀ (s : State) (b : Byte) (i : Fin 8),
    let p := s.hist.patterns[i]
    let full := p.window ++ [b]
    let window := full.drop (full.length - p.len)
    let same := fun (x y : Byte) => if p.fold = true then foldByte x = foldByte y else x = y
    let hit := window.length = p.len ∧ (∀ (j : Nat) x y, window[j]? = some x → p.bytes[j]? = some y → same x y) ∧
      ((p.qualifier = 0) ∨ (p.qualifier = 1 ∧ s.power.state = .on) ∨ (p.qualifier = 2 ∧ s.power.window ≠ none))
    let put := fun q : Pattern => s.onHist fun h => { h with patterns := h.patterns.set i q }
    (p.valid = false ∨ p.armed = false → s.judgePattern b i = s) ∧
    (p.valid = true → p.armed = true → p.len ≤ p.bytes.length →
      (¬ hit → s.judgePattern b i = put { p with window := window }) ∧
      (hit →
        let counted := (put { p with window := window, hits := p.hits + 1, armed := p.mode != 0 }).onHistCnt fun c => { c with
          patternHits := c.patternHits + 1 }
        let marked := if p.mark = true then counted.addMark .pattern (BitVec.ofNat 16 i.val) else counted
        let noted := if p.notify = true then marked.raiseNotice (.patternHit i s.hist.newest (p.hits + 1) p.request) else marked
        (p.request = false → s.judgePattern b i = noted) ∧
        (p.request = true → s.judgePattern b i = noted.presentFrom p.script (.pattern i) p.prio p.preempt)))

/-! ### Media records, block requests and image transfers -/

/-- The reply of a detach with discard carries the state and the three counts of R100 from DETACHING too, and the sector count and
the writable flag stay; an attach waits behind inquiries that wait already; the numbers of requests and lines in a reply go in 4
bytes: the model's choices (notes/assumptions/38.md, 39.md, 21.md, 14.md). That no two lines are of one region and sector (R115) is a premise
where dirty lines have to outlast the answers to held requests; it is part of `CacheSound`, which every step keeps
(CacheLineGrantedOrEvicted). The last two blocks say a detach in full: `answered` once its held requests are, `cancelled` without its
inquiry and FETCH entries, `discarded` without its FLUSH entries and dirty lines. -/
def Obligations.MediaRecordsMoveRegions : Prop :=
  (∀ (r : Rec) (s : State) (b : Byte), Passes r s → r.body = [b] →
    let missing := ∀ g : Fin 4, b.toNat = g.val → (s.media.regions[g]).cfg.valid = false
    (missing → (Ready .mediaAttach r s → Refuses .mediaAttach s r .noSuch []) ∧
      (Ready .mediaDetach r s → Refuses .mediaDetach s r .noSuch []) ∧
      (Ready .mediaDetachDiscard r s → Refuses .mediaDetachDiscard s r .noSuch []) ∧
      (Ready .mediaResume r s → Refuses .mediaResume s r .noSuch [])) ∧
    ∀ g : Fin 4, b.toNat = g.val → (s.media.regions[g]).cfg.valid = true →
      let st := (s.media.regions[g]).state
      let dirty := s.media.regionDirty g
      let answered := s.media.held.countP fun h => h.unit == g
      let reply := fun (st : RegionState) (kept lost : Nat) =>
        [BitVec.ofNat 8 st.code] ++ natBytes 4 answered ++ natBytes 4 kept ++ natBytes 4 lost
      (Ready .mediaAttach r s →
        (st = .detached → Answers .mediaAttach s r .ok [1] (s.popRecord.beginAttach g)) ∧
        (st ≠ .detached → Refuses .mediaAttach s r .state [])) ∧
      (Ready .mediaResume r s →
        (st = .faulted → Answers .mediaResume s r .ok ([2] ++ natBytes 4 dirty)
          (s.popRecord.enterRegion g .attached).runFlushes) ∧
        (st ≠ .faulted → Refuses .mediaResume s r .state [])) ∧
      (Ready .mediaDetach r s →
        (st = .detached ∨ st = .detaching → Refuses .mediaDetach s r .state []) ∧
        (st = .attaching ∨ st = .attached →
          (dirty = 0 → Answers .mediaDetach s r .ok (reply .detached 0 0) (s.popRecord.detachRegion g false)) ∧
          (dirty ≠ 0 → OneLineEach s.media →
            Answers .mediaDetach s r .ok (reply .detaching dirty 0) (s.popRecord.detachRegion g false))) ∧
        (st = .faulted → Answers .mediaDetach s r .ok (reply .detached 0 dirty) (s.popRecord.detachRegion g true))) ∧
      (Ready .mediaDetachDiscard r s →
        (st = .detached → Refuses .mediaDetachDiscard s r .state []) ∧
        (st ≠ .detached → Answers .mediaDetachDiscard s r .ok (reply .detached 0 dirty) (s.popRecord.detachRegion g true)))) ∧
  (∀ (s : State) (g : Fin 4) (st : RegionState),
    let entered := s.onMedia fun m => { m with regions := m.regions.set g { m.regions[g] with
      state := st, failures := if st = .attached ∨ st = .detached then 0 else (m.regions[g]).failures } }
    s.enterRegion g st = entered.raiseNotice (.regionState g st (s.media.regions[g]).err) ∧
      SameButPushes entered (s.enterRegion g st)) ∧
  (∀ (s : State) (g : Fin 4),
    let attaching := s.enterRegion g .attaching
    (∀ e : Fin 16, s.media.waitingInquiries = [] → (s.media.table[e]).use = none →
      (∀ d : Fin 16, d < e → (s.media.table[d]).use ≠ none) → s.beginAttach g = attaching.onMedia fun m => { m with
        table := m.table.set e ⟨(m.table[e]).gen + 1, some ⟨.inquire, g, 0, 0, [], 1, none⟩⟩, issue := m.issue ++ [e] }) ∧
    (s.media.waitingInquiries ≠ [] ∨ (∀ e : Fin 16, (s.media.table[e]).use ≠ none) →
      s.beginAttach g = attaching.onMedia fun m => { m with waitingInquiries := m.waitingInquiries ++ [g] })) ∧
  (∀ (s : State) (g : Fin 4) (discard : Bool),
    let own (k : TransferKind → Bool) (e : Fin 16) : Bool := (s.media.table[e]).use.any fun t => t.region == g && k t.kind
    let given (e : Fin 16) (gone : Bool) : TransferEntry :=
      ⟨(s.media.table[e]).gen, if gone = true then none else (s.media.table[e]).use⟩
    let cancels (k : TransferKind) : Bool := k != .flush
    let answered := (s.media.held.filter fun h => h.unit == g).foldl (State.endHeld .noUnit) s
    let freed := ((List.finRange 16).filter (own cancels)).foldl
      (fun t e => (t.freeLines fun l => l.cond == .filling e).freeEntry e) answered
    let cancelled := freed.onMedia fun m => { m with waitingInquiries := m.waitingInquiries.filter (· != g) }
    let lost := (((List.finRange 16).filter (own (· == .flush))).foldl (fun t e => t.freeEntry e) cancelled).freeLines fun l =>
      l.region == g && l.cond.isDirty
    let discarded := lost.onBlk fun n => { n with
      dirtyLost := n.dirtyLost + BitVec.ofNat 32 (cancelled.media.lines.countP fun l => l.region == g && l.cond.isDirty) }
    let rest := if discard = true then discarded else cancelled
    ((∃ l ∈ rest.media.lines, l.region = g ∧ l.cond.isDirty = true) → s.detachRegion g discard = rest.enterRegion g .detaching) ∧
    ((∀ l ∈ rest.media.lines, l.region = g → l.cond.isDirty = false) →
      s.detachRegion g discard = (rest.freeLines fun l => l.region == g).enterRegion g .detached) ∧
    (answered.media.held = s.media.held.filter fun h => h.unit != g) ∧ answered.media.table = s.media.table ∧
    answered.media.waitingInquiries = s.media.waitingInquiries ∧ answered.media.regions = s.media.regions ∧
    (4 * s.media.lines.length ≤ s.pool.ceiling →
      answered.media.lines = s.media.lines ∧ answered.media.dirtyOrder = s.media.dirtyOrder) ∧
    cancelled.media.held = answered.media.held ∧ cancelled.media.regions = s.media.regions ∧
    (∀ e : Fin 16, cancelled.media.table[e] = given e (own cancels e)) ∧
    (cancelled.media.lines = answered.media.lines.filter fun l => !(List.finRange 16).any fun e => own cancels e && l.cond == .filling e) ∧
    discarded.media.held = answered.media.held ∧ discarded.media.regions = s.media.regions ∧
    discarded.media.waitingInquiries = cancelled.media.waitingInquiries ∧
    (∀ e : Fin 16, discarded.media.table[e] = given e (own (fun _ => true) e)) ∧
    (discarded.media.lines = cancelled.media.lines.filter fun l => !(l.region == g && l.cond.isDirty))) ∧
  ∀ (s : State) (g : Fin 4) (discard : Bool),
    let t := s.detachRegion g discard
    (∀ h ∈ t.media.held, h.unit ≠ g) ∧ g ∉ t.media.waitingInquiries ∧
    (discard = true ∨ s.media.regionDirty g = 0 →
      (t.media.regions[g]).state = .detached ∧ ∀ l ∈ t.media.lines, l.region ≠ g) ∧
    (discard = false → s.media.regionDirty g ≠ 0 → OneLineEach s.media → (t.media.regions[g]).state = .detaching) ∧
    (discard = true → OneLineEach s.media → t.media.blk.dirtyLost = s.media.blk.dirtyLost + BitVec.ofNat 32 (s.media.regionDirty g)) ∧
    (discard = false → t.media.blk.dirtyLost = s.media.blk.dirtyLost)

/-- The first clauses give the request and command that a frame's bytes spell (11.4), and what lines say of a sector. In
the last clause the head of the media inbox is block request `m`, and `taken` is the state once its frame has left the inbox. A
reply has the type byte received (notes/assumptions/17.md), an absorbed duplicate is not in REQUESTS (18.md), a write completes
held READs whatever they waited for (19.md), its lines are had in two passes (20.md), the scheduler runs after it when lines joined
the dirty order (21.md), its sectors are stored, and complete held READs, one after the other, and a READ ensures its fills in one
pass (41.md), which take free entries ahead of inquiries and held READs that wait for their rescan (21.md), a closed window is
judged before FAULTED, and lines obtained in vain are freed before the BUSY reply (39.md): the model's choices. -/
def Obligations.BlockRequestsJudged : Prop :=
  (∀ (m : MediaIn) (ty unit op count t0 t1 f0 f1 f2 f3 : Byte) (data : List Byte),
    m.frame.payload = [ty, unit, op, count, t0, t1, f0, f1, f2, f3] ++ data →
    m.request = ⟨m.frame.src, m.domain, ty.toNat, unit.toNat, op.toNat, count.toNat, t0 ++ t1, (f0 ++ f1 ++ f2 ++ f3).toNat, data⟩ ∧
    (m.port = .s → (ty ≠ 1 → m.command = .blkMalformed) ∧ (ty = 1 → m.command = match op.toNat with
      | 0 => .blkRead
      | 1 => .blkWrite
      | 2 => .blkInquire
      | 3 => .blkSync
      | _ => .blkMalformed))) ∧
  (∀ r : BlkRequest, r.sectors.length = r.count ∧
    ∀ k, k < r.count → r.sectors[k]? = some (r.first + k, (r.data.drop (512 * k)).take 512)) ∧
  ([BlkStatus.ok, .notReady, .busy, .noUnit, .range, .prot, .mediaError, .malformed].map BlkStatus.code = [0, 1, 2, 3, 4, 5, 6, 7]) ∧
  (∀ (m : Media) (g : Fin 4) (x : Nat),
    m.findLine g x = m.lines.find? (fun l => l.region == g && l.sector == x) ∧
    (m.findLine g x = none → m.sectorReadable g x = false ∧ m.newlyDirty g x = true) ∧
    (∀ l, m.findLine g x = some l → m.sectorData g x = l.data ∧
      (m.sectorReadable g x = true ↔ ∀ e, l.cond ≠ .filling e) ∧
      (m.newlyDirty g x = true ↔ l.cond = .clean ∨ ∃ e, l.cond = .filling e)) ∧
    m.regionDirty g = m.lines.countP (fun l => l.region == g && l.cond.isDirty)) ∧
  (∀ c : LineCond, c.isDirty = true ↔ c = .dirty ∨ ∃ e, c = .flushing e ∨ c = .redirtied e) ∧
  (∀ (s : State) (g : Fin 4) (xs : List Nat), xs.Nodup → s.touch g xs = s.onMedia fun m => { m with
    lines := (m.lines.filter fun l => !(l.region == g && xs.contains l.sector)) ++
      (xs.map fun x => m.lines.filter fun l => l.region == g && l.sector == x).flatten }) ∧
  (∀ (s : State) (m : MediaIn) (rest : List MediaIn) (c : Instr),
    s.media.inbox = m :: rest → m.command = c → c ∈ [.blkRead, .blkWrite, .blkInquire, .blkSync, .blkMalformed] →
    let r := m.request
    let taken := fun t : State => .next ((t.onMedia fun x => { x with inbox := x.inbox.drop 1 }).returnCells m.frame.cells)
    let judged := isGroup m.frame.src = false
    let form := match c with
      | .blkRead => r.count = 1 ∨ r.count = 2
      | .blkWrite => (r.count = 1 ∨ r.count = 2) ∧ r.data.length = r.count * 512
      | .blkMalformed => False
      | _ => True
    (isGroup m.frame.src = true → exec c s = taken (s.onBlk fun n => { n with badSource := n.badSource + 1 })) ∧
    (judged → ¬ form → exec c s = taken (s.answer r .malformed [])) ∧
    (judged → form → (∀ g : Fin 4, r.unit = g.val → (s.media.regions[g]).cfg.valid = false) →
      exec c s = taken (s.answer r .noUnit [])) ∧
    ∀ g : Fin 4, judged → form → r.unit = g.val → (s.media.regions[g]).cfg.valid = true →
      let rg := s.media.regions[g]
      let shut := rg.cfg.bootOnly = true ∧ s.power.window = none
      let beyond := rg.sectors < r.first + r.count
      let xs := (List.range r.count).map fun i => r.first + i
      (shut → exec c s = taken (s.answer r .noUnit [])) ∧
      (¬ shut → rg.state = .faulted → exec c s = taken (s.answer r .mediaError [])) ∧
      (¬ shut → rg.state ≠ .faulted → rg.state ≠ .attached → exec c s = taken (s.answer r .noUnit [])) ∧
      (¬ shut → rg.state = .attached →
        (c = .blkRead ∨ c = .blkWrite → beyond → exec c s = taken (s.answer r .range [])) ∧
        (c = .blkInquire → exec c s = taken (s.answer r .ok
          (natBytes 4 rg.sectors ++ flagByte (rg.writable && !rg.cfg.writeProtect) ++ natBytes 1 rg.cfg.service))) ∧
        (c = .blkSync → s.media.regionDirty g = 0 → exec c s = taken (s.answer r .ok [])) ∧
        (c = .blkSync → s.media.regionDirty g ≠ 0 → exec c s = taken (s.dispose g .sync r)) ∧
        (c = .blkRead → ¬ beyond → (∀ x ∈ xs, s.media.sectorReadable g x = true) →
          exec c s = taken ((s.touch g xs).answer r .ok (xs.map fun x => s.media.sectorData g x).flatten)) ∧
        (c = .blkRead → ¬ beyond → (∃ x ∈ xs, s.media.sectorReadable g x = false) →
          exec c s = taken ((xs.foldl (fun t x => (t.ensureFill g x).2) s).dispose g .read r)) ∧
        (c = .blkWrite → ¬ beyond → rg.cfg.writeProtect = true ∨ rg.writable = false →
          exec c s = taken (s.answer r .prot [])) ∧
        (c = .blkWrite → ¬ beyond → rg.cfg.writeProtect = false → rg.writable = true →
          let joins := xs.filter fun x => s.media.newlyDirty g x
          (256 < joins.length + s.media.lines.countP (fun l => l.cond.isDirty) → exec c s = taken (State.answer r .busy []
            (s.onBlk fun n => { n with writeBusy := n.writeBusy + 1 }))) ∧
          (joins.length + s.media.lines.countP (fun l => l.cond.isDirty) ≤ 256 → ∀ got t,
            (s.writeLines g (xs ++ xs) = ((true, got), t) →
              let stored := xs.foldl (fun t x => t.sectorArrived g x) ((r.sectors.foldl (State.storeSector g joins) t).answer r .ok [])
              exec c s = taken (if joins = [] then stored else stored.runFlushes)) ∧
            (s.writeLines g (xs ++ xs) = ((false, got), t) → exec c s = taken (State.answer r .busy []
              ((t.freeLines fun l => l.region == g && got.contains l.sector).onBlk fun n => { n with
                writeBusy := n.writeBusy + 1 }))))))) ∧
  (∀ (s : State) (r : BlkRequest) (st : BlkStatus) (body : List Byte),
    let counted := s.onBlk fun n => { n with requests := n.requests + 1 }.replied st
    let f := builtFrame r.mac s.ports.partMac 0x88B6 (([BitVec.ofNat 8 r.type, BitVec.ofNat 8 r.unit, BitVec.ofNat 8 r.op,
      BitVec.ofNat 8 r.count] ++ natBytes 2 r.tag.toNat ++ natBytes 4 r.first ++ [BitVec.ofNat 8 st.code]) ++ body)
    let offered := counted.offerEgress .s r.domain s.sched.mediaClass f .blkReply
    (offered.1 = true → s.answer r st body = offered.2) ∧
    (offered.1 = false → s.answer r st body = offered.2.onBlk fun n => { n with replyDrop := n.replyDrop + 1 })) ∧
  ∀ (s : State) (g : Fin 4) (op : HeldOp) (r : BlkRequest),
    let rg := s.media.regions[g]
    let duplicate := op = .read ∧ ∃ h ∈ s.media.held, h.op = .read ∧ h.mac = r.mac ∧ h.unit = g ∧ h.tag = r.tag
    (rg.cfg.service = 1 → s.dispose g op r = s.answer r .notReady []) ∧
    (rg.cfg.service ≠ 1 → duplicate → s.dispose g op r = s.onBlk fun n => { n with duplicate := n.duplicate + 1 }) ∧
    (rg.cfg.service ≠ 1 → ¬ duplicate → 16 ≤ s.media.held.length → s.dispose g op r = s.answer r .busy []) ∧
    (rg.cfg.service ≠ 1 → ¬ duplicate → s.media.held.length < 16 → ∀ awaiting : List Nat,
      (op = .sync → awaiting = []) →
      (op = .read → awaiting = ((List.range r.count).map fun i => r.first + i).filter fun x => !s.media.sectorReadable g x) →
      s.dispose g op r = s.onMedia fun m => { m with
        held := m.held ++ [⟨r.mac, r.domain, g, op, r.tag, r.first, r.count,
          s.clock.now + BitVec.ofNat 48 (rg.cfg.holdMs * 1000), awaiting⟩]
        blk := { m.blk with requests := m.blk.requests + 1, heldEntered := m.blk.heldEntered + 1 } })

/-- The command and the fields that an image answer's bytes spell (11.4, R182), and the ends of transfers and of held
requests (R97, R99, R101, R102, R112, R116, R117, R125, R126, R131, R133).
That a freed entry is offered by a rescan, and that the flush scheduler runs before it for the lines that joined the dirty order,
once for all of them and not when the failure takes their region out of service, is notes/assumptions/8.md and 21.md; that the lines
of one acknowledgement join it, or become CLEAN and meet a pending excess, one by one in sector order, and that the lines of a held
READ are touched in that order, is 41.md; that a FETCH completes once all sectors of a frame are taken, and that the
replies that end held requests are built before a pending excess takes lines, is 39.md; and that the reply to a held request has the
request's type byte is 17.md: the model's choices. -/
def Obligations.ImageAnswersEndTransfers : Prop :=
  (∀ (l : CacheLine) (e : Fin 16), l.coveredBy e = true ↔ l.cond = .filling e ∨ l.cond = .flushing e ∨ l.cond = .redirtied e) ∧
  (∀ (m : MediaIn) (ty : Byte) (rest : List Byte), m.port = .u → m.frame.payload = ty :: rest →
    (ty = 0x11 → m.command = if 12 ≤ rest.length then .imgInfo else .imgMalformedAnswer) ∧
    (ty = 0x13 → rest.length < 8 → m.command = .imgMalformedAnswer) ∧
    (ty = 0x13 → ∀ (head : List Byte) (st n : Byte) (sectors : List Byte), rest = head ++ [st, n] ++ sectors → head.length = 6 →
      m.command = if st = 0 ∧ ¬ (1 ≤ n.toNat ∧ n.toNat ≤ 2 ∧ n.toNat * 516 ≤ sectors.length) then .imgMalformedAnswer else .imgData) ∧
    (ty = 0x15 → m.command = if 7 ≤ rest.length then .imgWriteAck else .imgMalformedAnswer) ∧
    (ty ≠ 0x11 → ty ≠ 0x13 → ty ≠ 0x15 → m.command = .imgMalformedAnswer)) ∧
  (∀ (ty index gen i0 i1 i2 i3 st b c0 c1 c2 c3 : Byte) (rest : List Byte),
    let head (rest : List Byte) : List Byte := [ty, index, gen, i0, i1, i2, i3, st] ++ rest
    (fieldAt 1 1 (head rest) = index.toNat ∧ BitVec.ofNat 8 (fieldAt 2 1 (head rest)) = gen ∧
      BitVec.ofNat 32 (fieldAt 3 4 (head rest)) = i0 ++ i1 ++ i2 ++ i3 ∧ fieldAt 7 1 (head rest) = st.toNat) ∧
    fieldAt 8 1 (head (b :: rest)) = b.toNat ∧ (head (b :: rest)).drop 9 = rest ∧
    fieldAt 9 4 (head ([b, c0, c1, c2, c3] ++ rest)) = (c0 ++ c1 ++ c2 ++ c3).toNat) ∧
  (∀ (n : Nat) (x0 x1 x2 x3 : Byte) (data rest : List Byte), data.length = 512 → imgSectors 0 rest = [] ∧
    imgSectors (n + 1) ([x0, x1, x2, x3] ++ data ++ rest) = ((x0 ++ x1 ++ x2 ++ x3).toNat, data) :: imgSectors n rest) ∧
  (∀ (s : State) (m : MediaIn) (rest : List MediaIn) (c : Instr), s.media.inbox = m :: rest → m.command = c →
    let p := m.frame.payload
    let taken := fun t : State => .next ((t.onMedia fun x => { x with inbox := x.inbox.drop 1 }).returnCells m.frame.cells)
    (c = .imgMalformedAnswer → exec c s = taken (s.onXfer fun n => { n with imgMalformed := n.imgMalformed + 1 })) ∧
    ∀ kind, (c = .imgInfo ∧ kind = .inquire) ∨ (c = .imgData ∧ kind = .fetch) ∨ (c = .imgWriteAck ∧ kind = .flush) →
      let fits := fun (e : Fin 16) (t : Transfer) => fieldAt 1 1 p = e.val ∧
        s.media.table[e] = ⟨BitVec.ofNat 8 (fieldAt 2 1 p), some t⟩ ∧ t.kind = kind ∧
        (s.media.regions[t.region]).cfg.imageId = BitVec.ofNat 32 (fieldAt 3 4 p) ∧
        (fieldAt 7 1 p = 0 ∨ t.deadline ≠ none)
      ((∀ e t, ¬ fits e t) → exec c s = taken (s.onXfer fun n => { n with stale := n.stale + 1 })) ∧
      ∀ e t, fits e t →
        let freed := s.freeEntry e
        let g := t.region
        (c ≠ .imgInfo → fieldAt 7 1 p ≠ 0 →
          exec c s = taken ((s.onXfer fun n => { n with refusals := n.refusals + 1 }).judgeAttempt e t)) ∧
        (c = .imgInfo → fieldAt 7 1 p ≠ 0 → exec c s = taken (freed.failAttach g .unknownImage)) ∧
        (c = .imgInfo → fieldAt 7 1 p = 0 → fieldAt 9 4 p = 0 ∨ 2 ^ 31 < fieldAt 9 4 p →
          exec c s = taken (freed.failAttach g .badInfo)) ∧
        (c = .imgInfo → fieldAt 7 1 p = 0 → 1 ≤ fieldAt 9 4 p → fieldAt 9 4 p ≤ 2 ^ 31 →
          exec c s = taken ((freed.onMedia fun x => { x with regions := x.regions.set g { x.regions[g] with
            sectors := fieldAt 9 4 p, writable := fieldAt 8 1 p != 0 } }).enterRegion g .attached)) ∧
        (c = .imgData → fieldAt 7 1 p = 0 → exec c s = taken
          (((imgSectors (fieldAt 8 1 p) (p.drop 9)).foldl (State.takeSector e) s).completeFetch e)) ∧
        (c = .imgWriteAck → fieldAt 7 1 p = 0 →
          let cleaned := ((List.range t.count).map fun i => (g, t.first + i)).foldl (State.acknowledge e) s
          let ended (t : State) : State :=
            (((t.freeEntry e).onXfer fun n => { n with flushDone := n.flushDone + 1 }).countCompletion g).settleRegion g
          ((∃ l ∈ s.media.lines, l.cond = .redirtied e) → exec c s = taken (ended cleaned.runFlushes)) ∧
          ((∀ l ∈ s.media.lines, l.cond ≠ .redirtied e) → exec c s = taken (ended cleaned)))) ∧
  (∀ (s : State) (e : Fin 16) (t : Transfer) (x : Nat) (data : List Byte), (s.media.table[e]).use = some t →
    (x < t.first ∨ t.first + t.count ≤ x →
      s.takeSector e (x, data) = s.onXfer fun n => { n with stale := n.stale + 1 }) ∧
    (t.first ≤ x → x < t.first + t.count → x ∈ t.received →
      s.takeSector e (x, data) = s.onXfer fun n => { n with dataDiscard := n.dataDiscard + 1 }) ∧
    (t.first ≤ x → x < t.first + t.count → x ∉ t.received →
      let received := s.onMedia fun m => { m with
        table := m.table.set e { m.table[e] with use := some { t with received := t.received ++ [x] } } }
      ((∀ l, s.media.findLine t.region x = some l → l.cond ≠ .filling e) →
        s.takeSector e (x, data) = received.onXfer fun n => { n with dataDiscard := n.dataDiscard + 1 }) ∧
      (∀ l, s.media.findLine t.region x = some l → l.cond = .filling e → s.takeSector e (x, data) =
        State.trimExcess (State.sectorArrived t.region x (received.onMedia fun m => { m with
          lines := m.lines.map fun l => if l.region = t.region ∧ l.sector = x then { l with cond := .clean, data := data }
            else l }))))) ∧
  (∀ (s : State) (e : Fin 16) (t : Transfer),
    (t.attempts ≤ s.media.retryCount → s.judgeAttempt e t = s.onMedia fun m => { m with
      table := m.table.set e { m.table[e] with use := some { t with deadline := none, attempts := t.attempts + 1 } }
      issue := m.issue ++ [e], xfer := { m.xfer with retries := m.xfer.retries + 1 } }) ∧
    (s.media.retryCount < t.attempts →
      let ended := s.onMedia fun m => { m with
        table := m.table.set e { m.table[e] with use := some { t with deadline := none } } }
      (t.kind = .fetch → s.judgeAttempt e t = ended.failFetch e t) ∧
      (t.kind = .flush → s.judgeAttempt e t = ended.failFlush e t) ∧
      (t.kind = .inquire → s.judgeAttempt e t = (ended.freeEntry e).failAttach t.region .inquireFailed)) ∧
    s.freeEntry e = s.onMedia fun m => { m with
      table := m.table.set e { m.table[e] with use := none }, issue := m.issue.filter (· != e)
      issueWaiting := m.issueWaiting && m.issue.head? != some e, rescans := m.rescans + 1 }) ∧
  (∀ (s : State) (p : CacheLine → Bool),
    let gone := s.media.lines.filter p
    (gone = [] → s.freeLines p = s) ∧
    (gone ≠ [] → s.freeLines p = (s.onMedia fun m => { m with
      lines := m.lines.filter fun l => !p l
      dirtyOrder := m.dirtyOrder.filter fun d => !gone.any fun l => l.region == d.1 && l.sector == d.2 }).returnCells
        (4 * gone.length))) ∧
  (∀ (s : State) (p : Held → Bool) (st : BlkStatus),
    s.endHeldWhere p st = (s.media.held.filter p).foldl (State.endHeld st) s) ∧
  (∀ (s : State) (h : Held) (st : BlkStatus),
    let xs := match h.op with
      | .read => (List.range h.count).map fun i => h.first + i
      | .sync => []
    let freed := s.onMedia fun m => { m with held := m.held.erase h }
    let bytes := blkReplyBytes 0x01 h.unit.val (match h.op with | .read => 0 | .sync => 3) h.count h.tag h.first st
    (st = .ok → s.endHeld st h = ((freed.touch h.unit xs).blkReply h.mac h.domain
      (bytes (xs.map fun x => s.media.sectorData h.unit x).flatten) st).trimExcess) ∧
    (st ≠ .ok → s.endHeld st h = (freed.blkReply h.mac h.domain (bytes []) st).trimExcess)) ∧
  (∀ (s : State) (g : Fin 4) (x : Nat),
    let arrived := s.onMedia fun m => { m with held := m.held.map fun h =>
      if h.op = .read ∧ h.unit = g ∧ x ∈ h.awaiting then { h with awaiting := h.awaiting.filter (· != x) } else h }
    s.sectorArrived g x = arrived.endHeldWhere (fun h => h.op == .read && h.awaiting.isEmpty) .ok) ∧
  (∀ (s : State) (e : Fin 16) (g : Fin 4) (x : Nat),
    let put (c : LineCond) : State := s.onMedia fun m => { m with
      lines := m.lines.map fun l => if l.region = g ∧ l.sector = x then { l with cond := c } else l }
    let join (t : State) : State := t.onMedia fun m => { m with dirtyOrder := m.dirtyOrder ++ [(g, x)] }
    (s.media.findLine g x = none → s.acknowledge e (g, x) = s ∧ s.returnDirty e (g, x) = s) ∧
    ∀ l, s.media.findLine g x = some l →
      (l.cond = .flushing e → s.acknowledge e (g, x) = (put .clean).trimExcess ∧ s.returnDirty e (g, x) = join (put .dirty)) ∧
      (l.cond = .redirtied e → s.acknowledge e (g, x) = join (put .dirty) ∧ s.returnDirty e (g, x) = join (put .dirty)) ∧
      (l.cond ≠ .flushing e → l.cond ≠ .redirtied e → s.acknowledge e (g, x) = s)) ∧
  (∀ (s : State) (e : Fin 16) (t : Transfer),
    let g := t.region
    let xs := (s.media.lines.filter fun l => l.cond == .filling e).map fun l => l.sector
    let error (t : State) (c : ErrorCode) (x : Option Nat) : State := t.onMedia fun m => { m with
      regions := m.regions.set g { m.regions[g] with err := some ⟨c, x, t.clock.now⟩ } }
    s.failFetch e t = (((error ((s.freeLines fun l => l.cond == .filling e).endHeldWhere
      (fun h => h.op == .read && h.unit == g && h.awaiting.any fun x => xs.contains x) .mediaError) .fetchFailed
        (((List.range t.count).map fun i => t.first + i).find? fun x => !t.received.contains x)).onXfer fun n => { n with
          fetchFailed := n.fetchFailed + 1 }).freeEntry e).countFailure g ∧
    (let returned := ((List.range t.count).map fun i => (g, t.first + i)).foldl (State.returnDirty e) s
     let ended (u : State) : State := (((error u .flushFailed (some t.first)).onXfer fun n => { n with
      flushFailed := n.flushFailed + 1 }).freeEntry e).countFailure g
     ((∃ l ∈ s.media.lines, l.coveredBy e = true) → (s.media.regions[g]).failures < 3 →
       s.failFlush e t = ended returned.runFlushes) ∧
     ((∀ l ∈ s.media.lines, l.coveredBy e = false) ∨ 3 ≤ (s.media.regions[g]).failures → s.failFlush e t = ended returned)) ∧
    ∀ c, s.failAttach g c = (error s c none).enterRegion g .detached) ∧
  (∀ (s : State) (g : Fin 4),
    let r := s.media.regions[g]
    let failed := s.onMedia fun m => { m with regions := m.regions.set g { m.regions[g] with failures := r.failures + 1 } }
    (r.state = .attached → r.failures < 3 → s.countFailure g = failed) ∧
    (r.state = .attached → 3 ≤ r.failures → s.countFailure g = failed.faultRegion g) ∧
    (r.state = .detaching → r.failures < 3 → s.countFailure g = failed) ∧
    (r.state = .detaching → 3 ≤ r.failures → s.countFailure g = (failed.discardDirty g).becomeDetached g) ∧
    (r.state ≠ .attached → r.state ≠ .detaching → s.countFailure g = s) ∧
    (r.state ≠ .faulted → s.countCompletion g = s.onMedia fun m => { m with
      regions := m.regions.set g { m.regions[g] with failures := 0 } }) ∧
    (r.state = .faulted → (s.countCompletion g).media.regions = s.media.regions)) ∧
  (∀ (s : State) (g : Fin 4),
    let own (k : TransferKind → Bool) : List (Fin 16) := (List.finRange 16).filter fun e =>
      (s.media.table[e]).use.any fun t => t.region == g && k t.kind
    let faulted := s.onMedia fun m => { m with regions := m.regions.set g { m.regions[g] with state := .faulted } }
    s.faultRegion g = ((faulted.endHeldWhere (fun h => h.unit == g) .mediaError).cancelFetches g (· == .fetch)).enterRegion g
      .faulted ∧
    (∀ k, s.cancelFetches g k = (own k).foldl (fun t e => (t.freeLines fun l => l.cond == .filling e).freeEntry e) s) ∧
    s.discardDirty g = (((own (· == .flush)).foldl (fun t e => t.freeEntry e) s).freeLines fun l =>
      l.region == g && l.cond.isDirty).onBlk (fun n => { n with
        dirtyLost := n.dirtyLost + BitVec.ofNat 32 (s.media.lines.countP fun l => l.region == g && l.cond.isDirty) }) ∧
    s.becomeDetached g = (s.freeLines fun l => l.region == g).enterRegion g .detached) ∧
  (∀ (s : State) (e : Fin 16),
    ((s.media.table[e]).use = none → s.completeFetch e = s) ∧
    ∀ t, (s.media.table[e]).use = some t →
      ((∀ x, t.first ≤ x → x < t.first + t.count → x ∈ t.received) → s.completeFetch e =
        ((s.freeEntry e).onXfer fun n => { n with fetchDone := n.fetchDone + 1 }).countCompletion t.region) ∧
      ((∃ x, t.first ≤ x ∧ x < t.first + t.count ∧ x ∉ t.received) → s.completeFetch e = s)) ∧
  (∀ (s : State) (mac : Mac) (d : Fin 16) (bytes : List Byte) (st : BlkStatus),
    let counted := s.onBlk fun n => n.replied st
    let f : Frame := ⟨mac, s.ports.partMac, none, 0x88B6, bytes ++ List.replicate (64 - (18 + bytes.length)) 0⟩
    let offered := counted.offerEgress .s d s.sched.mediaClass f .blkReply
    (offered.1 = true → s.blkReply mac d bytes st = offered.2) ∧
    (offered.1 = false → s.blkReply mac d bytes st = offered.2.onBlk fun n => { n with replyDrop := n.replyDrop + 1 })) ∧
  (∀ n : BlockCounters, n.replied .ok = { n with replyOk := n.replyOk + 1 } ∧
    n.replied .notReady = { n with replyNotReady := n.replyNotReady + 1 } ∧
    n.replied .busy = { n with replyBusy := n.replyBusy + 1 } ∧ n.replied .noUnit = { n with replyNoUnit := n.replyNoUnit + 1 } ∧
    n.replied .range = { n with replyRange := n.replyRange + 1 } ∧
    n.replied .prot = { n with replyProtected := n.replyProtected + 1 } ∧
    n.replied .mediaError = { n with replyMediaError := n.replyMediaError + 1 } ∧
    n.replied .malformed = { n with replyMalformed := n.replyMalformed + 1 }) ∧
  (∀ (type unit op count first : Nat) (tag : Half) (st : BlkStatus) (body : List Byte),
    blkReplyBytes type unit op count tag first st body = [BitVec.ofNat 8 type, BitVec.ofNat 8 unit, BitVec.ofNat 8 op,
      BitVec.ofNat 8 count] ++ natBytes 2 tag.toNat ++ natBytes 4 first ++ [BitVec.ofNat 8 st.code] ++ body) ∧
  ∀ (s : State) (g : Fin 4),
    let synced := s.endHeldWhere (fun h => h.op == .sync && h.unit == g) .ok
    (s.media.regionDirty g ≠ 0 → s.settleRegion g = s) ∧
    (s.media.regionDirty g = 0 → (s.media.regions[g]).state = .detaching → s.settleRegion g = synced.becomeDetached g) ∧
    (s.media.regionDirty g = 0 → (s.media.regions[g]).state ≠ .detaching → s.settleRegion g = synced)

/-- That an expiry, an issue or a rescan off its occasion changes nothing, that each event owes a rescan of its own, that no
write-back is begun while an inquiry waits, that the reply at a held deadline has the request's type byte, and that it is built
before a pending excess takes lines are the model's choices (notes/assumptions/1.md, 8.md, 21.md, 17.md, 39.md). -/
def Obligations.TransfersIssuedAndTimed : Prop :=
  (∀ s : State, s.media.issue = [] → exec .transferIssue s = .next s) ∧
  (∀ (s : State) (e : Fin 16) (rest : List (Fin 16)) (t : Transfer) (d : Fin 16),
    s.media.issue = e :: rest → (s.media.table[e]).use = some t → (s.media.regions[t.region]).cfg.domain = d.val →
    let cfg := (s.media.regions[t.region]).cfg
    let gen := (s.media.table[e]).gen
    let issued := s.onMedia fun m => { m with issue := rest, issueWaiting := false }
    ∀ (code : Byte) (fields : List Byte),
      (t.kind = .inquire → code = 0x10 ∧ fields = []) →
      (t.kind = .fetch → code = 0x12 ∧ fields = natBytes 4 t.asked.1 ++ natBytes 1 t.asked.2) →
      (t.kind = .flush → code = 0x14 ∧ fields = natBytes 1 t.count ++ ((List.range t.count).map fun i =>
        natBytes 4 (t.first + i) ++ s.media.sectorData t.region (t.first + i)).flatten) →
      let f : OutFrame := ⟨builtFrame cfg.server s.ports.partMac 0x88B6
        ([code, BitVec.ofNat 8 e.val, gen] ++ natBytes 4 cfg.imageId.toNat ++ fields), d, .media e gen⟩
      (∀ u, issued.placeOut .media f = some u → exec .transferIssue s = .next u) ∧
      (issued.placeOut .media f = none → s.media.issueWaiting = true → exec .transferIssue s = .next s) ∧
      (issued.placeOut .media f = none → s.media.issueWaiting = false → exec .transferIssue s =
        .next (s.onMedia fun m => { m with
          issueWaiting := true, xfer := { m.xfer with issueWait := m.xfer.issueWait + 1 } }))) ∧
  (∀ (s : State) (e : Fin 16),
    ((∀ t, (s.media.table[e]).use = some t → t.deadline = none) → exec (.transferDeadline e) s = .next s) ∧
    ∀ t d, (s.media.table[e]).use = some t → t.deadline = some d →
      (2 ^ 47 ≤ (s.clock.now - d).toNat → exec (.transferDeadline e) s = .next s) ∧
      ((s.clock.now - d).toNat < 2 ^ 47 → exec (.transferDeadline e) s =
        .next ((s.onXfer fun n => { n with timeouts := n.timeouts + 1 }).judgeAttempt e t))) ∧
  (∀ (s : State) (k : Nat),
    (s.media.held.length ≤ k → exec (.heldDeadline k) s = .next s) ∧
    ∀ h, s.media.held[k]? = some h →
      (2 ^ 47 ≤ (s.clock.now - h.deadline).toNat → exec (.heldDeadline k) s = .next s) ∧
      ((s.clock.now - h.deadline).toNat < 2 ^ 47 →
        let dropped := s.onMedia fun m => { m with
          held := m.held.erase h, blk := { m.blk with heldExpired := m.blk.heldExpired + 1 } }
        exec (.heldDeadline k) s = .next (State.trimExcess (dropped.blkReply h.mac h.domain
          (blkReplyBytes 0x01 h.unit.val (match h.op with | .read => 0 | .sync => 3) h.count h.tag h.first .notReady [])
          .notReady)))) ∧
  (∀ s : State,
    (s.media.rescans = 0 → exec .resourceRescan s = .next s) ∧
    ∀ n, s.media.rescans = n + 1 →
      let owed := s.onMedia fun m => { m with rescans := n }
      exec .resourceRescan s = .next ((owed.takeInquiries s.media.waitingInquiries.length).rescanHeld.runFlushes)) ∧
  (∀ t : Transfer,
    (t.attempts = 1 → t.asked = (t.first, t.count)) ∧
    ∀ first last : Nat, t.attempts ≠ 1 → t.first ≤ first → first ≤ last → last < t.first + t.count →
      first ∉ t.received → last ∉ t.received →
      (∀ x, t.first ≤ x → x < t.first + t.count → x ∉ t.received → first ≤ x ∧ x ≤ last) →
      t.asked = (first, last + 1 - first)) ∧
  (∀ (s : State) (n : Nat),
    let lowestFree := fun e : Fin 16 => (s.media.table[e]).use = none ∧ ∀ d : Fin 16, d < e → (s.media.table[d]).use ≠ none
    (s.media.waitingInquiries = [] ∨ (∀ e : Fin 16, (s.media.table[e]).use ≠ none) → s.takeInquiries (n + 1) = s) ∧
    (∀ g rest e, s.media.waitingInquiries = g :: rest → lowestFree e → s.takeInquiries (n + 1) =
      State.takeInquiries n (s.onMedia fun m => { m with
        waitingInquiries := rest, issue := m.issue ++ [e]
        table := m.table.set e ⟨(m.table[e]).gen + 1, some ⟨.inquire, g, 0, 0, [], 1, none⟩⟩ })) ∧
    (∀ e g x before after, s.media.fillWaiting = false → s.media.waitingInquiries = [] → lowestFree e →
      s.media.dirtyOrder = before ++ (g, x) :: after →
      (∀ d ∈ before, (s.media.regions[d.1]).state ≠ .attached ∧ (s.media.regions[d.1]).state ≠ .detaching) →
      (s.media.regions[g]).state = .attached ∨ (s.media.regions[g]).state = .detaching →
      s.flushN (n + 1) = (s.startFlush e g x).flushN n) ∧
    (s.media.fillWaiting = true ∨ s.media.waitingInquiries ≠ [] ∨ (∀ e : Fin 16, (s.media.table[e]).use ≠ none) ∨
      (∀ d ∈ s.media.dirtyOrder, (s.media.regions[d.1]).state ≠ .attached ∧ (s.media.regions[d.1]).state ≠ .detaching) →
      s.flushN (n + 1) = s) ∧ s.runFlushes = s.flushN 16) ∧
  (∀ (s : State) (e : Fin 16) (g : Fin 4) (x : Nat) (xs : List Nat),
    (xs = [x, x + 1] ∧ ∃ l, s.media.findLine g (x + 1) = some l ∧ l.cond = .dirty) ∨
      (xs = [x] ∧ ∀ l, s.media.findLine g (x + 1) = some l → l.cond ≠ .dirty) →
    s.startFlush e g x = s.onMedia fun m => { m with
      lines := m.lines.map fun l => if l.region = g ∧ l.sector ∈ xs then { l with cond := .flushing e } else l
      dirtyOrder := m.dirtyOrder.filter fun d => !(d.1 == g && xs.contains d.2)
      table := m.table.set e ⟨(m.table[e]).gen + 1, some ⟨.flush, g, x, xs.length, [], 1, none⟩⟩
      issue := m.issue ++ [e], xfer := { m.xfer with flushesStarted := m.xfer.flushesStarted + 1 } }) ∧
  ∀ s : State,
    let clear := s.onMedia fun m => { m with fillWaiting := false }
    s.rescanHeld = (s.media.held.filter fun h => h.op == .read).foldl
      (fun t h => h.awaiting.foldl (fun t x =>
        if (t.ensureFill h.unit x).1 = true then (t.ensureFill h.unit x).2.onMedia fun m => { m with fillWaiting := true }
        else (t.ensureFill h.unit x).2) t) clear

/-- Every step keeps the cache sound; how a line is had, what a fill takes, and how the sectors of a WRITE are stored. A WRITE
looks twice for its lines, and stores its sectors in sector order, and a fill takes a free entry also while inquiries or held READs
wait for their rescan: the model's choices (notes/assumptions/20.md, 41.md, 21.md). -/
def Obligations.CacheLineGrantedOrEvicted : Prop :=
  (∀ s t : State, CacheSound s.media → step s = .next t → CacheSound t.media) ∧
  (∀ (s : State) (g : Fin 4) (x : Nat),
    let rg := s.media.regions[g]
    let fetches := (List.finRange 16).countP fun e => (s.media.table[e]).use.any fun t => t.kind == .fetch
    let deferred := fun t : State => t.onXfer fun n => { n with fillDeferred := n.fillDeferred + 1 }
    let stop := min ((x / rg.cfg.prefetch + 1) * rg.cfg.prefetch) rg.sectors
    (s.media.findLine g x ≠ none → s.ensureFill g x = (false, s)) ∧
    (s.media.findLine g x = none → (∀ e : Fin 16, (s.media.table[e]).use ≠ none) →
      s.ensureFill g x = (decide (fetches < 12), deferred s)) ∧
    ∀ e : Fin 16, s.media.findLine g x = none → (s.media.table[e]).use = none →
      (∀ d : Fin 16, d < e → (s.media.table[d]).use ≠ none) →
      (12 ≤ fetches → s.ensureFill g x = (false, deferred s)) ∧
      ∀ n, fetches < 12 → 1 ≤ n → (∀ i, i < n → s.media.findLine g (x + i) = none) → x + n ≤ stop →
        x + n = stop ∨ s.media.findLine g (x + n) ≠ none →
        let run := (List.range n).map fun i => x + i
        (∀ t, s.fillLines g e run = ([], t) → s.ensureFill g x = (false, deferred t)) ∧
        ∀ y ys t, s.fillLines g e run = (y :: ys, t) → s.ensureFill g x = (false, t.onMedia fun m => { m with
          table := m.table.set e ⟨(m.table[e]).gen + 1, some ⟨.fetch, g, x, ys.length + 1, [], 1, none⟩⟩
          issue := m.issue ++ [e]
          xfer := { m.xfer with
            fillsStarted := m.xfer.fillsStarted + 1, fillSectors := m.xfer.fillSectors + BitVec.ofNat 32 (ys.length + 1) } })) ∧
  (∀ (s : State) (g : Fin 4) (e : Fin 16) (x : Nat) (xs : List Nat),
    let entered := fun c : LineCond => s.obtainLine.2.onMedia fun m => { m with lines := m.lines ++ [⟨g, x, c, []⟩] }
    s.fillLines g e [] = ([], s) ∧ s.writeLines g [] = ((true, []), s) ∧
    (s.obtainLine.1 = false → s.fillLines g e (x :: xs) = ([], s.obtainLine.2)) ∧
    (s.obtainLine.1 = true → ∀ had t, (entered (.filling e)).fillLines g e xs = (had, t) →
      s.fillLines g e (x :: xs) = (x :: had, t)) ∧
    (s.media.findLine g x ≠ none → s.writeLines g (x :: xs) = s.writeLines g xs) ∧
    (s.media.findLine g x = none → s.obtainLine.1 = false → s.writeLines g (x :: xs) = ((false, []), s.obtainLine.2)) ∧
    (s.media.findLine g x = none → s.obtainLine.1 = true → ∀ all had t, (entered .dirty).writeLines g xs = ((all, had), t) →
      s.writeLines g (x :: xs) = ((all, x :: had), t))) ∧
  (∀ (s : State) (g : Fin 4) (joins : List Nat) (x : Nat) (data : List Byte),
    let mine := fun l : CacheLine => l.region == g && l.sector == x
    s.storeSector g joins (x, data) = s.onMedia fun m => { m with
      lines := (m.lines.filter fun l => !mine l) ++ (m.lines.filter mine).map fun l => { l with
        data := data
        cond := match l.cond with
          | .filling _ => .dirty
          | .clean => .dirty
          | .dirty => .dirty
          | .flushing e => .redirtied e
          | .redirtied e => .redirtied e }
      dirtyOrder := if x ∈ joins then m.dirtyOrder ++ [(g, x)] else m.dirtyOrder }) ∧
  ∀ s : State,
    let fits := 4 * s.media.lines.length + 4 ≤ s.pool.ceiling ∧ s.pool.reserve + 4 ≤ s.pool.free
    let evictable := fun l : CacheLine => l.cond = .clean ∧
      ¬ ∃ h ∈ s.media.held, h.op = .read ∧ h.unit = l.region ∧ h.first ≤ l.sector ∧ l.sector < h.first + h.count
    (fits → s.obtainLine = (true, s.onPool fun p => { p with
      free := p.free - 4, lowFree := min p.lowFree (p.free - 4), cacheAlloc := p.cacheAlloc + 1 })) ∧
    (¬ fits → (∀ l ∈ s.media.lines, ¬ evictable l) → s.obtainLine =
      (false, s.onPool fun p => { p with cacheAllocFail := p.cacheAllocFail + 1 })) ∧
    (¬ fits → ∀ older l newer, s.media.lines = older ++ l :: newer → (∀ x ∈ older, ¬ evictable x) → evictable l →
      s.obtainLine = (true, (s.onMedia fun m => { m with
        lines := m.lines.filter fun x => !(x.region == l.region && x.sector == l.sector) }).onPool fun p => { p with
          cacheAlloc := p.cacheAlloc + 1, cacheEvict := p.cacheEvict + 1 }))

/-! ### Power -/

/-- How a request is started, queued, displaced or refused, and what the records answer. The body of a refusal with BUSY, the widths
of the numbers, and RANGE for an unlisted target, judged before the script index, are the model's choices
(notes/assumptions/14.md, 13.md, 39.md). -/
def Obligations.PowerRequestsJudged : Prop :=
  (∀ (s : State) (q : Request),
    let d := s.script.dir[q.script]
    let begun := State.raiseNotice (.scriptStart q.script q.source q.prio) (s.onScript fun e => { e with
      running := some ⟨q.script, q.source, q.prio, d.preemptible, s.clock.now, 0, ⟨0, 0, 0, 0⟩, [], .acting⟩
      cnt := { e.cnt with started := e.cnt.started + 1 } })
    (d.valid = true → s.startRequest q = begun.goTo d.first) ∧
    (d.valid = false → s.startRequest q = begun.finishScript .fault 0)) ∧
  (∀ (s : State) (script : Nat) (source : Source) (prio : Nat) (preempt : Bool),
    let invalid := fun t : State => t.onScriptCnt fun n => { n with requestInvalid := n.requestInvalid + 1 }
    (15 < script → s.presentFrom script source prio preempt = invalid s) ∧
    ∀ k : Fin 16, script = k.val →
      let r := s.present ⟨k, source, prio, preempt, s.clock.now⟩
      (r.1 = .invalid → s.presentFrom script source prio preempt = invalid r.2) ∧
      (∀ p, r.1 = .full p → s.presentFrom script source prio preempt = r.2.onScriptCnt fun n => { n with
        requestLost := n.requestLost + 1 }) ∧
      (r.1 ≠ .invalid → (∀ p, r.1 ≠ .full p) → s.presentFrom script source prio preempt = r.2)) ∧
  (∀ (s : State) (q : Request),
    let e := s.script
    let same := fun x : Request => x.script = q.script ∧ x.source = q.source
    let after := fun l : List Request => (l.filter fun x => decide (q.prio ≤ x.prio)) ++ q :: l.filter fun x => decide (x.prio < q.prio)
    let place := fun l : List Request => l.countP fun x => decide (q.prio ≤ x.prio)
    ((e.dir[q.script]).valid = false → s.present q = (.invalid, s)) ∧
    ((e.dir[q.script]).valid = true →
      (e.running = none → s.present q = (.started, s.startRequest q)) ∧
      ∀ c, e.running = some c →
        let preempts := q.preempt = true ∧ c.prio < q.prio ∧ c.preemptible = true
        (preempts → s.present q = (.preempted c.script,
          ((s.onScriptCnt fun n => { n with preemptions := n.preemptions + 1 }).finishCore .aborted c.cur).startRequest q)) ∧
        (¬ preempts → ∀ before x behind, e.queue = before ++ x :: behind → (∀ y ∈ before, ¬ same y) → same x →
          s.present q = (.coalesced before.length, s.onScriptCnt fun n => { n with coalesced := n.coalesced + 1 })) ∧
        (¬ preempts → (∀ x ∈ e.queue, ¬ same x) → e.queue.Pairwise (fun a b => b.prio ≤ a.prio) →
          (e.queue.length < 8 → s.present q = (.queued (place e.queue), s.onScript fun x => { x with
            queue := after x.queue, cnt := { x.cnt with queued := x.cnt.queued + 1 } })) ∧
          (8 ≤ e.queue.length → ∀ higher low, e.queue = higher ++ [low] →
            (q.prio ≤ low.prio → s.present q = (.full low.prio, s)) ∧
            (low.prio < q.prio →
              let dropped := s.onScript fun x => { x with
                queue := higher, cnt := { x.cnt with displaced := x.cnt.displaced + 1 } }
              s.present q = (.displaced (place higher) low,
                (dropped.raiseNotice (.scriptDropped low.script low.source low.prio)).onScript fun x => { x with
                  queue := after higher, cnt := { x.cnt with queued := x.cnt.queued + 1 } })))))) ∧
  ∀ (r : Rec) (s : State), Passes r s →
    (Ready .powerRequest r s →
      (∀ b rest, r.body = b :: rest → 15 < b.toNat → Refuses .powerRequest s r .noSuch []) ∧
      ∀ (k : Fin 16) (rest : List Byte) (prio : Nat), r.body = BitVec.ofNat 8 k.val :: rest →
        (rest = [] → prio = (s.script.dir[k]).prio) → (∀ p, rest = [p] → prio = min 7 p.toNat) →
        let q : Request := ⟨k, .operator s.agent.op, prio, r.flags.getLsbD 0, s.clock.now⟩
        let taken := [BitVec.ofNat 8 prio, if q.preempt = true then 1 else 0]
        let after := (s.popRecord.present q).2
        ((s.popRecord.present q).1 = .invalid → Refuses .powerRequest s r .noSuch []) ∧
        ((s.popRecord.present q).1 = .started → Answers .powerRequest s r .ok (taken ++ [0]) after) ∧
        (∀ c, (s.popRecord.present q).1 = .preempted c →
          Answers .powerRequest s r .ok (taken ++ [1, BitVec.ofNat 8 c.val]) after) ∧
        (∀ n, (s.popRecord.present q).1 = .queued n → Answers .powerRequest s r .ok (taken ++ [2, BitVec.ofNat 8 n]) after) ∧
        (∀ n, (s.popRecord.present q).1 = .coalesced n → Answers .powerRequest s r .ok (taken ++ [3, BitVec.ofNat 8 n]) after) ∧
        (∀ n low, (s.popRecord.present q).1 = .displaced n low → Answers .powerRequest s r .ok (taken ++
          [4, BitVec.ofNat 8 n, BitVec.ofNat 8 low.script.val] ++ low.source.bytes ++ [BitVec.ofNat 8 low.prio]) after) ∧
        (∀ p, (s.popRecord.present q).1 = .full p → Refuses .powerRequest s r .busy (taken ++ [BitVec.ofNat 8 p]))) ∧
    (Ready .powerCancelRunning r s →
      (s.script.running = none → Refuses .powerCancelRunning s r .state []) ∧
      (∀ c, s.script.running = some c → Answers .powerCancelRunning s r .ok [BitVec.ofNat 8 c.script.val]
        (s.popRecord.finishScript .aborted c.cur))) ∧
    (Ready .powerCancelQueued r s → ∀ target script : Byte, r.body = [target, script] →
      (1 < target.toNat → Refuses .powerCancelQueued s r .range []) ∧
      (target = 1 → 15 < script.toNat → Refuses .powerCancelQueued s r .noSuch []) ∧
      (target = 1 → ∀ k : Fin 16, script.toNat = k.val →
        let n := s.script.queue.countP fun x => x.script == k
        Answers .powerCancelQueued s r .ok (natBytes 4 n) (s.popRecord.onScript fun e => { e with
          queue := e.queue.filter fun x => x.script != k
          cnt := { e.cnt with cancelled := e.cnt.cancelled + BitVec.ofNat 32 n } })))

/-- The actions, the waits, and the beginning of a step; an expiry off its occasion changes nothing: the model's choice
(notes/assumptions/1.md). -/
def Obligations.ScriptStepsAct : Prop :=
  (∀ (s : State) (c : Running), s.script.running = some c → c.wait = .acting →
    let counted := s.onScriptCnt fun n => { n with steps := n.steps + 1 }
    let next := fun t : State => Host.Outcome.next (t.goTo (c.cur + 1))
    let arg := BitVec.ofNat 16 c.step.arg
    (c.step.op = 1 → exec .stepPause s = next counted) ∧
    (c.step.op = 4 → exec .stepBootOpen s = next ((counted.onPower fun p => { p with
      window := some (s.clock.now + BitVec.ofNat 48 (c.step.arg * 1000000))
      cnt := { p.cnt with bootOpens := p.cnt.bootOpens + 1 } }).addMark .power 0xFF01)) ∧
    (c.step.op = 5 → s.power.window = none → exec .stepBootClose s = next counted) ∧
    (c.step.op = 5 → s.power.window ≠ none → exec .stepBootClose s = next (counted.closeWindow 0xFF00)) ∧
    (c.step.op = 6 → exec .stepHoldS s = next (State.flushHold (counted.onPorts fun x => { x with holdS := true }))) ∧
    (c.step.op = 7 → exec .stepReleaseS s = next (counted.onPorts fun x => { x with holdS := false })) ∧
    (c.step.op = 8 → exec .stepMark s = next (counted.addMark .power arg)) ∧
    (c.step.op = 9 → exec .stepNotify s = next (counted.raiseNotice (.scriptNote c.script c.cur arg))) ∧
    (c.step.op = 11 → exec .stepFail s = .next (counted.finishScript (.failed arg) c.cur)) ∧
    (c.step.op = 10 →
      ((∀ k : Fin 16, c.step.operand = k.val → (s.script.dir[k]).valid = false) ∨ 4 ≤ c.stack.length →
        exec .stepCall s = .next (counted.finishScript .fault c.cur)) ∧
      ∀ k : Fin 16, c.step.operand = k.val → (s.script.dir[k]).valid = true → c.stack.length < 4 →
        exec .stepCall s = .next (State.goTo (s.script.dir[k]).first (counted.onScript fun e => { e with
          running := some { c with stack := c.stack ++ [c.cur + 1] } }))) ∧
    (c.step.op = 0 →
      (c.stack = [] → exec .stepEnd s = .next (counted.finishScript .ok c.cur)) ∧
      ∀ outer back, c.stack = outer ++ [back] → exec .stepEnd s = .next (State.goTo back (counted.onScript fun e => { e with
        running := some { c with stack := outer } }))) ∧
    (c.step.op = 2 → exec .stepDrive s = .next (counted.presentDrive c))) ∧
  (∀ (s : State) (c : Running) (t : Time), s.script.running = some c →
    let due := (s.clock.now - t).toNat < 2 ^ 47
    (c.wait = .delaying t → (¬ due → exec .scriptDelayExpiry s = .next s) ∧
      (due → exec .scriptDelayExpiry s = .next (s.onScript fun e => { e with running := some { c with wait := .acting } }))) ∧
    (c.wait = .awaiting t → (¬ due → exec .awaitTimeout s = .next s) ∧
      (due → exec .awaitTimeout s = .next (State.goTo (c.cur + 2) (s.onScriptCnt fun n => { n with
        steps := n.steps + 1, awaitTimeouts := n.awaitTimeouts + 1 })))) ∧
    (c.wait = .guardWait t → (¬ due → exec .guardWaitExpiry s = .next s) ∧
      (due → exec .guardWaitExpiry s = .next (s.presentDrive c)))) ∧
  (∀ s : State,
    let e := s.sched.port.s
    let gone := e.queues[0].frames ++ e.queues[1].frames ++ e.queues[2].frames ++ e.queues[3].frames
    let flushed := (s.onEgress .s fun e => { e with
      queues := e.queues.map fun q => { q with frames := [], deficit := 0 }, visit := 3, granted := false }).onCnt .s fun n => { n with
        holdFlush := n.holdFlush + BitVec.ofNat 32 gone.length }
    (gone = [] → s.flushHold = flushed) ∧
    (gone ≠ [] → s.flushHold = flushed.returnCells (gone.map fun q => q.frame.cells).sum)) ∧
  (∀ (s : State) (code : Half),
    let closed := (s.onPower fun p => { p with
      window := none, cnt := { p.cnt with bootCloses := p.cnt.bootCloses + 1 } }).addMark .power code
    (s.power.window = none → s.closeWindow code = s) ∧
    (s.power.window ≠ none → s.closeWindow code =
      closed.endHeldWhere (fun h => (s.media.regions[h.unit]).cfg.bootOnly) .noUnit)) ∧
  (∀ (s : State) (i : Nat),
    (∀ t, s.beginStep 257 i = (t, none) → s.goTo i = t) ∧
    (∀ t o step, s.beginStep 257 i = (t, some (o, step)) → s.goTo i = t.finishScript o step) ∧
    ∀ more, s.beginStep (257 + more) i = s.beginStep 257 i) ∧
  ∀ (s : State) (c : Running) (fuel i : Nat), s.script.running = some c →
    (255 < i → s.beginStep (fuel + 1) i = (s, some (.fault, 255))) ∧
    ∀ k : Fin 256, i = k.val →
      let x := s.script.steps[k]
      let at' := fun w : Wait => s.onScript fun e => { e with running := some { c with cur := i, step := x, wait := w } }
      let level := fun j : Fin 4 => ((s.power.sense[j]).level).map fun v => if v = true then 1 else 0
      let met := ∃ j : Fin 4, x.operand = j.val ∧ level j = some x.arg
      (11 < x.op → s.beginStep (fuel + 1) i = (at' c.wait, some (.fault, i))) ∧
      (x.op ≤ 11 → x.op ≠ 3 → x.delay = 0 → s.beginStep (fuel + 1) i = (at' .acting, none)) ∧
      (x.op ≤ 11 → x.op ≠ 3 → x.delay ≠ 0 → s.beginStep (fuel + 1) i =
        (at' (.delaying (s.clock.now + BitVec.ofNat 48 (x.delay * 1000))), none)) ∧
      (x.op = 3 → met → s.beginStep (fuel + 1) i = State.beginStep fuel (i + 1) ((at' c.wait).onScriptCnt fun n => { n with
        steps := n.steps + 1 })) ∧
      (x.op = 3 → ¬ met → x.delay = 0 → s.beginStep (fuel + 1) i =
        State.beginStep fuel (i + 2) ((at' c.wait).onScriptCnt fun n => { n with
          steps := n.steps + 1, awaitTimeouts := n.awaitTimeouts + 1 })) ∧
      (x.op = 3 → ¬ met → x.delay ≠ 0 → s.beginStep (fuel + 1) i =
        (at' (.awaiting (s.clock.now + BitVec.ofNat 48 (x.delay * 1000))), none))

/-- Drives and the guard, the return to idle, and a finish with what it starts. That a finish counts no AWAIT it ends is the model's
choice (notes/assumptions/39.md, R156). -/
def Obligations.LinesDrivenAndReturned : Prop :=
  (∀ (s : State) (c : Running) (k : Fin 6), s.script.running = some c → c.step.operand = k.val → c.step.arg ≤ 1 →
    let v := c.step.arg == 1
    let l := s.power.lines[k]
    let counted := { s.power.cnt with drives := s.power.cnt.drives + 1 }
    let guarded := fun g : GuardRecord => k = 2 ∧ v = true ∧ s.power.guardRec = some g ∧ g.secs ≠ 0 ∧
      (s.clock.now - g.fall).toNat < g.secs * 1000000
    (∀ g, guarded g → s.presentDrive c = (s.onPower fun p => { p with
        cnt := { counted with guardHolds := p.cnt.guardHolds + 1 } }).onScript fun e => { e with
      running := some { c with wait := .guardWait (g.fall + BitVec.ofNat 48 (g.secs * 1000000)) } }) ∧
    ((∀ g, ¬ guarded g) → s.presentDrive c = State.goTo (c.cur + 1) (s.onPower fun p => { p with
      lines := p.lines.set k { l with level := v, byScript := v != l.idle }
      guardRec := if k = 2 ∧ l.level = true ∧ v = false then some ⟨s.clock.now, p.guardSecs⟩ else p.guardRec
      cnt := counted }))) ∧
  (∀ (p : PowerUnit) (k : Fin 6),
    ((p.lines[k]).cls = .latching → p.linesToIdle.lines[k] = p.lines[k]) ∧
    ((p.lines[k]).cls = .momentary →
      p.linesToIdle.lines[k] = { p.lines[k] with level := (p.lines[k]).idle, byScript := false }) ∧
    p.linesToIdle = { p with
      lines := p.linesToIdle.lines
      cnt := { p.cnt with drives := p.cnt.drives + BitVec.ofNat 32 ((List.finRange 6).countP fun j : Fin 6 =>
        (p.lines[j]).cls = .momentary ∧ (p.lines[j]).level ≠ (p.lines[j]).idle) } }) ∧
  ∀ (s : State) (c : Running) (o : ScriptOutcome) (step : Nat), s.script.running = some c →
    let ended := ((s.onPower PowerUnit.linesToIdle).onPorts fun x => { x with holdS := false }).onScript fun e => { e with
      running := none, last := some ⟨c.script, c.source, c.prio, o, step, c.start, s.clock.now⟩
      cnt := match o with
        | .ok => { e.cnt with finishedOk := e.cnt.finishedOk + 1 }
        | .failed _ => { e.cnt with finishedFailed := e.cnt.finishedFailed + 1 }
        | .fault => { e.cnt with finishedFault := e.cnt.finishedFault + 1 }
        | .aborted => { e.cnt with finishedAborted := e.cnt.finishedAborted + 1 } }
    s.finishCore o step = ended.raiseNotice (.scriptEnd c.script o step) ∧
    (s.script.queue = [] → s.finishScript o step = s.finishCore o step) ∧
    ∀ q rest, s.script.queue = q :: rest → s.finishScript o step =
      State.startRequest q ((s.finishCore o step).onScript fun e => { e with queue := rest })

/-- Levels of the sense lines before the part is in service change the pins only (R141). That they do so without supply too, that
an AWAIT is judged last, and that an expiry off its occasion changes nothing, are the model's choices (notes/assumptions/6.md,
27.md, 1.md). -/
def Obligations.SenseLinesDebounced : Prop :=
  (∀ (s : State) (k : Fin 4),
    (s.script.running = none → s.awaitLevel k = s) ∧
    ∀ c, s.script.running = some c →
      let met := (∃ t, c.wait = .awaiting t) ∧ c.step.operand = k.val ∧
        ((s.power.sense[k]).level.map fun v => if v = true then 1 else 0) = some c.step.arg
      (met → s.awaitLevel k = State.goTo (c.cur + 1) (s.onScriptCnt fun n => { n with steps := n.steps + 1 })) ∧
      (¬ met → s.awaitLevel k = s)) ∧
  (∀ (s : State) (k : Fin 4) (v : Bool),
    let x := s.power.sense[k]
    let moved := s.onPins fun p => { p with raw := p.raw.set k v }
    let due := s.clock.now + BitVec.ofNat 48 (x.debounce * 1000)
    let pend := fun w : SensePending => moved.onPower fun p => { p with sense := p.sense.set k { x with pending := w } }
    (s.pins.raw[k] = v → exec (.senseRawChange k v) s = .next s) ∧
    (s.pins.raw[k] ≠ v → s.phase = .off ∨ s.phase = .loading → exec (.senseRawChange k v) s = .next moved) ∧
    (s.pins.raw[k] ≠ v → s.phase = .running ∨ s.phase = .reloading →
      (x.level = none → x.debounce ≠ 0 → exec (.senseRawChange k v) s = .next (pend (.establishing due))) ∧
      (x.level = none → x.debounce = 0 → exec (.senseRawChange k v) s = .next (moved.establish k v)) ∧
      (x.level = some (!v) → x.debounce ≠ 0 → exec (.senseRawChange k v) s = .next (pend (.change due))) ∧
      (x.level = some (!v) → x.debounce = 0 → exec (.senseRawChange k v) s = .next (moved.raiseEdge k v)) ∧
      (∀ t, x.level = some v → x.pending = .change t → exec (.senseRawChange k v) s =
        .next ((pend .none).onPower fun p => { p with
          cnt := { p.cnt with glitches := p.cnt.glitches.set k (p.cnt.glitches[k] + 1) } })) ∧
      (x.level = some v → (∀ t, x.pending ≠ .change t) → exec (.senseRawChange k v) s = .next moved))) ∧
  (∀ (s : State) (k : Fin 4) (t : Time),
    let reached := (s.clock.now - t).toNat < 2 ^ 47
    let x := s.power.sense[k]
    (x.pending = .change t → (reached → exec (.senseChangeDue k) s = .next (s.raiseEdge k s.pins.raw[k])) ∧
      (¬ reached → exec (.senseChangeDue k) s = .next s)) ∧
    (x.pending = .establishing t → (reached → exec (.senseEstablishmentDue k) s = .next (s.establish k s.pins.raw[k])) ∧
      (¬ reached → exec (.senseEstablishmentDue k) s = .next s))) ∧
  (∀ (s : State) (k : Fin 4) (v : Bool),
    let took := fun t : State => t.onPower fun p => { p with
      sense := p.sense.set k { p.sense[k] with level := some v, pending := .none } }
    let counted := s.onPower fun p => { p with cnt := if v = true
      then { p.cnt with rises := p.cnt.rises.set k (p.cnt.rises[k] + 1) }
      else { p.cnt with falls := p.cnt.falls.set k (p.cnt.falls[k] + 1) } }
    let state := fun t : State => if k = 0 then t.setPowerState (if v = true then .on else .off) else t
    s.raiseEdge k v = ((List.finRange 8).foldl (State.matchTrigger k v) (state (took counted))).awaitLevel k ∧
    s.establish k v = (state (took s)).awaitLevel k) ∧
  (∀ (s : State) (new : PowerState),
    (s.power.state = new → s.setPowerState new = s) ∧
    (s.power.state ≠ new → s.setPowerState new = State.raiseNotice (.powerState s.power.state new)
      ((s.onPower fun p => { p with
        state := new, stateAt := s.clock.now, cnt := { p.cnt with stateChanges := p.cnt.stateChanges + 1 } }).addMark
          .powerState (if new = .on then 1 else 0)))) ∧
  (∀ (s : State) (k : Fin 4) (v : Bool) (n : Fin 8),
    let e := s.power.triggers[n]
    let hit := e.valid = true ∧ e.line = k.val ∧ ((e.edge = 0 ∧ v = true) ∨ (e.edge = 1 ∧ v = false) ∨ e.edge = 2)
    (¬ hit → s.matchTrigger k v n = s) ∧
    (hit → s.matchTrigger k v n = (s.onPower fun p => { p with
      triggers := p.triggers.set n { e with hits := e.hits + 1 } }).presentFrom e.script (.trigger n) e.prio e.preempt)) ∧
  ∀ s : State,
    (s.power.window = none → exec .bootWindowExpiry s = .next s) ∧
    ∀ t, s.power.window = some t →
      let closed := (s.onPower fun p => { p with window := none, cnt := { p.cnt with bootCloses := p.cnt.bootCloses + 1 } }).addMark
        .power 0xFF02
      (2 ^ 47 ≤ (s.clock.now - t).toNat → exec .bootWindowExpiry s = .next s) ∧
      ((s.clock.now - t).toNat < 2 ^ 47 → exec .bootWindowExpiry s =
        .next (closed.endHeldWhere (fun h => (s.media.regions[h.unit]).cfg.bootOnly) .noUnit))

/-! ### Time base, statistics, store, restart and start-up -/

/-- The epoch seconds of a TIME_SET take five bytes, so no body carries a value above 2^40 - 1. That an advance of the anchor off
its occasion changes nothing is the model's choice (notes/assumptions/1.md). -/
def Obligations.TimeAndStatistics : Prop :=
  (∀ (r : Rec) (s : State) (v : Nat), Ready .timeSet r s → Passes r s → v < 2 ^ 40 → r.body = natBytes 5 v →
    Answers .timeSet s r .ok (1 :: natBytes 5 v ++ natBytes 6 s.clock.now.toNat)
      (s.popRecord.onClock fun c => ⟨c.now, some ⟨v, c.now⟩⟩)) ∧
  (∀ c : Clock, (c.anchor = none → c.epoch = none) ∧
    ∀ a, c.anchor = some a → c.epoch = some ((a.value + (c.now - a.at').toNat / 1000000) % 2 ^ 40)) ∧
  (∀ s : State,
    (s.clock.anchor = none → exec .epochAnchorAdvance s = .next s) ∧
    ∀ a, s.clock.anchor = some a →
      let gone := (s.clock.now - a.at').toNat
      let k := gone / 1000000
      let moved : Clock := ⟨s.clock.now, some ⟨(a.value + k) % 2 ^ 40, a.at' + BitVec.ofNat 48 (k * 1000000)⟩⟩
      (gone < 2 ^ 46 → exec .epochAnchorAdvance s = .next s) ∧
      (2 ^ 46 ≤ gone → exec .epochAnchorAdvance s = .next (s.onClock fun _ => moved) ∧ moved.epoch = s.clock.epoch)) ∧
  (∀ (r : Rec) (s : State) (b : Byte), Ready .statsReadClear r s → Passes r s → r.body = [b] →
    (b.toNat = 0 ∨ 9 < b.toNat → Refuses .statsReadClear s r .noSuch []) ∧
    ∀ g, Group.ofCode b.toNat = some g →
      Answers .statsReadClear s r .ok (b :: natBytes 6 s.clock.now.toNat ++ [1] ++ s.groupBytes g) (s.popRecord.clearGroup g)) ∧
  ((List.range 10).map Group.ofCode = [none, some .portU, some .portS, some .steering, some .meters, some .pool, some .agent,
    some .console, some .media, some .power]) ∧
  ∀ s : State,
    (s.clearGroup .portU = s.onPorts fun x => { x with cnt := { x.cnt with u := {} } }) ∧
    (s.clearGroup .portS = s.onPorts fun x => { x with cnt := { x.cnt with s := {} } }) ∧
    (s.clearGroup .steering = { s with steer := s.steer.map fun e => { e with hits := 0 } }) ∧
    (s.clearGroup .meters = s.onMeters fun x => { x with bank := x.bank.map fun m => { m with conform := 0, exceed := 0 } }) ∧
    (s.clearGroup .pool = s.onPool fun p => { p with
      cacheAlloc := 0, cacheEvict := 0, cacheAllocFail := 0, ceilingEvict := 0, lowFree := p.free }) ∧
    (s.clearGroup .agent = s.onAgent fun a => { a with cnt := {} }) ∧
    (s.clearGroup .console = (s.onLine fun l => { l with cnt := {} }).onHist fun h => { h with
      cnt := {}, patterns := h.patterns.map fun p => { p with hits := 0 } }) ∧
    (s.clearGroup .media = s.onMedia fun m => { m with blk := {}, xfer := {} }) ∧
    (s.clearGroup .power = (s.onPower fun p => { p with
      cnt := {}, triggers := p.triggers.map fun x => { x with hits := 0 } }).onScript fun e => { e with cnt := {} })

/-- No run makes tables whose image is too long, so RANGE is met only in states that no run reaches.
That a store erases the magic value as it is accepted, and that a failed one leaves it erased, that the length in the reply counts
the records without the header, that it goes in 4 bytes, and that a completion off its occasion changes nothing, are the model's
choices (notes/assumptions/29.md, 30.md, 14.md, 1.md). -/
def Obligations.StoreBuildsAndEnds : Prop :=
  (∀ (r : Rec) (s : State), Ready .store r s → Passes r s →
    let size := if s.loader.straps.eeLarge = true then 32768 else 8192
    let image := s.popRecord.imageBytes
    (s.loader.store ≠ .idle → Refuses .store s r .busy []) ∧
    (s.loader.store = .idle → size < 12 + image.length → Refuses .store s r .range []) ∧
    (s.loader.store = .idle → 12 + image.length ≤ size → Answers .store s r .ok (natBytes 4 image.length)
      (s.popRecord.onLoader fun l => { l with
        store := .inProgress image, eeprom := { l.eeprom with magic := none } }))) ∧
  (∀ s : State,
    let stored := fun (t : TableId) (i : Nat) =>
      match s.entryBytes t i, State.reset.entryBytes t i with
      | some e, some f => if f = e then [] else natBytes 2 (4 + e.length) ++ natBytes 1 t.code ++ natBytes 1 i ++ e
      | some e, none => natBytes 2 (4 + e.length) ++ natBytes 1 t.code ++ natBytes 1 i ++ e
      | none, _ => []
    let table := fun t : TableId => ((List.range t.entries).map (stored t)).flatten
    let admin := fun i : Fin 8 => (s.operators[i]).valid && (s.operators[i]).privs.admin
    let operators := fun b : Bool => (((List.finRange 8).filter fun i => admin i == b).map fun i => stored .operator i.val).flatten
    s.imageBytes = table .port ++ table .domain ++ table .pcpMap ++ table .queue ++ table .pool ++ table .meter ++
      table .steering ++ operators true ++ operators false ++ table .console ++ table .pattern ++ table .region ++
      table .mediaParams ++ table .line ++ table .sense ++ table .senseTrigger ++ table .scriptDir ++ table .scriptStep) ∧
  ∀ (s : State) (agreed : Bool),
    (s.loader.store = .idle → exec (.storeComplete agreed) s = .next s) ∧
    ∀ image, s.loader.store = .inProgress image →
      Notifies (.storeComplete true) s (s.onLoader fun l => { l with
        store := .idle
        image := { l.image with eeprom := .stored }
        eeprom := ⟨some 0x4B485449, image.length, BitVec.ofNat 32 (image.map BitVec.toNat).sum, image⟩ }) (.storeDone true) ∧
      Notifies (.storeComplete false) s (s.onLoader fun l => { l with
        store := .idle, image := { l.image with eeprom := .invalid } }) (.storeDone false)

/-- The commands at the edges of RESTART: the record judged and accepted, the clearing, and the end of the reload. That the reload
is applied in one step, that the attaches begin in index order, that a wait for CTS ends, that the number of dirty lines in the
reply goes in 4 bytes, and that a command off its occasion changes nothing are the model's choices (notes/assumptions/31.md, 39.md,
25.md, 14.md, 1.md). -/
def Obligations.RestartJudgedClearedAndReloaded : Prop :=
  (∀ (r : Rec) (s : State), Ready .restart r s → Passes r s →
    (s.media.dirtyCount ≠ 0 → Refuses .restart s r .dirty []) ∧
    (s.media.dirtyCount = 0 → s.script.running ≠ none ∨ s.loader.store ≠ .idle →
      Refuses .restart s r .busy []) ∧
    (s.media.dirtyCount = 0 → s.script.running = none → s.loader.store = .idle → exec .restart s =
      .next ((s.popRecord.pack ⟨r.type, r.tag, .ok, [0] ++ natBytes 4 0 ++ [0] ++ [0]⟩).acceptRestart false))) ∧
  (∀ (r : Rec) (s : State), Ready .restartForce r s → Passes r s → exec .restartForce s =
    .next ((s.popRecord.pack ⟨r.type, r.tag, .ok, [1] ++ natBytes 4 s.media.dirtyCount ++
      [if s.script.running = none then 0 else 1] ++ [if s.loader.store = .idle then 0 else 1]⟩).acceptRestart true)) ∧
  (∀ (s : State) (force : Bool), s.agent.state ≠ .restartPending →
    let accepted := s.onAgent fun a => { a with todo := [], trailing := none, restartForce := force, restartAccepted := true }
    let left (t : State) : State := match t.agent.inbox with
      | [] => t
      | f :: rest => (t.onAgent fun a => { a with inbox := rest }).returnCells f.cells
    let ended (t : State) : State := (left (t.closeOpen false .restartReply)).onAgent fun a => { a with
      state := .restartPending, restartAccepted := false, restartGone := false }
    let placed (t : State) : State := t.onAgent fun a => { a with
      closed := a.closed.drop 1, lastPlaced := .reply, cnt := { a.cnt with replyFrames := a.cnt.replyFrames + 1 } }
    (s.agent.closed = [] → s.acceptRestart force = (ended accepted).advance) ∧
    ∀ f, s.agent.closed = [f] →
      (accepted.placeOut .agent f = none → s.acceptRestart force = accepted.enterWaiting) ∧
      (∀ t, accepted.placeOut .agent f = some t → s.acceptRestart force = (ended (placed t)).advance)) ∧
  (∀ (s : State) (force : Bool), s.agent.closed = [] → s.agent.state ≠ .restartPending →
    let t := s.acceptRestart force
    t.agent.todo = [] ∧ t.agent.trailing = none ∧ t.agent.openReplies = [] ∧ t.agent.state = .restartPending ∧
    t.agent.restartForce = force ∧ t.agent.restartAccepted = false ∧ t.agent.inbox = s.agent.inbox.drop 1) ∧
  (∀ (s : State) (f : Frame) (rest : List Frame), s.agent.state = .restartPending → s.agent.inbox = f :: rest →
    exec .agentTakeFrame s = .next s) ∧
  (∀ s : State, ¬ (s.phase = .running ∧ s.agent.state = .restartPending ∧ s.agent.restartGone = true) →
    exec .restartBegin s = .next s) ∧
  (∀ s : State, s.phase = .running → s.agent.state = .restartPending → s.agent.restartGone = true →
    ∃ t, exec .restartBegin s = .next t ∧ t.phase = .reloading ∧ t.pending = s.pending ∧ t.pins = s.pins ∧ t.clock = s.clock ∧
      t.loader = { s.loader with
        store := .idle
        image := { s.loader.image with
          eeprom := if s.loader.store = .idle then s.loader.image.eeprom else .invalid }
        start := ⟨.restart, s.agent.restartForce, s.media.dirtyCount, s.script.running.isSome, s.loader.store != .idle⟩ } ∧
      t.ports = { State.reset.ports with link := s.ports.link, holdS := s.ports.holdS && s.script.running.isNone } ∧
      t.dom = State.reset.dom ∧ t.steer = State.reset.steer ∧ t.pcp = State.reset.pcp ∧ t.pool = State.reset.pool ∧
      t.meters = Factory.meters s.clock.now ∧ t.sched = State.reset.sched ∧ t.agentOut = ⟨[], .idle⟩ ∧
      t.mediaOut = ⟨[], .idle⟩ ∧ t.operators = State.reset.operators ∧
      t.agent.inbox = [] ∧ t.agent.state = .restartPending ∧ t.agent.closed = [] ∧ t.agent.lastPlaced = .reply ∧
      t.agent.cnt = {} ∧
      t.line.set = State.reset.line.set ∧ t.line.fifo = [] ∧ t.line.owner = none ∧ t.line.rts = s.line.rts ∧
      t.line.ctsCounted = false ∧
      (s.line.state = .running → t.line.rx = s.line.rx) ∧
      (∀ ms c since, s.line.tx = .brk ms c since → t.line.tx = .gap c.cycles s.clock.now) ∧
      ((∀ ms c since, s.line.tx ≠ .brk ms c since) → t.line.tx = s.line.tx) ∧
      t.line.state = .running ∧ t.line.cnt = {} ∧
      t.hist = { State.reset.hist with ring := s.hist.ring, newest := s.hist.newest } ∧
      t.media = { State.reset.media with table := s.media.table.map fun e => { e with use := none } } ∧
      (∀ k : Fin 6, t.power.lines[k] = { s.power.lines[k] with
        cls := (State.reset.power.lines[k]).cls
        idle := (State.reset.power.lines[k]).idle
        level := if s.script.running ≠ none ∧ (s.power.lines[k]).cls = .momentary then (s.power.lines[k]).idle
          else (s.power.lines[k]).level
        byScript := (s.power.lines[k]).byScript && !(s.script.running.isSome && (s.power.lines[k]).cls == .momentary) }) ∧
      t.power.guardRec = s.power.guardRec ∧ t.power.guardSecs = 10 ∧ t.power.window = none ∧
      (∀ k : Fin 4, t.power.sense[k] = { s.power.sense[k] with debounce := 20 }) ∧
      t.power.state = s.power.state ∧ t.power.stateAt = s.power.stateAt ∧
      t.power.triggers = State.reset.power.triggers ∧ t.power.cnt = {} ∧
      t.script.dir = State.reset.script.dir ∧ t.script.steps = State.reset.script.steps ∧ t.script.running = none ∧
      t.script.queue = [] ∧ t.script.cnt = {} ∧
      t.script.last = match s.script.running with
        | none => s.script.last
        | some c => some ⟨c.script, c.source, c.prio, .aborted, c.cur, c.start, s.clock.now⟩) ∧
  ∀ (s : State) (ack : EepromAck),
    (s.phase ≠ .reloading → exec (.restartReloadDone ack) s = .next s) ∧
    (s.phase = .reloading → exec (.restartReloadDone ack) s =
      .next (((((s.loadTables ack).addMark .restart (if s.loader.start.force = true then 1 else 0)).setPhase
        .running).autoAttachAll).onAgent fun a => { a with state := .idle, restartForce := false, restartGone := false }))

/-- The straps and the EEPROM are the outside's (notes/assumptions/4.md), and so are the levels on the pins, which POWER_ON keeps
(notes/assumptions/5.md); the image is applied in one step
(notes/assumptions/31.md); what a powered-off part keeps in this model is notes/assumptions/6.md; a DOMAIN record of a wrong form
is skipped alone, and does not fix the place of the group, which is that of the first of the right form (notes/assumptions/32.md); regions begin their attaches in index order (notes/assumptions/39.md); an end of the
load off its occasion changes nothing (notes/assumptions/1.md). -/
def Obligations.PowerOnAndLoading : Prop :=
  (∀ (s : State) (straps : Straps),
    exec (.powerOn straps) s = .next { State.reset with
      pending := s.pending, pins := s.pins
      loader := { State.reset.loader with straps := straps, eeprom := s.loader.eeprom } } ∧
    exec .powerLoss s = .next { State.reset with
      pending := s.pending, pins := s.pins, phase := .off
      loader := { State.reset.loader with straps := s.loader.straps, eeprom := s.loader.eeprom } }) ∧
  (∀ (s : State) (ack : EepromAck),
    (s.phase ≠ .loading → exec (.loaderDone ack) s = .next s) ∧
    (s.phase = .loading → exec (.loaderDone ack) s = .next ((s.loadTables ack).completeStart))) ∧
  (∀ (s : State) (ack : EepromAck),
    let e := s.loader.eeprom
    let size := if s.loader.straps.eeLarge = true then 32768 else 8192
    let good := e.magic = some 0x4B485449 ∧ e.length ≠ 0 ∧ 12 + e.length ≤ size ∧
      BitVec.ofNat 32 ((e.records.take e.length).map BitVec.toNat).sum = e.sum
    let factory := fun src : ImageSource => s.onLoader fun l => { l with image := ⟨src, 0, 0, 0, .asLoaded⟩ }
    (s.loader.straps.loaderOff = true → s.loadTables ack = factory .loaderOff) ∧
    (s.loader.straps.loaderOff = false → ack = .absent → s.loadTables ack = factory .noEeprom) ∧
    (s.loader.straps.loaderOff = false → ack = .stopped ∨ (ack = .complete ∧ ¬ good) → s.loadTables ack = factory .invalid) ∧
    (s.loader.straps.loaderOff = false → ack = .complete → good →
      s.loadTables ack = s.applyImage.state.onLoader fun l => { l with
        image := ⟨.image, e.length, s.applyImage.applied, s.applyImage.skipped, .asLoaded⟩ })) ∧
  (let spelled := fun r : ImageRecord => natBytes 2 (4 + r.entry.length) ++ natBytes 1 r.table ++ natBytes 1 r.index ++ r.entry;
    let fits := fun r : ImageRecord => r.table < 256 ∧ r.index < 256 ∧ 4 + r.entry.length < 65536;
    ∀ (rs : List ImageRecord) (rest : List Byte) (n : Nat), (∀ r ∈ rs, fits r) →
      let all := (rs.map spelled).flatten ++ rest
      all.length ≤ n →
      (rest = [] → imageWalk n all = (rs, 0)) ∧
      (rest ≠ [] → fieldAt 0 2 rest < 4 ∨ rest.length < fieldAt 0 2 rest → imageWalk n all = (rs, 1))) ∧
  (∀ s : State,
    let records := s.loader.eeprom.records.take s.loader.eeprom.length
    let w := imageWalk records.length records
    s.applyImage = w.1.foldl (Load.step w.1) ⟨0, w.2, false, s⟩) ∧
  (∀ (l : Load) (all : List ImageRecord) (r : ImageRecord), r.table = 1 →
    let form := fun r : ImageRecord => r.table = 1 ∧ ((r.index < 16 ∧ r.entry.length = 5) ∨ (r.index = 16 ∧ r.entry.length = 1))
    let group := all.filter fun r => decide (form r)
    let last := fun i : Nat => (group.filter fun r => r.index == i).getLast?
    let skipped := { l with domainsMet := true, skipped := l.skipped + group.length }
    (¬ form r → l.step all r = { l with skipped := l.skipped + 1 }) ∧
    (form r → l.domainsMet = true → l.step all r = l) ∧
    (form r → l.domainsMet = false → (∃ x, last 16 = some x ∧ 15 < fieldAt 0 1 x.entry) → l.step all r = skipped) ∧
    ∀ d : Domains, form r → l.domainsMet = false → DomainsSound l.state →
      (∀ i : Fin 16, d.entries[i] = match last i.val with
        | none => State.reset.dom.entries[i]
        | some x => readDomain x.entry) →
      d.mgmt.val = (match last 16 with | none => 0 | some x => fieldAt 0 1 x.entry) →
      let sound := DomainVids d ∧ ManagementProtected d ∧ RewritesSound d l.state.steer ∧ ImageDomainsSound d l.state.media.regions
      (sound → l.step all r = { l with
        domainsMet := true, applied := l.applied + group.length, state := { l.state with dom := d } }) ∧
      (¬ sound → l.step all r = skipped)) ∧
  (∀ (l : Load) (all : List ImageRecord) (r : ImageRecord), r.table ≠ 1 →
    (∀ t, TableId.ofCode r.table = some t → t.entryForm r.index r.entry = true →
      (∀ s1, l.state.writeEntry t r.index r.entry = .ok s1 →
        l.step all r = { l with applied := l.applied + 1, state := s1 }) ∧
      (∀ st, l.state.writeEntry t r.index r.entry = .error st → l.step all r = { l with skipped := l.skipped + 1 })) ∧
    (TableId.ofCode r.table = none → l.step all r = { l with skipped := l.skipped + 1 }) ∧
    (∀ t, TableId.ofCode r.table = some t → t.entryForm r.index r.entry = false →
      l.step all r = { l with skipped := l.skipped + 1 })) ∧
  (∀ (s : State) (k : Fin 4), (s.power.sense[k]).debounce = 0 → s.beginSensing k = s.establish k s.pins.raw[k]) ∧
  (∀ (s : State) (g : Fin 4),
    let begins := (s.media.regions[g]).cfg.valid = true ∧ (s.media.regions[g]).cfg.autoAttach = true ∧
      (s.media.regions[g]).state = .detached
    (begins → s.autoAttach g = s.beginAttach g) ∧ (¬ begins → s.autoAttach g = s)) ∧
  (∀ (s : State) (k : Fin 4), (s.power.sense[k]).debounce ≠ 0 → s.beginSensing k = s.onPower fun p => { p with
    sense := p.sense.set k { p.sense[k] with
      pending := .establishing (s.clock.now + BitVec.ofNat 48 ((s.power.sense[k]).debounce * 1000)) } }) ∧
  (∀ (s : State) (p : Port),
    (s.pins.phy.get p = none → s.takePhy p = s) ∧
    ∀ speed, s.pins.phy.get p = some speed → s.takePhy p = (s.onPorts fun x => { x with
      link := x.link.set p (some speed) }).onCnt p fun n => { n with linkChanges := n.linkChanges + 1 }) ∧
  (∀ s : State,
    let driven := s.onPower fun p => { p with
      lines := p.lines.map fun l => { l with level := l.idle, driven := true, byScript := false } }
    let sensed := (((driven.beginSensing 0).beginSensing 1).beginSensing 2).beginSensing 3
    let running : State := { (((sensed.takePhy .u).takePhy .s).onLine fun l => { l with rts := true }) with phase := .running }
    s.completeStart = ((((running.autoAttach 0).autoAttach 1).autoAttach 2).autoAttach 3).onLoader fun l => { l with
      start := ⟨.powerOn, false, 0, false, false⟩ }) ∧
  ∀ (s : State), s.ports.link = ⟨none, none⟩ → (∀ g : Fin 4, (s.media.regions[g]).cfg.valid = false) →
    (∀ k : Fin 4, (s.power.sense[k]).debounce ≠ 0) →
    ∃ t, s.completeStart = t ∧ t.phase = .running ∧ t.line.rts = true ∧ t.ports.link = s.pins.phy ∧
      t.loader = { s.loader with start := ⟨.powerOn, false, 0, false, false⟩ } ∧
      (∀ k : Fin 6, t.power.lines[k] =
        { s.power.lines[k] with level := (s.power.lines[k]).idle, driven := true, byScript := false }) ∧
      (∀ k : Fin 4, t.power.sense[k] = { s.power.sense[k] with
        pending := .establishing (s.clock.now + BitVec.ofNat 48 ((s.power.sense[k]).debounce * 1000)) }) ∧
      t.media = s.media ∧ t.hist = s.hist ∧ t.agent = s.agent
end

