-- ==== Sys2Proof/Laws/State.lean ====
section
/-! SUPPORT. What each change of one block does to each field of the state: one lemma for each field and update. -/

namespace Sys2Proof.Machine

variable (s : State)

@[simp] theorem State.setPhase_pending (p : Phase) : (s.setPhase p).pending = s.pending := rfl
@[simp] theorem State.setPhase_phase (p : Phase) : (s.setPhase p).phase = p := rfl
@[simp] theorem State.setPhase_pins (p : Phase) : (s.setPhase p).pins = s.pins := rfl
@[simp] theorem State.setPhase_clock (p : Phase) : (s.setPhase p).clock = s.clock := rfl
@[simp] theorem State.setPhase_loader (p : Phase) : (s.setPhase p).loader = s.loader := rfl
@[simp] theorem State.setPhase_ports (p : Phase) : (s.setPhase p).ports = s.ports := rfl
@[simp] theorem State.setPhase_dom (p : Phase) : (s.setPhase p).dom = s.dom := rfl
@[simp] theorem State.setPhase_steer (p : Phase) : (s.setPhase p).steer = s.steer := rfl
@[simp] theorem State.setPhase_pcp (p : Phase) : (s.setPhase p).pcp = s.pcp := rfl
@[simp] theorem State.setPhase_pool (p : Phase) : (s.setPhase p).pool = s.pool := rfl
@[simp] theorem State.setPhase_meters (p : Phase) : (s.setPhase p).meters = s.meters := rfl
@[simp] theorem State.setPhase_sched (p : Phase) : (s.setPhase p).sched = s.sched := rfl
@[simp] theorem State.setPhase_agentOut (p : Phase) : (s.setPhase p).agentOut = s.agentOut := rfl
@[simp] theorem State.setPhase_mediaOut (p : Phase) : (s.setPhase p).mediaOut = s.mediaOut := rfl
@[simp] theorem State.setPhase_agent (p : Phase) : (s.setPhase p).agent = s.agent := rfl
@[simp] theorem State.setPhase_operators (p : Phase) : (s.setPhase p).operators = s.operators := rfl
@[simp] theorem State.setPhase_line (p : Phase) : (s.setPhase p).line = s.line := rfl
@[simp] theorem State.setPhase_hist (p : Phase) : (s.setPhase p).hist = s.hist := rfl
@[simp] theorem State.setPhase_media (p : Phase) : (s.setPhase p).media = s.media := rfl
@[simp] theorem State.setPhase_power (p : Phase) : (s.setPhase p).power = s.power := rfl
@[simp] theorem State.setPhase_script (p : Phase) : (s.setPhase p).script = s.script := rfl

@[simp] theorem State.onPins_pending (f : Pins → Pins) : (s.onPins f).pending = s.pending := rfl
@[simp] theorem State.onPins_phase (f : Pins → Pins) : (s.onPins f).phase = s.phase := rfl
@[simp] theorem State.onPins_pins (f : Pins → Pins) : (s.onPins f).pins = f s.pins := rfl
@[simp] theorem State.onPins_clock (f : Pins → Pins) : (s.onPins f).clock = s.clock := rfl
@[simp] theorem State.onPins_loader (f : Pins → Pins) : (s.onPins f).loader = s.loader := rfl
@[simp] theorem State.onPins_ports (f : Pins → Pins) : (s.onPins f).ports = s.ports := rfl
@[simp] theorem State.onPins_dom (f : Pins → Pins) : (s.onPins f).dom = s.dom := rfl
@[simp] theorem State.onPins_steer (f : Pins → Pins) : (s.onPins f).steer = s.steer := rfl
@[simp] theorem State.onPins_pcp (f : Pins → Pins) : (s.onPins f).pcp = s.pcp := rfl
@[simp] theorem State.onPins_pool (f : Pins → Pins) : (s.onPins f).pool = s.pool := rfl
@[simp] theorem State.onPins_meters (f : Pins → Pins) : (s.onPins f).meters = s.meters := rfl
@[simp] theorem State.onPins_sched (f : Pins → Pins) : (s.onPins f).sched = s.sched := rfl
@[simp] theorem State.onPins_agentOut (f : Pins → Pins) : (s.onPins f).agentOut = s.agentOut := rfl
@[simp] theorem State.onPins_mediaOut (f : Pins → Pins) : (s.onPins f).mediaOut = s.mediaOut := rfl
@[simp] theorem State.onPins_agent (f : Pins → Pins) : (s.onPins f).agent = s.agent := rfl
@[simp] theorem State.onPins_operators (f : Pins → Pins) : (s.onPins f).operators = s.operators := rfl
@[simp] theorem State.onPins_line (f : Pins → Pins) : (s.onPins f).line = s.line := rfl
@[simp] theorem State.onPins_hist (f : Pins → Pins) : (s.onPins f).hist = s.hist := rfl
@[simp] theorem State.onPins_media (f : Pins → Pins) : (s.onPins f).media = s.media := rfl
@[simp] theorem State.onPins_power (f : Pins → Pins) : (s.onPins f).power = s.power := rfl
@[simp] theorem State.onPins_script (f : Pins → Pins) : (s.onPins f).script = s.script := rfl

@[simp] theorem State.onClock_pending (f : Clock → Clock) : (s.onClock f).pending = s.pending := rfl
@[simp] theorem State.onClock_phase (f : Clock → Clock) : (s.onClock f).phase = s.phase := rfl
@[simp] theorem State.onClock_pins (f : Clock → Clock) : (s.onClock f).pins = s.pins := rfl
@[simp] theorem State.onClock_clock (f : Clock → Clock) : (s.onClock f).clock = f s.clock := rfl
@[simp] theorem State.onClock_loader (f : Clock → Clock) : (s.onClock f).loader = s.loader := rfl
@[simp] theorem State.onClock_ports (f : Clock → Clock) : (s.onClock f).ports = s.ports := rfl
@[simp] theorem State.onClock_dom (f : Clock → Clock) : (s.onClock f).dom = s.dom := rfl
@[simp] theorem State.onClock_steer (f : Clock → Clock) : (s.onClock f).steer = s.steer := rfl
@[simp] theorem State.onClock_pcp (f : Clock → Clock) : (s.onClock f).pcp = s.pcp := rfl
@[simp] theorem State.onClock_pool (f : Clock → Clock) : (s.onClock f).pool = s.pool := rfl
@[simp] theorem State.onClock_meters (f : Clock → Clock) : (s.onClock f).meters = s.meters := rfl
@[simp] theorem State.onClock_sched (f : Clock → Clock) : (s.onClock f).sched = s.sched := rfl
@[simp] theorem State.onClock_agentOut (f : Clock → Clock) : (s.onClock f).agentOut = s.agentOut := rfl
@[simp] theorem State.onClock_mediaOut (f : Clock → Clock) : (s.onClock f).mediaOut = s.mediaOut := rfl
@[simp] theorem State.onClock_agent (f : Clock → Clock) : (s.onClock f).agent = s.agent := rfl
@[simp] theorem State.onClock_operators (f : Clock → Clock) : (s.onClock f).operators = s.operators := rfl
@[simp] theorem State.onClock_line (f : Clock → Clock) : (s.onClock f).line = s.line := rfl
@[simp] theorem State.onClock_hist (f : Clock → Clock) : (s.onClock f).hist = s.hist := rfl
@[simp] theorem State.onClock_media (f : Clock → Clock) : (s.onClock f).media = s.media := rfl
@[simp] theorem State.onClock_power (f : Clock → Clock) : (s.onClock f).power = s.power := rfl
@[simp] theorem State.onClock_script (f : Clock → Clock) : (s.onClock f).script = s.script := rfl

@[simp] theorem State.onPorts_pending (f : Ports → Ports) : (s.onPorts f).pending = s.pending := rfl
@[simp] theorem State.onPorts_phase (f : Ports → Ports) : (s.onPorts f).phase = s.phase := rfl
@[simp] theorem State.onPorts_pins (f : Ports → Ports) : (s.onPorts f).pins = s.pins := rfl
@[simp] theorem State.onPorts_clock (f : Ports → Ports) : (s.onPorts f).clock = s.clock := rfl
@[simp] theorem State.onPorts_loader (f : Ports → Ports) : (s.onPorts f).loader = s.loader := rfl
@[simp] theorem State.onPorts_ports (f : Ports → Ports) : (s.onPorts f).ports = f s.ports := rfl
@[simp] theorem State.onPorts_dom (f : Ports → Ports) : (s.onPorts f).dom = s.dom := rfl
@[simp] theorem State.onPorts_steer (f : Ports → Ports) : (s.onPorts f).steer = s.steer := rfl
@[simp] theorem State.onPorts_pcp (f : Ports → Ports) : (s.onPorts f).pcp = s.pcp := rfl
@[simp] theorem State.onPorts_pool (f : Ports → Ports) : (s.onPorts f).pool = s.pool := rfl
@[simp] theorem State.onPorts_meters (f : Ports → Ports) : (s.onPorts f).meters = s.meters := rfl
@[simp] theorem State.onPorts_sched (f : Ports → Ports) : (s.onPorts f).sched = s.sched := rfl
@[simp] theorem State.onPorts_agentOut (f : Ports → Ports) : (s.onPorts f).agentOut = s.agentOut := rfl
@[simp] theorem State.onPorts_mediaOut (f : Ports → Ports) : (s.onPorts f).mediaOut = s.mediaOut := rfl
@[simp] theorem State.onPorts_agent (f : Ports → Ports) : (s.onPorts f).agent = s.agent := rfl
@[simp] theorem State.onPorts_operators (f : Ports → Ports) : (s.onPorts f).operators = s.operators := rfl
@[simp] theorem State.onPorts_line (f : Ports → Ports) : (s.onPorts f).line = s.line := rfl
@[simp] theorem State.onPorts_hist (f : Ports → Ports) : (s.onPorts f).hist = s.hist := rfl
@[simp] theorem State.onPorts_media (f : Ports → Ports) : (s.onPorts f).media = s.media := rfl
@[simp] theorem State.onPorts_power (f : Ports → Ports) : (s.onPorts f).power = s.power := rfl
@[simp] theorem State.onPorts_script (f : Ports → Ports) : (s.onPorts f).script = s.script := rfl

@[simp] theorem State.onDom_pending (f : Domains → Domains) : (s.onDom f).pending = s.pending := rfl
@[simp] theorem State.onDom_phase (f : Domains → Domains) : (s.onDom f).phase = s.phase := rfl
@[simp] theorem State.onDom_pins (f : Domains → Domains) : (s.onDom f).pins = s.pins := rfl
@[simp] theorem State.onDom_clock (f : Domains → Domains) : (s.onDom f).clock = s.clock := rfl
@[simp] theorem State.onDom_loader (f : Domains → Domains) : (s.onDom f).loader = s.loader := rfl
@[simp] theorem State.onDom_ports (f : Domains → Domains) : (s.onDom f).ports = s.ports := rfl
@[simp] theorem State.onDom_dom (f : Domains → Domains) : (s.onDom f).dom = f s.dom := rfl
@[simp] theorem State.onDom_steer (f : Domains → Domains) : (s.onDom f).steer = s.steer := rfl
@[simp] theorem State.onDom_pcp (f : Domains → Domains) : (s.onDom f).pcp = s.pcp := rfl
@[simp] theorem State.onDom_pool (f : Domains → Domains) : (s.onDom f).pool = s.pool := rfl
@[simp] theorem State.onDom_meters (f : Domains → Domains) : (s.onDom f).meters = s.meters := rfl
@[simp] theorem State.onDom_sched (f : Domains → Domains) : (s.onDom f).sched = s.sched := rfl
@[simp] theorem State.onDom_agentOut (f : Domains → Domains) : (s.onDom f).agentOut = s.agentOut := rfl
@[simp] theorem State.onDom_mediaOut (f : Domains → Domains) : (s.onDom f).mediaOut = s.mediaOut := rfl
@[simp] theorem State.onDom_agent (f : Domains → Domains) : (s.onDom f).agent = s.agent := rfl
@[simp] theorem State.onDom_operators (f : Domains → Domains) : (s.onDom f).operators = s.operators := rfl
@[simp] theorem State.onDom_line (f : Domains → Domains) : (s.onDom f).line = s.line := rfl
@[simp] theorem State.onDom_hist (f : Domains → Domains) : (s.onDom f).hist = s.hist := rfl
@[simp] theorem State.onDom_media (f : Domains → Domains) : (s.onDom f).media = s.media := rfl
@[simp] theorem State.onDom_power (f : Domains → Domains) : (s.onDom f).power = s.power := rfl
@[simp] theorem State.onDom_script (f : Domains → Domains) : (s.onDom f).script = s.script := rfl

@[simp] theorem State.setSteering_pending (i : Fin 64) (e : Steering) : (s.setSteering i e).pending = s.pending := rfl
@[simp] theorem State.setSteering_phase (i : Fin 64) (e : Steering) : (s.setSteering i e).phase = s.phase := rfl
@[simp] theorem State.setSteering_pins (i : Fin 64) (e : Steering) : (s.setSteering i e).pins = s.pins := rfl
@[simp] theorem State.setSteering_clock (i : Fin 64) (e : Steering) : (s.setSteering i e).clock = s.clock := rfl
@[simp] theorem State.setSteering_loader (i : Fin 64) (e : Steering) : (s.setSteering i e).loader = s.loader := rfl
@[simp] theorem State.setSteering_ports (i : Fin 64) (e : Steering) : (s.setSteering i e).ports = s.ports := rfl
@[simp] theorem State.setSteering_dom (i : Fin 64) (e : Steering) : (s.setSteering i e).dom = s.dom := rfl
@[simp] theorem State.setSteering_steer (i : Fin 64) (e : Steering) : (s.setSteering i e).steer = s.steer.set i e := rfl
@[simp] theorem State.setSteering_pcp (i : Fin 64) (e : Steering) : (s.setSteering i e).pcp = s.pcp := rfl
@[simp] theorem State.setSteering_pool (i : Fin 64) (e : Steering) : (s.setSteering i e).pool = s.pool := rfl
@[simp] theorem State.setSteering_meters (i : Fin 64) (e : Steering) : (s.setSteering i e).meters = s.meters := rfl
@[simp] theorem State.setSteering_sched (i : Fin 64) (e : Steering) : (s.setSteering i e).sched = s.sched := rfl
@[simp] theorem State.setSteering_agentOut (i : Fin 64) (e : Steering) : (s.setSteering i e).agentOut = s.agentOut := rfl
@[simp] theorem State.setSteering_mediaOut (i : Fin 64) (e : Steering) : (s.setSteering i e).mediaOut = s.mediaOut := rfl
@[simp] theorem State.setSteering_agent (i : Fin 64) (e : Steering) : (s.setSteering i e).agent = s.agent := rfl
@[simp] theorem State.setSteering_operators (i : Fin 64) (e : Steering) : (s.setSteering i e).operators = s.operators := rfl
@[simp] theorem State.setSteering_line (i : Fin 64) (e : Steering) : (s.setSteering i e).line = s.line := rfl
@[simp] theorem State.setSteering_hist (i : Fin 64) (e : Steering) : (s.setSteering i e).hist = s.hist := rfl
@[simp] theorem State.setSteering_media (i : Fin 64) (e : Steering) : (s.setSteering i e).media = s.media := rfl
@[simp] theorem State.setSteering_power (i : Fin 64) (e : Steering) : (s.setSteering i e).power = s.power := rfl
@[simp] theorem State.setSteering_script (i : Fin 64) (e : Steering) : (s.setSteering i e).script = s.script := rfl

@[simp] theorem State.setPcp_pending (i : Fin 8) (k : Fin 4) : (s.setPcp i k).pending = s.pending := rfl
@[simp] theorem State.setPcp_phase (i : Fin 8) (k : Fin 4) : (s.setPcp i k).phase = s.phase := rfl
@[simp] theorem State.setPcp_pins (i : Fin 8) (k : Fin 4) : (s.setPcp i k).pins = s.pins := rfl
@[simp] theorem State.setPcp_clock (i : Fin 8) (k : Fin 4) : (s.setPcp i k).clock = s.clock := rfl
@[simp] theorem State.setPcp_loader (i : Fin 8) (k : Fin 4) : (s.setPcp i k).loader = s.loader := rfl
@[simp] theorem State.setPcp_ports (i : Fin 8) (k : Fin 4) : (s.setPcp i k).ports = s.ports := rfl
@[simp] theorem State.setPcp_dom (i : Fin 8) (k : Fin 4) : (s.setPcp i k).dom = s.dom := rfl
@[simp] theorem State.setPcp_steer (i : Fin 8) (k : Fin 4) : (s.setPcp i k).steer = s.steer := rfl
@[simp] theorem State.setPcp_pcp (i : Fin 8) (k : Fin 4) : (s.setPcp i k).pcp = s.pcp.set i k := rfl
@[simp] theorem State.setPcp_pool (i : Fin 8) (k : Fin 4) : (s.setPcp i k).pool = s.pool := rfl
@[simp] theorem State.setPcp_meters (i : Fin 8) (k : Fin 4) : (s.setPcp i k).meters = s.meters := rfl
@[simp] theorem State.setPcp_sched (i : Fin 8) (k : Fin 4) : (s.setPcp i k).sched = s.sched := rfl
@[simp] theorem State.setPcp_agentOut (i : Fin 8) (k : Fin 4) : (s.setPcp i k).agentOut = s.agentOut := rfl
@[simp] theorem State.setPcp_mediaOut (i : Fin 8) (k : Fin 4) : (s.setPcp i k).mediaOut = s.mediaOut := rfl
@[simp] theorem State.setPcp_agent (i : Fin 8) (k : Fin 4) : (s.setPcp i k).agent = s.agent := rfl
@[simp] theorem State.setPcp_operators (i : Fin 8) (k : Fin 4) : (s.setPcp i k).operators = s.operators := rfl
@[simp] theorem State.setPcp_line (i : Fin 8) (k : Fin 4) : (s.setPcp i k).line = s.line := rfl
@[simp] theorem State.setPcp_hist (i : Fin 8) (k : Fin 4) : (s.setPcp i k).hist = s.hist := rfl
@[simp] theorem State.setPcp_media (i : Fin 8) (k : Fin 4) : (s.setPcp i k).media = s.media := rfl
@[simp] theorem State.setPcp_power (i : Fin 8) (k : Fin 4) : (s.setPcp i k).power = s.power := rfl
@[simp] theorem State.setPcp_script (i : Fin 8) (k : Fin 4) : (s.setPcp i k).script = s.script := rfl

@[simp] theorem State.onMeters_pending (f : Meters → Meters) : (s.onMeters f).pending = s.pending := rfl
@[simp] theorem State.onMeters_phase (f : Meters → Meters) : (s.onMeters f).phase = s.phase := rfl
@[simp] theorem State.onMeters_pins (f : Meters → Meters) : (s.onMeters f).pins = s.pins := rfl
@[simp] theorem State.onMeters_clock (f : Meters → Meters) : (s.onMeters f).clock = s.clock := rfl
@[simp] theorem State.onMeters_loader (f : Meters → Meters) : (s.onMeters f).loader = s.loader := rfl
@[simp] theorem State.onMeters_ports (f : Meters → Meters) : (s.onMeters f).ports = s.ports := rfl
@[simp] theorem State.onMeters_dom (f : Meters → Meters) : (s.onMeters f).dom = s.dom := rfl
@[simp] theorem State.onMeters_steer (f : Meters → Meters) : (s.onMeters f).steer = s.steer := rfl
@[simp] theorem State.onMeters_pcp (f : Meters → Meters) : (s.onMeters f).pcp = s.pcp := rfl
@[simp] theorem State.onMeters_pool (f : Meters → Meters) : (s.onMeters f).pool = s.pool := rfl
@[simp] theorem State.onMeters_meters (f : Meters → Meters) : (s.onMeters f).meters = f s.meters := rfl
@[simp] theorem State.onMeters_sched (f : Meters → Meters) : (s.onMeters f).sched = s.sched := rfl
@[simp] theorem State.onMeters_agentOut (f : Meters → Meters) : (s.onMeters f).agentOut = s.agentOut := rfl
@[simp] theorem State.onMeters_mediaOut (f : Meters → Meters) : (s.onMeters f).mediaOut = s.mediaOut := rfl
@[simp] theorem State.onMeters_agent (f : Meters → Meters) : (s.onMeters f).agent = s.agent := rfl
@[simp] theorem State.onMeters_operators (f : Meters → Meters) : (s.onMeters f).operators = s.operators := rfl
@[simp] theorem State.onMeters_line (f : Meters → Meters) : (s.onMeters f).line = s.line := rfl
@[simp] theorem State.onMeters_hist (f : Meters → Meters) : (s.onMeters f).hist = s.hist := rfl
@[simp] theorem State.onMeters_media (f : Meters → Meters) : (s.onMeters f).media = s.media := rfl
@[simp] theorem State.onMeters_power (f : Meters → Meters) : (s.onMeters f).power = s.power := rfl
@[simp] theorem State.onMeters_script (f : Meters → Meters) : (s.onMeters f).script = s.script := rfl

@[simp] theorem State.onSched_pending (f : Scheduler → Scheduler) : (s.onSched f).pending = s.pending := rfl
@[simp] theorem State.onSched_phase (f : Scheduler → Scheduler) : (s.onSched f).phase = s.phase := rfl
@[simp] theorem State.onSched_pins (f : Scheduler → Scheduler) : (s.onSched f).pins = s.pins := rfl
@[simp] theorem State.onSched_clock (f : Scheduler → Scheduler) : (s.onSched f).clock = s.clock := rfl
@[simp] theorem State.onSched_loader (f : Scheduler → Scheduler) : (s.onSched f).loader = s.loader := rfl
@[simp] theorem State.onSched_ports (f : Scheduler → Scheduler) : (s.onSched f).ports = s.ports := rfl
@[simp] theorem State.onSched_dom (f : Scheduler → Scheduler) : (s.onSched f).dom = s.dom := rfl
@[simp] theorem State.onSched_steer (f : Scheduler → Scheduler) : (s.onSched f).steer = s.steer := rfl
@[simp] theorem State.onSched_pcp (f : Scheduler → Scheduler) : (s.onSched f).pcp = s.pcp := rfl
@[simp] theorem State.onSched_pool (f : Scheduler → Scheduler) : (s.onSched f).pool = s.pool := rfl
@[simp] theorem State.onSched_meters (f : Scheduler → Scheduler) : (s.onSched f).meters = s.meters := rfl
@[simp] theorem State.onSched_sched (f : Scheduler → Scheduler) : (s.onSched f).sched = f s.sched := rfl
@[simp] theorem State.onSched_agentOut (f : Scheduler → Scheduler) : (s.onSched f).agentOut = s.agentOut := rfl
@[simp] theorem State.onSched_mediaOut (f : Scheduler → Scheduler) : (s.onSched f).mediaOut = s.mediaOut := rfl
@[simp] theorem State.onSched_agent (f : Scheduler → Scheduler) : (s.onSched f).agent = s.agent := rfl
@[simp] theorem State.onSched_operators (f : Scheduler → Scheduler) : (s.onSched f).operators = s.operators := rfl
@[simp] theorem State.onSched_line (f : Scheduler → Scheduler) : (s.onSched f).line = s.line := rfl
@[simp] theorem State.onSched_hist (f : Scheduler → Scheduler) : (s.onSched f).hist = s.hist := rfl
@[simp] theorem State.onSched_media (f : Scheduler → Scheduler) : (s.onSched f).media = s.media := rfl
@[simp] theorem State.onSched_power (f : Scheduler → Scheduler) : (s.onSched f).power = s.power := rfl
@[simp] theorem State.onSched_script (f : Scheduler → Scheduler) : (s.onSched f).script = s.script := rfl

@[simp] theorem State.setOperator_pending (i : Fin 8) (o : Operator) : (s.setOperator i o).pending = s.pending := rfl
@[simp] theorem State.setOperator_phase (i : Fin 8) (o : Operator) : (s.setOperator i o).phase = s.phase := rfl
@[simp] theorem State.setOperator_pins (i : Fin 8) (o : Operator) : (s.setOperator i o).pins = s.pins := rfl
@[simp] theorem State.setOperator_clock (i : Fin 8) (o : Operator) : (s.setOperator i o).clock = s.clock := rfl
@[simp] theorem State.setOperator_loader (i : Fin 8) (o : Operator) : (s.setOperator i o).loader = s.loader := rfl
@[simp] theorem State.setOperator_ports (i : Fin 8) (o : Operator) : (s.setOperator i o).ports = s.ports := rfl
@[simp] theorem State.setOperator_dom (i : Fin 8) (o : Operator) : (s.setOperator i o).dom = s.dom := rfl
@[simp] theorem State.setOperator_steer (i : Fin 8) (o : Operator) : (s.setOperator i o).steer = s.steer := rfl
@[simp] theorem State.setOperator_pcp (i : Fin 8) (o : Operator) : (s.setOperator i o).pcp = s.pcp := rfl
@[simp] theorem State.setOperator_pool (i : Fin 8) (o : Operator) : (s.setOperator i o).pool = s.pool := rfl
@[simp] theorem State.setOperator_meters (i : Fin 8) (o : Operator) : (s.setOperator i o).meters = s.meters := rfl
@[simp] theorem State.setOperator_sched (i : Fin 8) (o : Operator) : (s.setOperator i o).sched = s.sched := rfl
@[simp] theorem State.setOperator_agentOut (i : Fin 8) (o : Operator) : (s.setOperator i o).agentOut = s.agentOut := rfl
@[simp] theorem State.setOperator_mediaOut (i : Fin 8) (o : Operator) : (s.setOperator i o).mediaOut = s.mediaOut := rfl
@[simp] theorem State.setOperator_agent (i : Fin 8) (o : Operator) : (s.setOperator i o).agent = s.agent := rfl
@[simp] theorem State.setOperator_operators (i : Fin 8) (o : Operator) : (s.setOperator i o).operators = s.operators.set i o := rfl
@[simp] theorem State.setOperator_line (i : Fin 8) (o : Operator) : (s.setOperator i o).line = s.line := rfl
@[simp] theorem State.setOperator_hist (i : Fin 8) (o : Operator) : (s.setOperator i o).hist = s.hist := rfl
@[simp] theorem State.setOperator_media (i : Fin 8) (o : Operator) : (s.setOperator i o).media = s.media := rfl
@[simp] theorem State.setOperator_power (i : Fin 8) (o : Operator) : (s.setOperator i o).power = s.power := rfl
@[simp] theorem State.setOperator_script (i : Fin 8) (o : Operator) : (s.setOperator i o).script = s.script := rfl

@[simp] theorem State.setPhy_pending (p : Port) (v : Option Speed) : (s.setPhy p v).pending = s.pending := rfl
@[simp] theorem State.setPhy_phase (p : Port) (v : Option Speed) : (s.setPhy p v).phase = s.phase := rfl
@[simp] theorem State.setPhy_clock (p : Port) (v : Option Speed) : (s.setPhy p v).clock = s.clock := rfl
@[simp] theorem State.setPhy_loader (p : Port) (v : Option Speed) : (s.setPhy p v).loader = s.loader := rfl
@[simp] theorem State.setPhy_ports (p : Port) (v : Option Speed) : (s.setPhy p v).ports = s.ports := rfl
@[simp] theorem State.setPhy_dom (p : Port) (v : Option Speed) : (s.setPhy p v).dom = s.dom := rfl
@[simp] theorem State.setPhy_steer (p : Port) (v : Option Speed) : (s.setPhy p v).steer = s.steer := rfl
@[simp] theorem State.setPhy_pcp (p : Port) (v : Option Speed) : (s.setPhy p v).pcp = s.pcp := rfl
@[simp] theorem State.setPhy_pool (p : Port) (v : Option Speed) : (s.setPhy p v).pool = s.pool := rfl
@[simp] theorem State.setPhy_meters (p : Port) (v : Option Speed) : (s.setPhy p v).meters = s.meters := rfl
@[simp] theorem State.setPhy_sched (p : Port) (v : Option Speed) : (s.setPhy p v).sched = s.sched := rfl
@[simp] theorem State.setPhy_agentOut (p : Port) (v : Option Speed) : (s.setPhy p v).agentOut = s.agentOut := rfl
@[simp] theorem State.setPhy_mediaOut (p : Port) (v : Option Speed) : (s.setPhy p v).mediaOut = s.mediaOut := rfl
@[simp] theorem State.setPhy_agent (p : Port) (v : Option Speed) : (s.setPhy p v).agent = s.agent := rfl
@[simp] theorem State.setPhy_operators (p : Port) (v : Option Speed) : (s.setPhy p v).operators = s.operators := rfl
@[simp] theorem State.setPhy_line (p : Port) (v : Option Speed) : (s.setPhy p v).line = s.line := rfl
@[simp] theorem State.setPhy_hist (p : Port) (v : Option Speed) : (s.setPhy p v).hist = s.hist := rfl
@[simp] theorem State.setPhy_media (p : Port) (v : Option Speed) : (s.setPhy p v).media = s.media := rfl
@[simp] theorem State.setPhy_power (p : Port) (v : Option Speed) : (s.setPhy p v).power = s.power := rfl
@[simp] theorem State.setPhy_script (p : Port) (v : Option Speed) : (s.setPhy p v).script = s.script := rfl

@[simp] theorem State.setLink_pending (p : Port) (v : Option Speed) : (s.setLink p v).pending = s.pending := rfl
@[simp] theorem State.setLink_phase (p : Port) (v : Option Speed) : (s.setLink p v).phase = s.phase := rfl
@[simp] theorem State.setLink_pins (p : Port) (v : Option Speed) : (s.setLink p v).pins = s.pins := rfl
@[simp] theorem State.setLink_clock (p : Port) (v : Option Speed) : (s.setLink p v).clock = s.clock := rfl
@[simp] theorem State.setLink_loader (p : Port) (v : Option Speed) : (s.setLink p v).loader = s.loader := rfl
@[simp] theorem State.setLink_dom (p : Port) (v : Option Speed) : (s.setLink p v).dom = s.dom := rfl
@[simp] theorem State.setLink_steer (p : Port) (v : Option Speed) : (s.setLink p v).steer = s.steer := rfl
@[simp] theorem State.setLink_pcp (p : Port) (v : Option Speed) : (s.setLink p v).pcp = s.pcp := rfl
@[simp] theorem State.setLink_pool (p : Port) (v : Option Speed) : (s.setLink p v).pool = s.pool := rfl
@[simp] theorem State.setLink_meters (p : Port) (v : Option Speed) : (s.setLink p v).meters = s.meters := rfl
@[simp] theorem State.setLink_sched (p : Port) (v : Option Speed) : (s.setLink p v).sched = s.sched := rfl
@[simp] theorem State.setLink_agentOut (p : Port) (v : Option Speed) : (s.setLink p v).agentOut = s.agentOut := rfl
@[simp] theorem State.setLink_mediaOut (p : Port) (v : Option Speed) : (s.setLink p v).mediaOut = s.mediaOut := rfl
@[simp] theorem State.setLink_agent (p : Port) (v : Option Speed) : (s.setLink p v).agent = s.agent := rfl
@[simp] theorem State.setLink_operators (p : Port) (v : Option Speed) : (s.setLink p v).operators = s.operators := rfl
@[simp] theorem State.setLink_line (p : Port) (v : Option Speed) : (s.setLink p v).line = s.line := rfl
@[simp] theorem State.setLink_hist (p : Port) (v : Option Speed) : (s.setLink p v).hist = s.hist := rfl
@[simp] theorem State.setLink_media (p : Port) (v : Option Speed) : (s.setLink p v).media = s.media := rfl
@[simp] theorem State.setLink_power (p : Port) (v : Option Speed) : (s.setLink p v).power = s.power := rfl
@[simp] theorem State.setLink_script (p : Port) (v : Option Speed) : (s.setLink p v).script = s.script := rfl
@[simp] theorem State.setLink_ports_link (p : Port) (v : Option Speed) : (s.setLink p v).ports.link = s.ports.link.set p v := rfl
@[simp] theorem State.setLink_ports_set (p : Port) (v : Option Speed) : (s.setLink p v).ports.set = s.ports.set := rfl
@[simp] theorem State.setLink_ports_partMac (p : Port) (v : Option Speed) : (s.setLink p v).ports.partMac = s.ports.partMac := rfl
@[simp] theorem State.setLink_ports_holdS (p : Port) (v : Option Speed) : (s.setLink p v).ports.holdS = s.ports.holdS := rfl
@[simp] theorem State.setLink_ports_cnt (p : Port) (v : Option Speed) : (s.setLink p v).ports.cnt = s.ports.cnt := rfl

@[simp] theorem State.setHoldS_pending (v : Bool) : (s.setHoldS v).pending = s.pending := rfl
@[simp] theorem State.setHoldS_phase (v : Bool) : (s.setHoldS v).phase = s.phase := rfl
@[simp] theorem State.setHoldS_pins (v : Bool) : (s.setHoldS v).pins = s.pins := rfl
@[simp] theorem State.setHoldS_clock (v : Bool) : (s.setHoldS v).clock = s.clock := rfl
@[simp] theorem State.setHoldS_loader (v : Bool) : (s.setHoldS v).loader = s.loader := rfl
@[simp] theorem State.setHoldS_dom (v : Bool) : (s.setHoldS v).dom = s.dom := rfl
@[simp] theorem State.setHoldS_steer (v : Bool) : (s.setHoldS v).steer = s.steer := rfl
@[simp] theorem State.setHoldS_pcp (v : Bool) : (s.setHoldS v).pcp = s.pcp := rfl
@[simp] theorem State.setHoldS_pool (v : Bool) : (s.setHoldS v).pool = s.pool := rfl
@[simp] theorem State.setHoldS_meters (v : Bool) : (s.setHoldS v).meters = s.meters := rfl
@[simp] theorem State.setHoldS_sched (v : Bool) : (s.setHoldS v).sched = s.sched := rfl
@[simp] theorem State.setHoldS_agentOut (v : Bool) : (s.setHoldS v).agentOut = s.agentOut := rfl
@[simp] theorem State.setHoldS_mediaOut (v : Bool) : (s.setHoldS v).mediaOut = s.mediaOut := rfl
@[simp] theorem State.setHoldS_agent (v : Bool) : (s.setHoldS v).agent = s.agent := rfl
@[simp] theorem State.setHoldS_operators (v : Bool) : (s.setHoldS v).operators = s.operators := rfl
@[simp] theorem State.setHoldS_line (v : Bool) : (s.setHoldS v).line = s.line := rfl
@[simp] theorem State.setHoldS_hist (v : Bool) : (s.setHoldS v).hist = s.hist := rfl
@[simp] theorem State.setHoldS_media (v : Bool) : (s.setHoldS v).media = s.media := rfl
@[simp] theorem State.setHoldS_power (v : Bool) : (s.setHoldS v).power = s.power := rfl
@[simp] theorem State.setHoldS_script (v : Bool) : (s.setHoldS v).script = s.script := rfl
@[simp] theorem State.setHoldS_ports_holdS (v : Bool) : (s.setHoldS v).ports.holdS = v := rfl
@[simp] theorem State.setHoldS_ports_set (v : Bool) : (s.setHoldS v).ports.set = s.ports.set := rfl
@[simp] theorem State.setHoldS_ports_partMac (v : Bool) : (s.setHoldS v).ports.partMac = s.ports.partMac := rfl
@[simp] theorem State.setHoldS_ports_link (v : Bool) : (s.setHoldS v).ports.link = s.ports.link := rfl
@[simp] theorem State.setHoldS_ports_cnt (v : Bool) : (s.setHoldS v).ports.cnt = s.ports.cnt := rfl

@[simp] theorem State.onCnt_pending (p : Port) (f : PortCounters → PortCounters) : (s.onCnt p f).pending = s.pending := rfl
@[simp] theorem State.onCnt_phase (p : Port) (f : PortCounters → PortCounters) : (s.onCnt p f).phase = s.phase := rfl
@[simp] theorem State.onCnt_pins (p : Port) (f : PortCounters → PortCounters) : (s.onCnt p f).pins = s.pins := rfl
@[simp] theorem State.onCnt_clock (p : Port) (f : PortCounters → PortCounters) : (s.onCnt p f).clock = s.clock := rfl
@[simp] theorem State.onCnt_loader (p : Port) (f : PortCounters → PortCounters) : (s.onCnt p f).loader = s.loader := rfl
@[simp] theorem State.onCnt_dom (p : Port) (f : PortCounters → PortCounters) : (s.onCnt p f).dom = s.dom := rfl
@[simp] theorem State.onCnt_steer (p : Port) (f : PortCounters → PortCounters) : (s.onCnt p f).steer = s.steer := rfl
@[simp] theorem State.onCnt_pcp (p : Port) (f : PortCounters → PortCounters) : (s.onCnt p f).pcp = s.pcp := rfl
@[simp] theorem State.onCnt_pool (p : Port) (f : PortCounters → PortCounters) : (s.onCnt p f).pool = s.pool := rfl
@[simp] theorem State.onCnt_meters (p : Port) (f : PortCounters → PortCounters) : (s.onCnt p f).meters = s.meters := rfl
@[simp] theorem State.onCnt_sched (p : Port) (f : PortCounters → PortCounters) : (s.onCnt p f).sched = s.sched := rfl
@[simp] theorem State.onCnt_agentOut (p : Port) (f : PortCounters → PortCounters) : (s.onCnt p f).agentOut = s.agentOut := rfl
@[simp] theorem State.onCnt_mediaOut (p : Port) (f : PortCounters → PortCounters) : (s.onCnt p f).mediaOut = s.mediaOut := rfl
@[simp] theorem State.onCnt_agent (p : Port) (f : PortCounters → PortCounters) : (s.onCnt p f).agent = s.agent := rfl
@[simp] theorem State.onCnt_operators (p : Port) (f : PortCounters → PortCounters) : (s.onCnt p f).operators = s.operators := rfl
@[simp] theorem State.onCnt_line (p : Port) (f : PortCounters → PortCounters) : (s.onCnt p f).line = s.line := rfl
@[simp] theorem State.onCnt_hist (p : Port) (f : PortCounters → PortCounters) : (s.onCnt p f).hist = s.hist := rfl
@[simp] theorem State.onCnt_media (p : Port) (f : PortCounters → PortCounters) : (s.onCnt p f).media = s.media := rfl
@[simp] theorem State.onCnt_power (p : Port) (f : PortCounters → PortCounters) : (s.onCnt p f).power = s.power := rfl
@[simp] theorem State.onCnt_script (p : Port) (f : PortCounters → PortCounters) : (s.onCnt p f).script = s.script := rfl
@[simp] theorem State.onCnt_ports_link (p : Port) (f : PortCounters → PortCounters) : (s.onCnt p f).ports.link = s.ports.link := rfl
@[simp] theorem State.onCnt_ports_set (p : Port) (f : PortCounters → PortCounters) : (s.onCnt p f).ports.set = s.ports.set := rfl
@[simp] theorem State.onCnt_ports_partMac (p : Port) (f : PortCounters → PortCounters) : (s.onCnt p f).ports.partMac = s.ports.partMac := rfl
@[simp] theorem State.onCnt_ports_holdS (p : Port) (f : PortCounters → PortCounters) : (s.onCnt p f).ports.holdS = s.ports.holdS := rfl
@[simp] theorem State.onCnt_ports_cnt (p : Port) (f : PortCounters → PortCounters) :
    (s.onCnt p f).ports.cnt = s.ports.cnt.set p (f (s.ports.cnt.get p)) := rfl

@[simp] theorem State.onPool_pending (f : Pool → Pool) : (s.onPool f).pending = s.pending := rfl
@[simp] theorem State.onPool_phase (f : Pool → Pool) : (s.onPool f).phase = s.phase := rfl
@[simp] theorem State.onPool_pins (f : Pool → Pool) : (s.onPool f).pins = s.pins := rfl
@[simp] theorem State.onPool_clock (f : Pool → Pool) : (s.onPool f).clock = s.clock := rfl
@[simp] theorem State.onPool_loader (f : Pool → Pool) : (s.onPool f).loader = s.loader := rfl
@[simp] theorem State.onPool_ports (f : Pool → Pool) : (s.onPool f).ports = s.ports := rfl
@[simp] theorem State.onPool_dom (f : Pool → Pool) : (s.onPool f).dom = s.dom := rfl
@[simp] theorem State.onPool_steer (f : Pool → Pool) : (s.onPool f).steer = s.steer := rfl
@[simp] theorem State.onPool_pcp (f : Pool → Pool) : (s.onPool f).pcp = s.pcp := rfl
@[simp] theorem State.onPool_pool (f : Pool → Pool) : (s.onPool f).pool = f s.pool := rfl
@[simp] theorem State.onPool_meters (f : Pool → Pool) : (s.onPool f).meters = s.meters := rfl
@[simp] theorem State.onPool_sched (f : Pool → Pool) : (s.onPool f).sched = s.sched := rfl
@[simp] theorem State.onPool_agentOut (f : Pool → Pool) : (s.onPool f).agentOut = s.agentOut := rfl
@[simp] theorem State.onPool_mediaOut (f : Pool → Pool) : (s.onPool f).mediaOut = s.mediaOut := rfl
@[simp] theorem State.onPool_agent (f : Pool → Pool) : (s.onPool f).agent = s.agent := rfl
@[simp] theorem State.onPool_operators (f : Pool → Pool) : (s.onPool f).operators = s.operators := rfl
@[simp] theorem State.onPool_line (f : Pool → Pool) : (s.onPool f).line = s.line := rfl
@[simp] theorem State.onPool_hist (f : Pool → Pool) : (s.onPool f).hist = s.hist := rfl
@[simp] theorem State.onPool_media (f : Pool → Pool) : (s.onPool f).media = s.media := rfl
@[simp] theorem State.onPool_power (f : Pool → Pool) : (s.onPool f).power = s.power := rfl
@[simp] theorem State.onPool_script (f : Pool → Pool) : (s.onPool f).script = s.script := rfl

@[simp] theorem State.onEgress_pending (p : Port) (f : Egress → Egress) : (s.onEgress p f).pending = s.pending := rfl
@[simp] theorem State.onEgress_phase (p : Port) (f : Egress → Egress) : (s.onEgress p f).phase = s.phase := rfl
@[simp] theorem State.onEgress_pins (p : Port) (f : Egress → Egress) : (s.onEgress p f).pins = s.pins := rfl
@[simp] theorem State.onEgress_clock (p : Port) (f : Egress → Egress) : (s.onEgress p f).clock = s.clock := rfl
@[simp] theorem State.onEgress_loader (p : Port) (f : Egress → Egress) : (s.onEgress p f).loader = s.loader := rfl
@[simp] theorem State.onEgress_ports (p : Port) (f : Egress → Egress) : (s.onEgress p f).ports = s.ports := rfl
@[simp] theorem State.onEgress_dom (p : Port) (f : Egress → Egress) : (s.onEgress p f).dom = s.dom := rfl
@[simp] theorem State.onEgress_steer (p : Port) (f : Egress → Egress) : (s.onEgress p f).steer = s.steer := rfl
@[simp] theorem State.onEgress_pcp (p : Port) (f : Egress → Egress) : (s.onEgress p f).pcp = s.pcp := rfl
@[simp] theorem State.onEgress_pool (p : Port) (f : Egress → Egress) : (s.onEgress p f).pool = s.pool := rfl
@[simp] theorem State.onEgress_meters (p : Port) (f : Egress → Egress) : (s.onEgress p f).meters = s.meters := rfl
@[simp] theorem State.onEgress_agentOut (p : Port) (f : Egress → Egress) : (s.onEgress p f).agentOut = s.agentOut := rfl
@[simp] theorem State.onEgress_mediaOut (p : Port) (f : Egress → Egress) : (s.onEgress p f).mediaOut = s.mediaOut := rfl
@[simp] theorem State.onEgress_agent (p : Port) (f : Egress → Egress) : (s.onEgress p f).agent = s.agent := rfl
@[simp] theorem State.onEgress_operators (p : Port) (f : Egress → Egress) : (s.onEgress p f).operators = s.operators := rfl
@[simp] theorem State.onEgress_line (p : Port) (f : Egress → Egress) : (s.onEgress p f).line = s.line := rfl
@[simp] theorem State.onEgress_hist (p : Port) (f : Egress → Egress) : (s.onEgress p f).hist = s.hist := rfl
@[simp] theorem State.onEgress_media (p : Port) (f : Egress → Egress) : (s.onEgress p f).media = s.media := rfl
@[simp] theorem State.onEgress_power (p : Port) (f : Egress → Egress) : (s.onEgress p f).power = s.power := rfl
@[simp] theorem State.onEgress_script (p : Port) (f : Egress → Egress) : (s.onEgress p f).script = s.script := rfl
@[simp] theorem State.onEgress_sched_mgmtClass (p : Port) (f : Egress → Egress) : (s.onEgress p f).sched.mgmtClass = s.sched.mgmtClass := rfl
@[simp] theorem State.onEgress_sched_mediaClass (p : Port) (f : Egress → Egress) : (s.onEgress p f).sched.mediaClass = s.sched.mediaClass := rfl
@[simp] theorem State.onEgress_sched_port (p : Port) (f : Egress → Egress) :
    (s.onEgress p f).sched.port = s.sched.port.set p (f (s.sched.port.get p)) := rfl

@[simp] theorem State.onAgent_pending (f : Agent → Agent) : (s.onAgent f).pending = s.pending := rfl
@[simp] theorem State.onAgent_phase (f : Agent → Agent) : (s.onAgent f).phase = s.phase := rfl
@[simp] theorem State.onAgent_pins (f : Agent → Agent) : (s.onAgent f).pins = s.pins := rfl
@[simp] theorem State.onAgent_clock (f : Agent → Agent) : (s.onAgent f).clock = s.clock := rfl
@[simp] theorem State.onAgent_loader (f : Agent → Agent) : (s.onAgent f).loader = s.loader := rfl
@[simp] theorem State.onAgent_ports (f : Agent → Agent) : (s.onAgent f).ports = s.ports := rfl
@[simp] theorem State.onAgent_dom (f : Agent → Agent) : (s.onAgent f).dom = s.dom := rfl
@[simp] theorem State.onAgent_steer (f : Agent → Agent) : (s.onAgent f).steer = s.steer := rfl
@[simp] theorem State.onAgent_pcp (f : Agent → Agent) : (s.onAgent f).pcp = s.pcp := rfl
@[simp] theorem State.onAgent_pool (f : Agent → Agent) : (s.onAgent f).pool = s.pool := rfl
@[simp] theorem State.onAgent_meters (f : Agent → Agent) : (s.onAgent f).meters = s.meters := rfl
@[simp] theorem State.onAgent_sched (f : Agent → Agent) : (s.onAgent f).sched = s.sched := rfl
@[simp] theorem State.onAgent_agentOut (f : Agent → Agent) : (s.onAgent f).agentOut = s.agentOut := rfl
@[simp] theorem State.onAgent_mediaOut (f : Agent → Agent) : (s.onAgent f).mediaOut = s.mediaOut := rfl
@[simp] theorem State.onAgent_agent (f : Agent → Agent) : (s.onAgent f).agent = f s.agent := rfl
@[simp] theorem State.onAgent_operators (f : Agent → Agent) : (s.onAgent f).operators = s.operators := rfl
@[simp] theorem State.onAgent_line (f : Agent → Agent) : (s.onAgent f).line = s.line := rfl
@[simp] theorem State.onAgent_hist (f : Agent → Agent) : (s.onAgent f).hist = s.hist := rfl
@[simp] theorem State.onAgent_media (f : Agent → Agent) : (s.onAgent f).media = s.media := rfl
@[simp] theorem State.onAgent_power (f : Agent → Agent) : (s.onAgent f).power = s.power := rfl
@[simp] theorem State.onAgent_script (f : Agent → Agent) : (s.onAgent f).script = s.script := rfl

@[simp] theorem State.onLine_pending (f : ConsoleLine → ConsoleLine) : (s.onLine f).pending = s.pending := rfl
@[simp] theorem State.onLine_phase (f : ConsoleLine → ConsoleLine) : (s.onLine f).phase = s.phase := rfl
@[simp] theorem State.onLine_pins (f : ConsoleLine → ConsoleLine) : (s.onLine f).pins = s.pins := rfl
@[simp] theorem State.onLine_clock (f : ConsoleLine → ConsoleLine) : (s.onLine f).clock = s.clock := rfl
@[simp] theorem State.onLine_loader (f : ConsoleLine → ConsoleLine) : (s.onLine f).loader = s.loader := rfl
@[simp] theorem State.onLine_ports (f : ConsoleLine → ConsoleLine) : (s.onLine f).ports = s.ports := rfl
@[simp] theorem State.onLine_dom (f : ConsoleLine → ConsoleLine) : (s.onLine f).dom = s.dom := rfl
@[simp] theorem State.onLine_steer (f : ConsoleLine → ConsoleLine) : (s.onLine f).steer = s.steer := rfl
@[simp] theorem State.onLine_pcp (f : ConsoleLine → ConsoleLine) : (s.onLine f).pcp = s.pcp := rfl
@[simp] theorem State.onLine_pool (f : ConsoleLine → ConsoleLine) : (s.onLine f).pool = s.pool := rfl
@[simp] theorem State.onLine_meters (f : ConsoleLine → ConsoleLine) : (s.onLine f).meters = s.meters := rfl
@[simp] theorem State.onLine_sched (f : ConsoleLine → ConsoleLine) : (s.onLine f).sched = s.sched := rfl
@[simp] theorem State.onLine_agentOut (f : ConsoleLine → ConsoleLine) : (s.onLine f).agentOut = s.agentOut := rfl
@[simp] theorem State.onLine_mediaOut (f : ConsoleLine → ConsoleLine) : (s.onLine f).mediaOut = s.mediaOut := rfl
@[simp] theorem State.onLine_agent (f : ConsoleLine → ConsoleLine) : (s.onLine f).agent = s.agent := rfl
@[simp] theorem State.onLine_operators (f : ConsoleLine → ConsoleLine) : (s.onLine f).operators = s.operators := rfl
@[simp] theorem State.onLine_line (f : ConsoleLine → ConsoleLine) : (s.onLine f).line = f s.line := rfl
@[simp] theorem State.onLine_hist (f : ConsoleLine → ConsoleLine) : (s.onLine f).hist = s.hist := rfl
@[simp] theorem State.onLine_media (f : ConsoleLine → ConsoleLine) : (s.onLine f).media = s.media := rfl
@[simp] theorem State.onLine_power (f : ConsoleLine → ConsoleLine) : (s.onLine f).power = s.power := rfl
@[simp] theorem State.onLine_script (f : ConsoleLine → ConsoleLine) : (s.onLine f).script = s.script := rfl

@[simp] theorem State.onHist_pending (f : History → History) : (s.onHist f).pending = s.pending := rfl
@[simp] theorem State.onHist_phase (f : History → History) : (s.onHist f).phase = s.phase := rfl
@[simp] theorem State.onHist_pins (f : History → History) : (s.onHist f).pins = s.pins := rfl
@[simp] theorem State.onHist_clock (f : History → History) : (s.onHist f).clock = s.clock := rfl
@[simp] theorem State.onHist_loader (f : History → History) : (s.onHist f).loader = s.loader := rfl
@[simp] theorem State.onHist_ports (f : History → History) : (s.onHist f).ports = s.ports := rfl
@[simp] theorem State.onHist_dom (f : History → History) : (s.onHist f).dom = s.dom := rfl
@[simp] theorem State.onHist_steer (f : History → History) : (s.onHist f).steer = s.steer := rfl
@[simp] theorem State.onHist_pcp (f : History → History) : (s.onHist f).pcp = s.pcp := rfl
@[simp] theorem State.onHist_pool (f : History → History) : (s.onHist f).pool = s.pool := rfl
@[simp] theorem State.onHist_meters (f : History → History) : (s.onHist f).meters = s.meters := rfl
@[simp] theorem State.onHist_sched (f : History → History) : (s.onHist f).sched = s.sched := rfl
@[simp] theorem State.onHist_agentOut (f : History → History) : (s.onHist f).agentOut = s.agentOut := rfl
@[simp] theorem State.onHist_mediaOut (f : History → History) : (s.onHist f).mediaOut = s.mediaOut := rfl
@[simp] theorem State.onHist_agent (f : History → History) : (s.onHist f).agent = s.agent := rfl
@[simp] theorem State.onHist_operators (f : History → History) : (s.onHist f).operators = s.operators := rfl
@[simp] theorem State.onHist_line (f : History → History) : (s.onHist f).line = s.line := rfl
@[simp] theorem State.onHist_hist (f : History → History) : (s.onHist f).hist = f s.hist := rfl
@[simp] theorem State.onHist_media (f : History → History) : (s.onHist f).media = s.media := rfl
@[simp] theorem State.onHist_power (f : History → History) : (s.onHist f).power = s.power := rfl
@[simp] theorem State.onHist_script (f : History → History) : (s.onHist f).script = s.script := rfl

@[simp] theorem State.onMedia_pending (f : Media → Media) : (s.onMedia f).pending = s.pending := rfl
@[simp] theorem State.onMedia_phase (f : Media → Media) : (s.onMedia f).phase = s.phase := rfl
@[simp] theorem State.onMedia_pins (f : Media → Media) : (s.onMedia f).pins = s.pins := rfl
@[simp] theorem State.onMedia_clock (f : Media → Media) : (s.onMedia f).clock = s.clock := rfl
@[simp] theorem State.onMedia_loader (f : Media → Media) : (s.onMedia f).loader = s.loader := rfl
@[simp] theorem State.onMedia_ports (f : Media → Media) : (s.onMedia f).ports = s.ports := rfl
@[simp] theorem State.onMedia_dom (f : Media → Media) : (s.onMedia f).dom = s.dom := rfl
@[simp] theorem State.onMedia_steer (f : Media → Media) : (s.onMedia f).steer = s.steer := rfl
@[simp] theorem State.onMedia_pcp (f : Media → Media) : (s.onMedia f).pcp = s.pcp := rfl
@[simp] theorem State.onMedia_pool (f : Media → Media) : (s.onMedia f).pool = s.pool := rfl
@[simp] theorem State.onMedia_meters (f : Media → Media) : (s.onMedia f).meters = s.meters := rfl
@[simp] theorem State.onMedia_sched (f : Media → Media) : (s.onMedia f).sched = s.sched := rfl
@[simp] theorem State.onMedia_agentOut (f : Media → Media) : (s.onMedia f).agentOut = s.agentOut := rfl
@[simp] theorem State.onMedia_mediaOut (f : Media → Media) : (s.onMedia f).mediaOut = s.mediaOut := rfl
@[simp] theorem State.onMedia_agent (f : Media → Media) : (s.onMedia f).agent = s.agent := rfl
@[simp] theorem State.onMedia_operators (f : Media → Media) : (s.onMedia f).operators = s.operators := rfl
@[simp] theorem State.onMedia_line (f : Media → Media) : (s.onMedia f).line = s.line := rfl
@[simp] theorem State.onMedia_hist (f : Media → Media) : (s.onMedia f).hist = s.hist := rfl
@[simp] theorem State.onMedia_media (f : Media → Media) : (s.onMedia f).media = f s.media := rfl
@[simp] theorem State.onMedia_power (f : Media → Media) : (s.onMedia f).power = s.power := rfl
@[simp] theorem State.onMedia_script (f : Media → Media) : (s.onMedia f).script = s.script := rfl

@[simp] theorem State.onPower_pending (f : PowerUnit → PowerUnit) : (s.onPower f).pending = s.pending := rfl
@[simp] theorem State.onPower_phase (f : PowerUnit → PowerUnit) : (s.onPower f).phase = s.phase := rfl
@[simp] theorem State.onPower_pins (f : PowerUnit → PowerUnit) : (s.onPower f).pins = s.pins := rfl
@[simp] theorem State.onPower_clock (f : PowerUnit → PowerUnit) : (s.onPower f).clock = s.clock := rfl
@[simp] theorem State.onPower_loader (f : PowerUnit → PowerUnit) : (s.onPower f).loader = s.loader := rfl
@[simp] theorem State.onPower_ports (f : PowerUnit → PowerUnit) : (s.onPower f).ports = s.ports := rfl
@[simp] theorem State.onPower_dom (f : PowerUnit → PowerUnit) : (s.onPower f).dom = s.dom := rfl
@[simp] theorem State.onPower_steer (f : PowerUnit → PowerUnit) : (s.onPower f).steer = s.steer := rfl
@[simp] theorem State.onPower_pcp (f : PowerUnit → PowerUnit) : (s.onPower f).pcp = s.pcp := rfl
@[simp] theorem State.onPower_pool (f : PowerUnit → PowerUnit) : (s.onPower f).pool = s.pool := rfl
@[simp] theorem State.onPower_meters (f : PowerUnit → PowerUnit) : (s.onPower f).meters = s.meters := rfl
@[simp] theorem State.onPower_sched (f : PowerUnit → PowerUnit) : (s.onPower f).sched = s.sched := rfl
@[simp] theorem State.onPower_agentOut (f : PowerUnit → PowerUnit) : (s.onPower f).agentOut = s.agentOut := rfl
@[simp] theorem State.onPower_mediaOut (f : PowerUnit → PowerUnit) : (s.onPower f).mediaOut = s.mediaOut := rfl
@[simp] theorem State.onPower_agent (f : PowerUnit → PowerUnit) : (s.onPower f).agent = s.agent := rfl
@[simp] theorem State.onPower_operators (f : PowerUnit → PowerUnit) : (s.onPower f).operators = s.operators := rfl
@[simp] theorem State.onPower_line (f : PowerUnit → PowerUnit) : (s.onPower f).line = s.line := rfl
@[simp] theorem State.onPower_hist (f : PowerUnit → PowerUnit) : (s.onPower f).hist = s.hist := rfl
@[simp] theorem State.onPower_media (f : PowerUnit → PowerUnit) : (s.onPower f).media = s.media := rfl
@[simp] theorem State.onPower_power (f : PowerUnit → PowerUnit) : (s.onPower f).power = f s.power := rfl
@[simp] theorem State.onPower_script (f : PowerUnit → PowerUnit) : (s.onPower f).script = s.script := rfl

@[simp] theorem State.onScript_pending (f : ScriptEngine → ScriptEngine) : (s.onScript f).pending = s.pending := rfl
@[simp] theorem State.onScript_phase (f : ScriptEngine → ScriptEngine) : (s.onScript f).phase = s.phase := rfl
@[simp] theorem State.onScript_pins (f : ScriptEngine → ScriptEngine) : (s.onScript f).pins = s.pins := rfl
@[simp] theorem State.onScript_clock (f : ScriptEngine → ScriptEngine) : (s.onScript f).clock = s.clock := rfl
@[simp] theorem State.onScript_loader (f : ScriptEngine → ScriptEngine) : (s.onScript f).loader = s.loader := rfl
@[simp] theorem State.onScript_ports (f : ScriptEngine → ScriptEngine) : (s.onScript f).ports = s.ports := rfl
@[simp] theorem State.onScript_dom (f : ScriptEngine → ScriptEngine) : (s.onScript f).dom = s.dom := rfl
@[simp] theorem State.onScript_steer (f : ScriptEngine → ScriptEngine) : (s.onScript f).steer = s.steer := rfl
@[simp] theorem State.onScript_pcp (f : ScriptEngine → ScriptEngine) : (s.onScript f).pcp = s.pcp := rfl
@[simp] theorem State.onScript_pool (f : ScriptEngine → ScriptEngine) : (s.onScript f).pool = s.pool := rfl
@[simp] theorem State.onScript_meters (f : ScriptEngine → ScriptEngine) : (s.onScript f).meters = s.meters := rfl
@[simp] theorem State.onScript_sched (f : ScriptEngine → ScriptEngine) : (s.onScript f).sched = s.sched := rfl
@[simp] theorem State.onScript_agentOut (f : ScriptEngine → ScriptEngine) : (s.onScript f).agentOut = s.agentOut := rfl
@[simp] theorem State.onScript_mediaOut (f : ScriptEngine → ScriptEngine) : (s.onScript f).mediaOut = s.mediaOut := rfl
@[simp] theorem State.onScript_agent (f : ScriptEngine → ScriptEngine) : (s.onScript f).agent = s.agent := rfl
@[simp] theorem State.onScript_operators (f : ScriptEngine → ScriptEngine) : (s.onScript f).operators = s.operators := rfl
@[simp] theorem State.onScript_line (f : ScriptEngine → ScriptEngine) : (s.onScript f).line = s.line := rfl
@[simp] theorem State.onScript_hist (f : ScriptEngine → ScriptEngine) : (s.onScript f).hist = s.hist := rfl
@[simp] theorem State.onScript_media (f : ScriptEngine → ScriptEngine) : (s.onScript f).media = s.media := rfl
@[simp] theorem State.onScript_power (f : ScriptEngine → ScriptEngine) : (s.onScript f).power = s.power := rfl
@[simp] theorem State.onScript_script (f : ScriptEngine → ScriptEngine) : (s.onScript f).script = f s.script := rfl

@[simp] theorem State.onLoader_pending (f : Loader → Loader) : (s.onLoader f).pending = s.pending := rfl
@[simp] theorem State.onLoader_phase (f : Loader → Loader) : (s.onLoader f).phase = s.phase := rfl
@[simp] theorem State.onLoader_pins (f : Loader → Loader) : (s.onLoader f).pins = s.pins := rfl
@[simp] theorem State.onLoader_clock (f : Loader → Loader) : (s.onLoader f).clock = s.clock := rfl
@[simp] theorem State.onLoader_loader (f : Loader → Loader) : (s.onLoader f).loader = f s.loader := rfl
@[simp] theorem State.onLoader_ports (f : Loader → Loader) : (s.onLoader f).ports = s.ports := rfl
@[simp] theorem State.onLoader_dom (f : Loader → Loader) : (s.onLoader f).dom = s.dom := rfl
@[simp] theorem State.onLoader_steer (f : Loader → Loader) : (s.onLoader f).steer = s.steer := rfl
@[simp] theorem State.onLoader_pcp (f : Loader → Loader) : (s.onLoader f).pcp = s.pcp := rfl
@[simp] theorem State.onLoader_pool (f : Loader → Loader) : (s.onLoader f).pool = s.pool := rfl
@[simp] theorem State.onLoader_meters (f : Loader → Loader) : (s.onLoader f).meters = s.meters := rfl
@[simp] theorem State.onLoader_sched (f : Loader → Loader) : (s.onLoader f).sched = s.sched := rfl
@[simp] theorem State.onLoader_agentOut (f : Loader → Loader) : (s.onLoader f).agentOut = s.agentOut := rfl
@[simp] theorem State.onLoader_mediaOut (f : Loader → Loader) : (s.onLoader f).mediaOut = s.mediaOut := rfl
@[simp] theorem State.onLoader_agent (f : Loader → Loader) : (s.onLoader f).agent = s.agent := rfl
@[simp] theorem State.onLoader_operators (f : Loader → Loader) : (s.onLoader f).operators = s.operators := rfl
@[simp] theorem State.onLoader_line (f : Loader → Loader) : (s.onLoader f).line = s.line := rfl
@[simp] theorem State.onLoader_hist (f : Loader → Loader) : (s.onLoader f).hist = s.hist := rfl
@[simp] theorem State.onLoader_media (f : Loader → Loader) : (s.onLoader f).media = s.media := rfl
@[simp] theorem State.onLoader_power (f : Loader → Loader) : (s.onLoader f).power = s.power := rfl
@[simp] theorem State.onLoader_script (f : Loader → Loader) : (s.onLoader f).script = s.script := rfl

@[simp] theorem State.setMeter_pending (i : Fin 16) (m : Meter) : (s.setMeter i m).pending = s.pending := rfl
@[simp] theorem State.setMeter_phase (i : Fin 16) (m : Meter) : (s.setMeter i m).phase = s.phase := rfl
@[simp] theorem State.setMeter_pins (i : Fin 16) (m : Meter) : (s.setMeter i m).pins = s.pins := rfl
@[simp] theorem State.setMeter_clock (i : Fin 16) (m : Meter) : (s.setMeter i m).clock = s.clock := rfl
@[simp] theorem State.setMeter_loader (i : Fin 16) (m : Meter) : (s.setMeter i m).loader = s.loader := rfl
@[simp] theorem State.setMeter_ports (i : Fin 16) (m : Meter) : (s.setMeter i m).ports = s.ports := rfl
@[simp] theorem State.setMeter_dom (i : Fin 16) (m : Meter) : (s.setMeter i m).dom = s.dom := rfl
@[simp] theorem State.setMeter_steer (i : Fin 16) (m : Meter) : (s.setMeter i m).steer = s.steer := rfl
@[simp] theorem State.setMeter_pcp (i : Fin 16) (m : Meter) : (s.setMeter i m).pcp = s.pcp := rfl
@[simp] theorem State.setMeter_pool (i : Fin 16) (m : Meter) : (s.setMeter i m).pool = s.pool := rfl
@[simp] theorem State.setMeter_sched (i : Fin 16) (m : Meter) : (s.setMeter i m).sched = s.sched := rfl
@[simp] theorem State.setMeter_agentOut (i : Fin 16) (m : Meter) : (s.setMeter i m).agentOut = s.agentOut := rfl
@[simp] theorem State.setMeter_mediaOut (i : Fin 16) (m : Meter) : (s.setMeter i m).mediaOut = s.mediaOut := rfl
@[simp] theorem State.setMeter_agent (i : Fin 16) (m : Meter) : (s.setMeter i m).agent = s.agent := rfl
@[simp] theorem State.setMeter_operators (i : Fin 16) (m : Meter) : (s.setMeter i m).operators = s.operators := rfl
@[simp] theorem State.setMeter_line (i : Fin 16) (m : Meter) : (s.setMeter i m).line = s.line := rfl
@[simp] theorem State.setMeter_hist (i : Fin 16) (m : Meter) : (s.setMeter i m).hist = s.hist := rfl
@[simp] theorem State.setMeter_media (i : Fin 16) (m : Meter) : (s.setMeter i m).media = s.media := rfl
@[simp] theorem State.setMeter_power (i : Fin 16) (m : Meter) : (s.setMeter i m).power = s.power := rfl
@[simp] theorem State.setMeter_script (i : Fin 16) (m : Meter) : (s.setMeter i m).script = s.script := rfl
@[simp] theorem State.setMeter_bank (i : Fin 16) (m : Meter) : (s.setMeter i m).meters.bank = s.meters.bank.set i m := rfl
@[simp] theorem State.setMeter_agentMeter (i : Fin 16) (m : Meter) : (s.setMeter i m).meters.agentMeter = s.meters.agentMeter := rfl
@[simp] theorem State.setMeter_mediaMeter (i : Fin 16) (m : Meter) : (s.setMeter i m).meters.mediaMeter = s.meters.mediaMeter := rfl

@[simp] theorem State.withPending_pending (cs : List Instr) : (s.withPending cs).pending = cs := rfl
@[simp] theorem State.withPending_phase (cs : List Instr) : (s.withPending cs).phase = s.phase := rfl
@[simp] theorem State.withPending_pins (cs : List Instr) : (s.withPending cs).pins = s.pins := rfl
@[simp] theorem State.withPending_clock (cs : List Instr) : (s.withPending cs).clock = s.clock := rfl
@[simp] theorem State.withPending_loader (cs : List Instr) : (s.withPending cs).loader = s.loader := rfl
@[simp] theorem State.withPending_ports (cs : List Instr) : (s.withPending cs).ports = s.ports := rfl
@[simp] theorem State.withPending_dom (cs : List Instr) : (s.withPending cs).dom = s.dom := rfl
@[simp] theorem State.withPending_steer (cs : List Instr) : (s.withPending cs).steer = s.steer := rfl
@[simp] theorem State.withPending_pcp (cs : List Instr) : (s.withPending cs).pcp = s.pcp := rfl
@[simp] theorem State.withPending_pool (cs : List Instr) : (s.withPending cs).pool = s.pool := rfl
@[simp] theorem State.withPending_meters (cs : List Instr) : (s.withPending cs).meters = s.meters := rfl
@[simp] theorem State.withPending_sched (cs : List Instr) : (s.withPending cs).sched = s.sched := rfl
@[simp] theorem State.withPending_agentOut (cs : List Instr) : (s.withPending cs).agentOut = s.agentOut := rfl
@[simp] theorem State.withPending_mediaOut (cs : List Instr) : (s.withPending cs).mediaOut = s.mediaOut := rfl
@[simp] theorem State.withPending_agent (cs : List Instr) : (s.withPending cs).agent = s.agent := rfl
@[simp] theorem State.withPending_operators (cs : List Instr) : (s.withPending cs).operators = s.operators := rfl
@[simp] theorem State.withPending_line (cs : List Instr) : (s.withPending cs).line = s.line := rfl
@[simp] theorem State.withPending_hist (cs : List Instr) : (s.withPending cs).hist = s.hist := rfl
@[simp] theorem State.withPending_media (cs : List Instr) : (s.withPending cs).media = s.media := rfl
@[simp] theorem State.withPending_power (cs : List Instr) : (s.withPending cs).power = s.power := rfl
@[simp] theorem State.withPending_script (cs : List Instr) : (s.withPending cs).script = s.script := rfl

@[simp] theorem State.onAgentCnt_eq (f : AgentCounters → AgentCounters) : s.onAgentCnt f = s.onAgent fun x => { x with cnt := f x.cnt } := rfl
@[simp] theorem State.onLineCnt_eq (f : LineCounters → LineCounters) : s.onLineCnt f = s.onLine fun x => { x with cnt := f x.cnt } := rfl
@[simp] theorem State.onHistCnt_eq (f : HistoryCounters → HistoryCounters) : s.onHistCnt f = s.onHist fun x => { x with cnt := f x.cnt } := rfl
@[simp] theorem State.onPowerCnt_eq (f : PowerCounters → PowerCounters) : s.onPowerCnt f = s.onPower fun x => { x with cnt := f x.cnt } := rfl
@[simp] theorem State.onScriptCnt_eq (f : ScriptCounters → ScriptCounters) : s.onScriptCnt f = s.onScript fun x => { x with cnt := f x.cnt } := rfl
@[simp] theorem State.onBlk_eq (f : BlockCounters → BlockCounters) : s.onBlk f = s.onMedia fun m => { m with blk := f m.blk } := rfl
@[simp] theorem State.onXfer_eq (f : TransferCounters → TransferCounters) : s.onXfer f = s.onMedia fun m => { m with xfer := f m.xfer } := rfl

/-! ### One thing for each port -/

@[simp] theorem PerPort.get_set {α : Type} (x : PerPort α) (p : Port) (v : α) : (x.set p v).get p = v := by cases p <;> rfl

theorem PerPort.get_set_ne {α : Type} (x : PerPort α) {p q : Port} (v : α) (h : q ≠ p) : (x.set p v).get q = x.get q := by
  cases p <;> cases q <;> first | rfl | exact absurd rfl h

theorem PerPort.get_set_if {α : Type} (x : PerPort α) (p q : Port) (v : α) :
    (x.set p v).get q = if q = p then v else x.get q := by
  cases p <;> cases q <;> rfl

/-! ### One thing for each index -/

theorem getElem_set_if {α : Type} {n : Nat} (v : Vector α n) (i j : Fin n) (x : α) :
    (v.set i x)[j] = if i = j then x else v[j] := by
  by_cases e : i = j
  · subst e; simp
  · have : (i : Nat) ≠ j := fun x => e (Fin.ext x)
    simp [Vector.getElem_set_ne, this, e]

/-! ### The out-queues -/

@[simp] theorem State.setOutQueue_same (sh : Shaper) (q : OutQueue) : (s.setOutQueue sh q).outQueue sh = q := by
  cases sh <;> rfl

end Sys2Proof.Machine
end

