-- ==== Sys2Proof/Laws/Traffic.lean ====
section
/-! SUPPORT. What the shared operations of the part's own traffic leave as it was: the cell pool, the class queues, the
shapers, the out-queues, replies and pushes. -/

namespace Sys2Proof.Machine

/-! ### The two relations are preorders -/

theorem SameButPushes.refl (s : State) : SameButPushes s s := by
  constructor <;> first | rfl | exact ⟨rfl, rfl⟩ | (intros; exact ⟨rfl, rfl, rfl⟩) | (intros; exact ⟨rfl, rfl⟩) | (intros; rfl)

theorem SameButPushes.trans {s t u : State} (a : SameButPushes s t) (b : SameButPushes t u) : SameButPushes s u where
  pending := b.pending.trans a.pending
  phase := b.phase.trans a.phase
  pins := b.pins.trans a.pins
  clock := b.clock.trans a.clock
  loader := b.loader.trans a.loader
  link := b.link.trans a.link
  portSet := b.portSet.trans a.portSet
  partMac := b.partMac.trans a.partMac
  holdS := b.holdS.trans a.holdS
  dom := b.dom.trans a.dom
  steer := b.steer.trans a.steer
  pcp := b.pcp.trans a.pcp
  reserve := b.reserve.trans a.reserve
  ceiling := b.ceiling.trans a.ceiling
  mediaOut := b.mediaOut.trans a.mediaOut
  operators := b.operators.trans a.operators
  line := b.line.trans a.line
  patterns := b.patterns.trans a.patterns
  regions := b.regions.trans a.regions
  mediaInbox := b.mediaInbox.trans a.mediaInbox
  held := b.held.trans a.held
  power := b.power.trans a.power
  script := b.script.trans a.script
  meterRoles := ⟨b.meterRoles.1.trans a.meterRoles.1, b.meterRoles.2.trans a.meterRoles.2⟩
  classes := ⟨b.classes.1.trans a.classes.1, b.classes.2.trans a.classes.2⟩
  ring := ⟨b.ring.1.trans a.ring.1, b.ring.2.trans a.ring.2⟩
  marks := ⟨b.marks.1.trans a.marks.1, b.marks.2.trans a.marks.2⟩
  push := ⟨b.push.1.trans a.push.1, b.push.2.trans a.push.2⟩
  cache := ⟨b.cache.1.trans a.cache.1, b.cache.2.trans a.cache.2⟩
  issue := ⟨b.issue.1.trans a.issue.1, b.issue.2.trans a.issue.2⟩
  mediaSet := ⟨b.mediaSet.1.trans a.mediaSet.1, b.mediaSet.2.trans a.mediaSet.2⟩
  mediaCnt := ⟨b.mediaCnt.1.trans a.mediaCnt.1, b.mediaCnt.2.trans a.mediaCnt.2⟩
  meters i := ⟨(b.meters i).1.trans (a.meters i).1, (b.meters i).2.1.trans (a.meters i).2.1,
    (b.meters i).2.2.trans (a.meters i).2.2⟩
  modes p := (b.modes p).trans (a.modes p)
  queues p k := ⟨(b.queues p k).1.trans (a.queues p k).1, (b.queues p k).2.trans (a.queues p k).2⟩
  gens e := (b.gens e).trans (a.gens e)
  uses e := (b.uses e).trans (a.uses e)

theorem SameButTraffic.refl (s : State) : SameButTraffic s s := ⟨.refl s, rfl⟩

theorem SameButTraffic.trans {s t u : State} (a : SameButTraffic s t) (b : SameButTraffic t u) : SameButTraffic s u :=
  ⟨a.1.trans b.1, b.hist.trans a.hist⟩

/-! ### Meters and egress sides -/

/-- Presenting a frame moves only credit, time and counts. -/
theorem Meter.present_config (m : Meter) (now : Time) (q : Nat) :
    ((m.present now q).1).rate = m.rate ∧ ((m.present now q).1).burst = m.burst ∧ ((m.present now q).1).mode = m.mode := by
  unfold Meter.present
  split
  · exact ⟨rfl, rfl, rfl⟩
  · dsimp only
    split <;> exact ⟨rfl, rfl, rfl⟩

/-- Two egress sides with the same mode, cell limits and weights. -/
def Egress.SameSettings (e f : Egress) : Prop :=
  f.mode = e.mode ∧ ∀ k : Fin 4, (f.queues[k]).cellLimit = (e.queues[k]).cellLimit ∧ (f.queues[k]).weight = (e.queues[k]).weight

theorem Egress.SameSettings.trans {e f g : Egress} (a : e.SameSettings f) (b : f.SameSettings g) : e.SameSettings g :=
  ⟨b.1.trans a.1, fun k => ⟨(b.2 k).1.trans (a.2 k).1, (b.2 k).2.trans (a.2 k).2⟩⟩

theorem Egress.withFrames_same (e : Egress) (c : Fin 4) (fs : List QFrame) (d : Nat) : e.SameSettings (e.withFrames c fs d) := by
  refine ⟨rfl, fun k => ?_⟩
  by_cases h : c = k
  · subst h; simp [Egress.withFrames]
  · have : (c : Nat) ≠ k := fun x => h (Fin.ext x)
    simp [Egress.withFrames, Vector.getElem_set_ne, this]

theorem Egress.moveOn_same (e : Egress) : e.SameSettings e.moveOn := ⟨rfl, fun _ => ⟨rfl, rfl⟩⟩

theorem Egress.flushed_same (e : Egress) : e.SameSettings e.flushed :=
  ⟨rfl, fun k => by simp [Egress.flushed]⟩

theorem Egress.strictPick_same {e e' : Egress} {f : QFrame} {k : Fin 4} (h : e.strictPick = some (f, k, e')) :
    e.SameSettings e' := by
  unfold Egress.strictPick at h
  split at h
  · exact absurd h (by simp)
  · split at h
    · exact absurd h (by simp)
    · simp only [Option.some.injEq, Prod.mk.injEq] at h
      exact h.2.2 ▸ Egress.withFrames_same ..

theorem Egress.weightedPick_same {fuel : Nat} {e e' : Egress} {f : QFrame} {k : Fin 4}
    (h : Egress.weightedPick fuel e = some (f, k, e')) : e.SameSettings e' := by
  induction fuel generalizing e with
  | zero => simp [Egress.weightedPick] at h
  | succ n ih =>
    unfold Egress.weightedPick at h
    dsimp only at h
    split at h
    · exact ((Egress.withFrames_same ..).trans (Egress.moveOn_same _)).trans (ih h)
    · generalize (if e.granted = true then (e.queues[e.visit]).deficit
        else (e.queues[e.visit]).deficit + (e.queues[e.visit]).weight * 256) = d at h
      split at h
      · split at h
        · simp only [Option.some.injEq, Prod.mk.injEq] at h
          exact h.2.2 ▸ (Egress.withFrames_same ..).trans (Egress.moveOn_same _)
        · simp only [Option.some.injEq, Prod.mk.injEq] at h
          exact h.2.2 ▸ Egress.withFrames_same e e.visit _ _
      · exact ((Egress.withFrames_same ..).trans (Egress.moveOn_same _)).trans (ih h)

/-- A choice moves frames, deficits and the visit, and no setting. -/
theorem Egress.pick_same {e e' : Egress} {f : QFrame} {k : Fin 4} (h : e.pick = some (f, k, e')) : e.SameSettings e' := by
  unfold Egress.pick at h
  split at h
  · exact absurd h (by simp)
  · split at h
    · exact Egress.strictPick_same h
    · exact Egress.weightedPick_same h

/-! ### Counters, cells and credits -/

namespace SameButTraffic

theorem onCnt (s : State) (p : Port) (f : PortCounters → PortCounters) : SameButTraffic s (s.onCnt p f) := by
  refine ⟨?_, rfl⟩
  constructor <;>
    first | rfl | exact ⟨rfl, rfl⟩ | (intros; exact ⟨rfl, rfl, rfl⟩) | (intros; exact ⟨rfl, rfl⟩) | (intros; rfl)

theorem onAgent (s : State) (f : Agent → Agent) : SameButTraffic s (s.onAgent f) := by
  refine ⟨?_, rfl⟩
  constructor <;>
    first | rfl | exact ⟨rfl, rfl⟩ | (intros; exact ⟨rfl, rfl, rfl⟩) | (intros; exact ⟨rfl, rfl⟩) | (intros; rfl)

theorem takeCells (s : State) (n : Nat) : SameButTraffic s (s.takeCells n) := by
  refine ⟨?_, rfl⟩
  constructor <;>
    first | rfl | exact ⟨rfl, rfl⟩ | (intros; exact ⟨rfl, rfl, rfl⟩) | (intros; exact ⟨rfl, rfl⟩) | (intros; rfl)

theorem mapShapers (s : State) (f : ShaperState → ShaperState) : SameButTraffic s (s.mapShapers f) := by
  refine ⟨?_, rfl⟩
  constructor <;>
    first | rfl | exact ⟨rfl, rfl⟩ | (intros; exact ⟨rfl, rfl, rfl⟩) | (intros; exact ⟨rfl, rfl⟩) | (intros; rfl)

theorem returnCells (s : State) (n : Nat) : SameButTraffic s (s.returnCells n) := by
  refine ⟨?_, rfl⟩
  constructor <;>
    first | rfl | exact ⟨rfl, rfl⟩ | (intros; exact ⟨rfl, rfl, rfl⟩) | (intros; exact ⟨rfl, rfl⟩) | (intros; rfl)

theorem setAgentOut (s : State) (q : OutQueue) : SameButTraffic s (s.setOutQueue .agent q) := by
  refine ⟨?_, rfl⟩
  constructor <;>
    first | rfl | exact ⟨rfl, rfl⟩ | (intros; exact ⟨rfl, rfl, rfl⟩) | (intros; exact ⟨rfl, rfl⟩) | (intros; rfl)

theorem setShaper (s : State) (sh : Shaper) (x : ShaperState) : SameButTraffic s (s.setShaper sh x) := by
  cases sh
  all_goals
    refine ⟨?_, rfl⟩
    constructor <;>
      first | rfl | exact ⟨rfl, rfl⟩ | (intros; exact ⟨rfl, rfl, rfl⟩) | (intros; exact ⟨rfl, rfl⟩) | (intros; rfl)

theorem setMeter (s : State) (i : Fin 16) (m : Meter)
    (h : m.rate = (s.meters.bank[i]).rate ∧ m.burst = (s.meters.bank[i]).burst ∧ m.mode = (s.meters.bank[i]).mode) :
    SameButTraffic s (s.setMeter i m) := by
  refine ⟨?_, rfl⟩
  constructor
  case meters =>
    intro j
    by_cases e : i = j
    · subst e; simpa [State.setMeter] using h
    · have : (i : Nat) ≠ j := fun x => e (Fin.ext x)
      simp [State.setMeter, Vector.getElem_set_ne, this]
  all_goals
    first | rfl | exact ⟨rfl, rfl⟩ | (intros; exact ⟨rfl, rfl, rfl⟩) | (intros; exact ⟨rfl, rfl⟩) | (intros; rfl)

/-- A change of one egress side that keeps its settings. -/
theorem onEgress (s : State) (p : Port) (f : Egress → Egress)
    (h : (s.sched.port.get p).SameSettings (f (s.sched.port.get p))) :
    SameButTraffic s (s.onEgress p f) := by
  refine ⟨?_, rfl⟩
  constructor
  case modes => intro q; cases p <;> cases q <;> first | rfl | exact h.1
  case queues => intro q k; cases p <;> cases q <;> first | exact ⟨rfl, rfl⟩ | exact h.2 k
  all_goals
    first | rfl | exact ⟨rfl, rfl⟩ | (intros; exact ⟨rfl, rfl, rfl⟩) | (intros; exact ⟨rfl, rfl⟩) | (intros; rfl)

/-! ### Class queues and shapers -/

theorem announceRoom (s : State) (p : Port) (r : Fin 4 → Bool) : SameButTraffic s (s.announceRoom p r) := by
  cases p
  · exact mapShapers s _
  · exact .refl s

theorem choose (s : State) (p : Port) : SameButTraffic s (s.choose p) := by
  unfold State.choose
  split
  · rename_i h
    refine .trans (onEgress s p _ ?_) (announceRoom _ _ _)
    exact Egress.SameSettings.trans (Egress.pick_same h) ⟨rfl, fun _ => ⟨rfl, rfl⟩⟩
  · exact .refl s

theorem joinClass (s : State) (p : Port) (k : Fin 4) (q : QFrame) : SameButTraffic s (s.joinClass p k q) :=
  onEgress s p _ (Egress.withFrames_same ..)

theorem offerClass (s : State) (p : Port) (k : Fin 4) (n : Nat) (q : QFrame) :
    SameButTraffic s (s.offerClass p k n q).2 := by
  unfold State.offerClass
  split
  · dsimp only; exact onCnt s p _
  split
  · dsimp only; exact onCnt s p _
  split
  · dsimp only; exact onCnt s p _
  split
  · dsimp only; exact onCnt s p _
  · exact ((takeCells ..).trans (joinClass ..)).trans (choose ..)

theorem offerEgress (s : State) (p : Port) (d : Fin 16) (k : Fin 4) (f : Frame) (o : Origin) :
    SameButTraffic s (s.offerEgress p d k f o).2 := by
  unfold State.offerEgress
  split
  · dsimp only; exact onCnt s p _
  · dsimp only; exact onCnt s p _
  · exact offerClass ..

theorem noteGone (s : State) (os : List Origin) : SameButTraffic s (s.noteGone os) := by
  unfold State.noteGone
  split
  · exact onAgent ..
  · exact .refl s

theorem departed (s : State) (o : Origin) : SameButTraffic s (s.departed o) := by
  unfold State.departed
  split
  · dsimp only
    split
    · exact .refl s
    · split
      · rename_i i g u t hu hc
        refine ⟨?_, rfl⟩
        constructor
        case gens =>
          intro e
          by_cases he : i = e
          · subst he; simp [State.onMedia]
          · have : (i : Nat) ≠ e := fun x => he (Fin.ext x)
            simp [State.onMedia, Vector.getElem_set_ne, this]
        case uses =>
          intro e
          by_cases he : i = e
          · subst he; simp only [State.onMedia, Fin.getElem_fin, Vector.getElem_set_self]
            simp only [Fin.getElem_fin] at hu
            rw [hu]; rfl
          · have : (i : Nat) ≠ e := fun x => he (Fin.ext x)
            simp [State.onMedia, Vector.getElem_set_ne, this]
        all_goals
          first | rfl | exact ⟨rfl, rfl⟩ | (intros; exact ⟨rfl, rfl, rfl⟩) | (intros; exact ⟨rfl, rfl⟩) | (intros; rfl)
      · exact .refl s
  · exact .refl s

theorem popHead (s : State) : SameButTraffic s (s.popHead .agent) := by
  unfold State.popHead
  split
  · exact .refl s
  · exact ((setAgentOut ..).trans (onAgent ..)).trans (departed ..)

theorem dropHead (s : State) : SameButTraffic s (s.dropHead .agent) := by
  unfold State.dropHead
  split
  · exact .refl s
  · exact ((popHead s).trans (noteGone ..)).trans (returnCells ..)

theorem moveHead (s : State) (k : Fin 4) (g : Frame) (h : OutFrame) (n : Nat) :
    SameButTraffic s (s.moveHead .agent k g h n).2 := by
  unfold State.moveHead
  have o := offerClass s .u k (g.cells - h.frame.cells) ⟨g, h.origin⟩
  split <;> rename_i e <;> rw [e] at o
  · exact o.trans (popHead _)
  · dsimp only at o ⊢; exact o.trans (setShaper _ _ _)
  · dsimp only at o ⊢; exact o.trans (setShaper _ _ _)
  · exact o.trans (dropHead _)

theorem testHead (fuel : Nat) (s : State) : SameButTraffic s (s.testHead .agent fuel) := by
  induction fuel generalizing s with
  | zero => exact setShaper ..
  | succ n ih =>
    unfold State.testHead
    split
    · exact setShaper ..
    · dsimp only
      split
      · exact ((onCnt ..).trans (dropHead _)).trans (ih _)
      · exact ((onCnt ..).trans (dropHead _)).trans (ih _)
      · rename_i h tl hq j g hg
        have hm := setMeter s (s.shaperMeter .agent)
          ((s.meters.bank[s.shaperMeter .agent].present s.clock.now (chargeOf g.length)).1) (Meter.present_config ..)
        split
        · have hv := moveHead (s.setMeter (s.shaperMeter .agent)
            ((s.meters.bank[s.shaperMeter .agent].present s.clock.now (chargeOf g.length)).1)) (s.shaperClass .agent) g h 0
          split <;> rename_i e <;> rw [e] at hv
          · exact (hm.trans hv).trans (ih _)
          · exact hm.trans hv
        · exact hm.trans (setShaper ..)

theorem runShaper (s : State) : SameButTraffic s (s.runShaper .agent) := testHead ..

/-- Placing a frame in the agent out-queue changes only traffic. -/
theorem placeOut {s t : State} {f : OutFrame} (h : s.placeOut .agent f = some t) : SameButTraffic s t := by
  unfold State.placeOut at h
  dsimp only at h
  split at h
  · simp only [Option.some.injEq] at h
    subst h
    split
    · exact ((takeCells ..).trans (setAgentOut ..)).trans (runShaper _)
    · exact (takeCells ..).trans (setAgentOut ..)
  · exact absurd h (by simp)

/-! ### Replies -/

theorem closeOpen (s : State) (m : Bool) (o : Origin) : SameButTraffic s (s.closeOpen m o) := by
  dsimp only [State.closeOpen]; exact onAgent s _

theorem pack (s : State) (r : Reply) : SameButTraffic s (s.pack r) := by
  unfold State.pack
  dsimp only
  split
  · exact (onAgent ..).trans (onAgent ..)
  · exact ((onAgent ..).trans (closeOpen ..)).trans (onAgent ..)

theorem placeReply {s t : State} {f : OutFrame} (h : s.placeReply f = some t) : SameButTraffic s t := by
  unfold State.placeReply at h
  simp only [Option.map_eq_some_iff] at h
  obtain ⟨u, hu, rfl⟩ := h
  exact (placeOut hu).trans (onAgent ..)

theorem enterWaiting (s : State) : SameButTraffic s s.enterWaiting := onAgent ..

theorem dropInbox (s : State) : SameButTraffic s s.dropInbox := by
  unfold State.dropInbox
  split
  · exact .refl s
  · exact (onAgent ..).trans (returnCells ..)

theorem enterPending (s : State) : SameButTraffic s s.enterPending := ((closeOpen ..).trans (dropInbox _)).trans (onAgent ..)

theorem finishFrame (s : State) : SameButTraffic s s.finishFrame := (onAgent ..).trans (dropInbox _)

theorem advanceN (fuel : Nat) (s : State) : SameButTraffic s (s.advanceN fuel) := by
  induction fuel generalizing s with
  | zero => exact .refl s
  | succ n ih =>
    unfold State.advanceN
    split
    · split
      · exact enterWaiting s
      · rename_i h; exact (placeReply h).trans (ih _)
    · split
      · exact .refl s
      split
      · exact (enterPending s).trans (ih _)
      · split
        · exact onAgent ..
        · exact ((onAgent ..).trans (pack ..)).trans (ih _)
        · exact (closeOpen ..).trans (ih _)
        · exact finishFrame s

/-- What follows a reply changes only traffic. -/
theorem advance (s : State) : SameButTraffic s s.advance := advanceN ..

theorem replied (s : State) (r : Rec) (st : Status) (b : List Byte) : SameButTraffic s (s.replied r st b) :=
  (pack ..).trans (advance _)

theorem popRecord (s : State) : SameButTraffic s s.popRecord := onAgent ..

end SameButTraffic

/-! ### Pushes -/

/-- What a commitment, a judgement of dueness and a raised notice leave of the console history. -/
def History.SameStream (h g : History) : Prop :=
  g.ring = h.ring ∧ g.newest = h.newest ∧ g.marks = h.marks ∧ g.nextMark = h.nextMark ∧ g.patterns = h.patterns ∧
    g.threshold = h.threshold ∧ g.delay = h.delay

theorem History.SameStream.refl (h : History) : h.SameStream h := ⟨rfl, rfl, rfl, rfl, rfl, rfl, rfl⟩

theorem History.SameStream.trans {h g k : History} (a : h.SameStream g) (b : g.SameStream k) : h.SameStream k :=
  ⟨b.1.trans a.1, b.2.1.trans a.2.1, b.2.2.1.trans a.2.2.1, b.2.2.2.1.trans a.2.2.2.1, b.2.2.2.2.1.trans a.2.2.2.2.1,
    b.2.2.2.2.2.1.trans a.2.2.2.2.2.1, b.2.2.2.2.2.2.trans a.2.2.2.2.2.2⟩

theorem History.onWatcher_same (h : History) (w : Fin 4) (f : Watcher → Watcher) : h.SameStream (h.onWatcher w f) :=
  ⟨rfl, rfl, rfl, rfl, rfl, rfl, rfl⟩

theorem History.judgeDue_same (h : History) (now : Time) (w : Fin 4) : h.SameStream (h.judgeDue now w) :=
  ⟨rfl, rfl, rfl, rfl, rfl, rfl, rfl⟩

theorem History.disown_same (h : History) (w : Fin 4) : h.SameStream (h.disown w) := ⟨rfl, rfl, rfl, rfl, rfl, rfl, rfl⟩

theorem History.commitPush_same (h : History) (now : Time) (p : Push) : h.SameStream (h.commitPush now p) := by
  unfold History.commitPush
  split
  · dsimp only
    split
    · exact onWatcher_same ..
    · exact ⟨rfl, rfl, rfl, rfl, rfl, rfl, rfl⟩
  · exact ⟨rfl, rfl, rfl, rfl, rfl, rfl, rfl⟩
  · exact ⟨rfl, rfl, rfl, rfl, rfl, rfl, rfl⟩

theorem History.loseOne_same (ws : List (Fin 4)) (h : History) :
    h.SameStream (ws.foldl (fun (g : History) w => g.onWatcher w fun x => { x with lost := x.lost + 1 }) h) := by
  induction ws generalizing h with
  | nil => exact .refl h
  | cons w ws ih => exact (onWatcher_same h w _).trans (ih _)

theorem History.raise_same (h : History) (n : Notice) (now : Time) (e : Option Nat) : h.SameStream (h.raise n now e) := by
  unfold History.raise
  dsimp only
  split
  · exact .refl h
  · split
    · exact ⟨rfl, rfl, rfl, rfl, rfl, rfl, rfl⟩
    · rename_i e rest heq
      split
      · exact (loseOne_same e.owed h).trans ⟨rfl, rfl, rfl, rfl, rfl, rfl, rfl⟩
      · exact ⟨rfl, rfl, rfl, rfl, rfl, rfl, rfl⟩

namespace SameButPushes

theorem onHist (s : State) (f : History → History)
    (h : s.hist.SameStream (f s.hist)) : SameButPushes s (s.onHist f) := by
  obtain ⟨h1, h2, h3, h4, h5, h6, h7⟩ := h
  constructor
  case ring => exact ⟨h1, h2⟩
  case marks => exact ⟨h3, h4⟩
  case patterns => exact h5
  case push => exact ⟨h6, h7⟩
  all_goals
    first | rfl | exact ⟨rfl, rfl⟩ | (intros; exact ⟨rfl, rfl, rfl⟩) | (intros; exact ⟨rfl, rfl⟩) | (intros; rfl)

end SameButPushes

namespace SameButPushes

theorem placePush {s t : State} {p : Push} (h : s.placePush p = some t) : SameButPushes s t := by
  unfold State.placePush at h
  simp only [Option.map_eq_some_iff] at h
  obtain ⟨u, hu, rfl⟩ := h
  exact ((SameButTraffic.placeOut hu).1.trans (SameButTraffic.onAgent ..).1).trans
    (onHist _ _ (History.commitPush_same ..))

theorem pumpN (fuel : Nat) (s : State) : SameButPushes s (s.pumpN fuel) := by
  induction fuel generalizing s with
  | zero => exact .refl s
  | succ n ih =>
    unfold State.pumpN
    split
    · exact .refl s
    · split
      · exact .refl s
      · split
        · exact (onHist s (fun h => { h with offerWaiting := true }) ⟨rfl, rfl, rfl, rfl, rfl, rfl, rfl⟩).trans
            (SameButTraffic.onAgent ..).1
        · rename_i h; exact (placePush h).trans (ih _)

/-- Offering what there is to send changes only traffic and what the history block keeps of pushes. -/
theorem pump (s : State) : SameButPushes s s.pump := pumpN ..

theorem settleOffer (s : State) : SameButPushes s s.settleOffer := by
  unfold State.settleOffer
  split
  · exact onHist _ _ ⟨rfl, rfl, rfl, rfl, rfl, rfl, rfl⟩
  · exact .refl s

/-- Raising a notice changes only traffic and what the history block keeps of pushes. -/
theorem raiseNotice (s : State) (n : Notice) : SameButPushes s (s.raiseNotice n) :=
  (onHist s _ (History.raise_same s.hist n s.clock.now s.clock.epoch)).trans (pump _)

theorem removeWatcher (s : State) (w : Fin 4) : SameButPushes s (s.removeWatcher w) :=
  (onHist _ _ ⟨rfl, rfl, rfl, rfl, rfl, rfl, rfl⟩).trans (settleOffer _)

theorem removeWatcherOf (s : State) (op : Fin 8) : SameButPushes s (s.removeWatcherOf op) := by
  unfold State.removeWatcherOf
  split
  · exact .refl s
  · exact removeWatcher ..

end SameButPushes

end Sys2Proof.Machine
end

