-- ==== Sys2Proof/Laws/Agent.lean ====
section
/-! SUPPORT. What placing a frame leaves of the agent, and the equations of `State.advance`, whose fuel is always enough. -/

namespace Sys2Proof.Machine

/-- The agent but for what it hears of while a frame is placed: retries owed, and the RESTART reply gone. -/
def Agent.unheard (a : Agent) : Agent := { a with retries := 0, restartGone := false }

/-- The agents of two states differ at most in what the agent has heard of. -/
def SameAgent (s t : State) : Prop := t.agent.unheard = s.agent.unheard

namespace SameAgent

variable {s t u : State}

theorem refl (s : State) : SameAgent s s := rfl

theorem trans (a : SameAgent s t) (b : SameAgent t u) : SameAgent s u := Eq.trans b a

theorem of_eq (h : t.agent = s.agent) : SameAgent s t := by unfold SameAgent; rw [h]

theorem setOutQueue (s : State) (sh : Shaper) (q : OutQueue) : SameAgent s (s.setOutQueue sh q) := by cases sh <;> rfl

theorem setShaper (s : State) (sh : Shaper) (x : ShaperState) : SameAgent s (s.setShaper sh x) := by cases sh <;> rfl

theorem announceRoom (s : State) (p : Port) (r : Fin 4 → Bool) : SameAgent s (s.announceRoom p r) := by cases p <;> rfl

theorem choose (s : State) (p : Port) : SameAgent s (s.choose p) := by
  unfold State.choose
  split
  · exact trans (of_eq rfl) (announceRoom ..)
  · exact refl s

theorem offerClass (s : State) (p : Port) (k : Fin 4) (n : Nat) (q : QFrame) : SameAgent s (s.offerClass p k n q).2 := by
  unfold State.offerClass
  split
  · exact of_eq rfl
  split
  · exact of_eq rfl
  split
  · exact of_eq rfl
  split
  · exact of_eq rfl
  · exact trans (of_eq rfl) (choose ..)

theorem noteGone (s : State) (os : List Origin) : SameAgent s (s.noteGone os) := by
  unfold State.noteGone
  split <;> rfl

theorem departed (s : State) (o : Origin) : SameAgent s (s.departed o) := by
  unfold State.departed
  split
  · dsimp only
    split
    · exact refl s
    · split <;> rfl
  · exact refl s

theorem leftHead (s : State) (sh : Shaper) : SameAgent s (s.leftHead sh) := by cases sh <;> rfl

theorem popHead (s : State) (sh : Shaper) : SameAgent s (s.popHead sh) := by
  unfold State.popHead
  split
  · exact refl s
  · exact ((setOutQueue ..).trans (leftHead ..)).trans (departed ..)

theorem returnCells (s : State) (n : Nat) : SameAgent s (s.returnCells n) := rfl

theorem dropHead (s : State) (sh : Shaper) : SameAgent s (s.dropHead sh) := by
  unfold State.dropHead
  split
  · exact refl s
  · exact ((popHead s sh).trans (noteGone ..)).trans (returnCells ..)

theorem moveHead (s : State) (sh : Shaper) (k : Fin 4) (g : Frame) (h : OutFrame) (n : Nat) :
    SameAgent s (s.moveHead sh k g h n).2 := by
  unfold State.moveHead
  have o := offerClass s .u k (g.cells - h.frame.cells) ⟨g, h.origin⟩
  split <;> rename_i e <;> rw [e] at o
  · exact o.trans (popHead ..)
  · exact o.trans (setShaper ..)
  · exact o.trans (setShaper ..)
  · exact o.trans (dropHead ..)

theorem testHead (sh : Shaper) (fuel : Nat) (s : State) : SameAgent s (s.testHead sh fuel) := by
  induction fuel generalizing s with
  | zero => exact setShaper ..
  | succ n ih =>
    unfold State.testHead
    split
    · exact setShaper ..
    · dsimp only
      split
      · exact ((of_eq rfl).trans (dropHead (s.onCnt .u _) sh)).trans (ih _)
      · exact ((of_eq rfl).trans (dropHead (s.onCnt .u _) sh)).trans (ih _)
      · rename_i h _ _ _ g _
        split
        · have hv := moveHead (s.setMeter (s.shaperMeter sh)
            ((s.meters.bank[s.shaperMeter sh].present s.clock.now (chargeOf g.length)).1)) sh (s.shaperClass sh) g h 0
          have hm : SameAgent s (s.setMeter (s.shaperMeter sh)
            ((s.meters.bank[s.shaperMeter sh].present s.clock.now (chargeOf g.length)).1)) := of_eq rfl
          split <;> rename_i e <;> rw [e] at hv
          · exact (hm.trans hv).trans (ih _)
          · exact hm.trans hv
        · exact (of_eq rfl).trans (setShaper (s.setMeter _ _) ..)

theorem placeOut {sh : Shaper} {f : OutFrame} (h : s.placeOut sh f = some t) : SameAgent s t := by
  unfold State.placeOut at h
  dsimp only at h
  split at h
  · simp only [Option.some.injEq] at h
    subst h
    have q : SameAgent s ((s.takeCells f.frame.cells).setOutQueue sh
        { s.outQueue sh with frames := (s.outQueue sh).frames ++ [f] }) := (of_eq rfl).trans (setOutQueue ..)
    split
    · exact q.trans (testHead ..)
    · exact q
  · exact absurd h (by simp)

end SameAgent

/-- A placed reply frame leaves the closed frames, and the rest of what `advance` looks at stays. -/
theorem State.placeReply_agent {s t : State} {f : OutFrame} (h : s.placeReply f = some t) :
    t.agent.closed = s.agent.closed.drop 1 ∧ t.agent.state = s.agent.state ∧ t.agent.todo = s.agent.todo ∧
    t.agent.trailing = s.agent.trailing ∧ t.agent.openReplies = s.agent.openReplies ∧
    t.agent.restartAccepted = s.agent.restartAccepted := by
  unfold State.placeReply at h
  simp only [Option.map_eq_some_iff] at h
  obtain ⟨u, hu, rfl⟩ := h
  have e : u.agent.unheard = s.agent.unheard := SameAgent.placeOut hu
  have k {α : Type} (p : Agent → α) (hp : ∀ a : Agent, p a = p a.unheard) : p u.agent = p s.agent := by
    rw [hp u.agent, e, ← hp]
  refine ⟨?_, k Agent.state fun _ => rfl, k Agent.todo fun _ => rfl, k Agent.trailing fun _ => rfl,
    k Agent.openReplies fun _ => rfl, k Agent.restartAccepted fun _ => rfl⟩
  show u.agent.closed.drop 1 = _
  rw [k Agent.closed fun _ => rfl]

/-- How many steps `advanceN` has before it at most. -/
def Agent.stepsLeft (a : Agent) : Nat :=
  a.closed.length +
    (if a.state = .restartPending then 1
    else if a.restartAccepted then 3
    else if a.todo ≠ [] then 1
    else if a.trailing ≠ none then 5
    else if a.openReplies ≠ [] then 3
    else 1)

theorem Agent.stepsLeft_pos (a : Agent) : 1 ≤ a.stepsLeft := by
  unfold Agent.stepsLeft
  repeat' split
  all_goals omega

theorem Agent.stepsLeft_le (a : Agent) : a.stepsLeft ≤ a.closed.length + 5 := by
  unfold Agent.stepsLeft
  repeat' split
  all_goals omega

theorem State.dropInbox_agent (s : State) : s.dropInbox.agent.closed = s.agent.closed := by
  unfold State.dropInbox
  split <;> rfl

/-- More fuel than the steps left changes nothing. -/
theorem State.advanceN_enough (m : Nat) : ∀ (n : Nat) (s : State), s.agent.stepsLeft ≤ n → s.advanceN (n + m) = s.advanceN n := by
  intro n
  induction n with
  | zero => intro s h; exact absurd h (by have := s.agent.stepsLeft_pos; omega)
  | succ n ih =>
    intro s h
    rw [show n + 1 + m = (n + m) + 1 by omega]
    unfold State.advanceN
    split
    · rename_i f fs hc
      split
      · rfl
      · rename_i s1 hp
        apply ih
        obtain ⟨h1, h2, h3, h4, h5, h6⟩ := State.placeReply_agent hp
        unfold Agent.stepsLeft at h ⊢
        rw [h1, h2, h3, h4, h5, h6, hc]
        rw [hc] at h
        simp only [List.drop_one, List.tail_cons, List.length_cons] at h ⊢
        omega
    · rename_i hc
      split
      · rfl
      rename_i hs
      split
      · rename_i ha
        apply ih
        unfold Agent.stepsLeft at h
        have e1 : s.enterPending.agent.closed.length = 1 := by
          show ((s.closeOpen false .restartReply).dropInbox.agent.closed).length = 1
          rw [State.dropInbox_agent]
          show (s.agent.closed ++ [_]).length = 1
          rw [hc]; rfl
        have e2 : s.enterPending.agent.state = .restartPending := rfl
        unfold Agent.stepsLeft
        rw [e1, if_pos e2]
        rw [hc, if_neg hs, if_pos ha] at h
        simp only [List.length_nil] at h
        omega
      · rename_i ha
        split
        · rfl
        · rename_i ty tag ht htr
          apply ih
          unfold Agent.stepsLeft at h
          have hl : (0 : Nat) + 5 ≤ n + 1 := by
            rw [hc, if_neg hs, if_neg ha, if_neg (by simp [ht]), if_pos (by simp [htr])] at h
            simpa using h
          have e : (((s.onAgent fun a => { a with trailing := none }).pack ⟨ty, tag, .malformed, []⟩).agent.stepsLeft) ≤ 4 := by
            unfold State.pack
            dsimp only
            unfold Agent.stepsLeft
            have h0 : s.agent.closed.length = 0 := by rw [hc]; rfl
            have ha' : s.agent.restartAccepted = false := by simpa using ha
            split <;> simp [State.onAgent, State.onAgentCnt, State.closeOpen, hs, ha', ht, h0]
          omega
        · rename_i x xs ht htr ho
          apply ih
          have h0 : s.agent.closed.length = 0 := by rw [hc]; rfl
          have ha' : s.agent.restartAccepted = false := by simpa using ha
          unfold Agent.stepsLeft at h ⊢
          simp [State.onAgent, State.closeOpen, hs, ha', ht, h0, htr, ho] at h ⊢
          omega
        · rfl

/-- With the fuel of `advance` or more, `advanceN` is `advance`. -/
theorem State.advanceN_eq {s : State} {n : Nat} (h : s.agent.stepsLeft ≤ n) : s.advanceN n = s.advance := by
  unfold State.advance
  have k := s.agent.stepsLeft_le
  rcases Nat.le_total n (s.agent.closed.length + 5) with l | l
  · obtain ⟨d, e⟩ := Nat.exists_eq_add_of_le l
    rw [e, State.advanceN_enough d n s h]
  · obtain ⟨d, e⟩ := Nat.exists_eq_add_of_le l
    rw [e, State.advanceN_enough d _ s k]

end Sys2Proof.Machine
end

