-- ==== Sys2Proof/Laws/Cells.lean ====
section
/-! SUPPORT. What the operations of the frame path do to the sum of R22 (`CellsSound`): the pool, the class queues, the choice of
a frame, and the flushes. -/

namespace Sys2Proof.Machine

/-- `CellsSound` in the middle of an operation: `n` cells are in no place (fewer than none: in two places), and the form a BLOCKED
shaper `b` keeps may not fit its head. -/
structure CellsBut (b : Option Shaper) (n : Int) (s : State) : Prop where
  total : (s.pool.free : Int) + s.frameCells + s.cacheCells + n = 8192
  lines : OneLineEach s.media
  built : ∀ f ∈ s.agentOut.frames ++ s.mediaOut.frames ++ s.agent.closed, f.frame.tag = none
  blocked : ∀ (sh : Shaper) (g : Frame) (k : Fin 4) (w : Bool) (m : Nat) (h : OutFrame) (rest : List OutFrame), b ≠ some sh →
    (s.outQueue sh).shaper = .blocked g k w m → (s.outQueue sh).frames = h :: rest → h.frame.cells ≤ g.cells

theorem CellsSound.but {s : State} (h : CellsSound s) : CellsBut none 0 s :=
  ⟨by have : s.pool.free + s.frameCells + s.cacheCells = 8192 := h.total
      omega, h.lines, h.built, fun sh g k w m x r _ => h.blocked sh g k w m x r⟩

namespace CellsBut

variable {b : Option Shaper} {n : Int} {s t : State}

theorem sound (h : CellsBut none 0 s) : CellsSound s :=
  ⟨by have : (s.pool.free : Int) + s.frameCells + s.cacheCells + 0 = 8192 := h.total
      unfold CellsAddUp; omega, h.lines, h.built, fun sh g k w m x r => h.blocked sh g k w m x r (by simp)⟩

theorem loosen (h : CellsBut none n s) : CellsBut b n s :=
  { h with blocked := fun sh g k w m x r _ => h.blocked sh g k w m x r (by simp) }

theorem congr {m : Int} (h : CellsBut b n s) (e : n = m) : CellsBut b m s := e ▸ h

/-- A shaper state whose kept form, if it keeps one, is that of `x`. -/
def KeepsForm (x y : ShaperState) : Prop := ∀ g k w m, y = .blocked g k w m → ∃ w' m', x = .blocked g k w' m'

theorem KeepsForm.refl (x : ShaperState) : KeepsForm x x := fun _ _ w m h => ⟨w, m, h⟩

theorem KeepsForm.oweCell (x : ShaperState) : KeepsForm x x.oweCell := by
  intro g k w m h
  unfold ShaperState.oweCell at h
  split at h
  · simp only [ShaperState.blocked.injEq] at h
    obtain ⟨rfl, rfl, _, _⟩ := h
    exact ⟨_, _, rfl⟩
  · exact ⟨w, m, h⟩

theorem KeepsForm.oweRoom (r : Fin 4 → Bool) (x : ShaperState) : KeepsForm x (x.oweRoom r) := by
  intro g k w m h
  unfold ShaperState.oweRoom at h
  split at h
  · simp only [ShaperState.blocked.injEq] at h
    obtain ⟨rfl, rfl, _, _⟩ := h
    exact ⟨_, _, rfl⟩
  · exact ⟨w, m, h⟩

/-- A state with the same lines, out-queues but for retries owed, and closed frames, whose cells differ by `d`. -/
theorem move {d : Int} (h : CellsBut b n s)
    (hd : (t.pool.free : Int) + t.frameCells + t.cacheCells = s.pool.free + s.frameCells + s.cacheCells + d)
    (hl : OneLineEach s.media → OneLineEach t.media) (ha : t.agentOut.frames = s.agentOut.frames)
    (hm : t.mediaOut.frames = s.mediaOut.frames) (hc : ∀ f ∈ t.agent.closed, f ∈ s.agent.closed)
    (hf : ∀ sh, KeepsForm (s.outQueue sh).shaper (t.outQueue sh).shaper) : CellsBut b (n - d) t where
  total := by have := h.total; omega
  lines := hl h.lines
  built f hf' := by
    rw [ha, hm] at hf'
    refine h.built f ?_
    simp only [List.mem_append] at hf' ⊢
    exact hf'.imp_right (hc f)
  blocked sh g k w m x r hb e1 e2 := by
    obtain ⟨w', m', e3⟩ := hf sh g k w m e1
    refine h.blocked sh g k w' m' x r hb e3 ?_
    cases sh
    · exact ha ▸ e2
    · exact hm ▸ e2

/-- A change of what has no cells. -/
theorem same (h : CellsBut b n s) (h1 : t.pool.free = s.pool.free) (h2 : t.frameCells = s.frameCells)
    (h3 : t.media.lines = s.media.lines) (ha : t.agentOut = s.agentOut) (hm : t.mediaOut = s.mediaOut)
    (hc : t.agent.closed = s.agent.closed) : CellsBut b n t := by
  refine (move (d := 0) h ?_ ?_ (by rw [ha]) (by rw [hm]) (by rw [hc]; exact fun _ x => x) fun sh => ?_).congr (by omega)
  · rw [h1, h2]; unfold State.cacheCells; rw [h3]; omega
  · unfold OneLineEach; rw [h3]; exact id
  · cases sh
    · show KeepsForm s.agentOut.shaper t.agentOut.shaper; rw [ha]; exact .refl _
    · show KeepsForm s.mediaOut.shaper t.mediaOut.shaper; rw [hm]; exact .refl _

/-! ### Cells taken and returned -/

theorem onCnt (h : CellsBut b n s) (p : Port) (f : PortCounters → PortCounters) : CellsBut b n (s.onCnt p f) :=
  h.same rfl rfl rfl rfl rfl rfl

theorem takeCells (h : CellsBut b n s) {k : Nat} (hk : k ≤ s.pool.free) : CellsBut b (n + k) (s.takeCells k) :=
  (h.move (t := s.takeCells k) (d := -k)
    (by show ((s.pool.free - k : Nat) : Int) + s.frameCells + s.cacheCells = _; omega)
    id rfl rfl (fun _ x => x) fun _ => .refl _).congr (by omega)

theorem mapShapers (h : CellsBut b n s) {f : ShaperState → ShaperState} (hf : ∀ x, KeepsForm x (f x)) :
    CellsBut b n (s.mapShapers f) :=
  (h.move (t := s.mapShapers f) (d := 0) (by show (s.pool.free : Int) + s.frameCells + s.cacheCells = _; omega)
    id rfl rfl (fun _ x => x) fun sh => by cases sh <;> exact hf _).congr (by omega)

theorem returnCells (h : CellsBut b n s) (k : Nat) : CellsBut b (n - k) (s.returnCells k) :=
  h.move (t := s.returnCells k) (d := k)
    (by show ((s.pool.free + k : Nat) : Int) + s.frameCells + s.cacheCells = _; omega)
    id rfl rfl (fun _ x => x) fun sh => by cases sh <;> exact .oweCell _

theorem announceRoom (h : CellsBut b n s) (p : Port) (r : Fin 4 → Bool) : CellsBut b n (s.announceRoom p r) := by
  cases p
  · exact h.mapShapers fun x => .oweRoom r x
  · exact h

theorem noteGone (h : CellsBut b n s) (os : List Origin) : CellsBut b n (s.noteGone os) := by
  unfold State.noteGone
  split
  · exact h.same rfl rfl rfl rfl rfl rfl
  · exact h

theorem departed (h : CellsBut b n s) (o : Origin) : CellsBut b n (s.departed o) := by
  unfold State.departed
  split
  · dsimp only
    split
    · exact h
    · split
      · exact h.same rfl rfl rfl rfl rfl rfl
      · exact h
  · exact h

/-! ### The egress sides -/

end CellsBut

/-- The cells an egress side holds. -/
def Egress.cells (e : Egress) : Nat := e.queueCells + e.txCells

theorem toList_four {α : Type} (v : Vector α 4) : v.toList = [v[0], v[1], v[2], v[3]] := by
  refine List.ext_getElem (by simp) fun i h1 h2 => ?_
  match i, h1, h2 with
  | 0, _, _ => simp
  | 1, _, _ => simp
  | 2, _, _ => simp
  | 3, _, _ => simp
  | i + 4, _, h2 => have : i + 4 < 4 := h2; omega

theorem queuedCells_append (a b : List QFrame) : queuedCells (a ++ b) = queuedCells a + queuedCells b := by
  simp [queuedCells]

theorem Egress.queueCells_eq (e : Egress) : e.queueCells = queuedCells e.queues[0].frames + queuedCells e.queues[1].frames +
    queuedCells e.queues[2].frames + queuedCells e.queues[3].frames := by
  unfold Egress.queueCells Egress.queued
  rw [toList_four]
  simp [queuedCells_append]
  simp [queuedCells]
  omega

theorem Egress.queueCells_withFrames (e : Egress) (c : Fin 4) (fs : List QFrame) (d : Nat) :
    (e.withFrames c fs d).queueCells + queuedCells e.queues[c].frames = e.queueCells + queuedCells fs := by
  have q : ∀ j : Fin 4, queuedCells ((e.withFrames c fs d).queues[j]).frames =
      if c = j then queuedCells fs else queuedCells (e.queues[j]).frames := fun j => by
    show queuedCells ((e.queues.set c _)[j]).frames = _
    rw [getElem_set_if]
    split <;> rfl
  have h : ∀ e : Egress, e.queueCells = queuedCells (e.queues[(0 : Fin 4)]).frames + queuedCells (e.queues[(1 : Fin 4)]).frames +
    queuedCells (e.queues[(2 : Fin 4)]).frames + queuedCells (e.queues[(3 : Fin 4)]).frames := queueCells_eq
  rw [h, h, q, q, q, q]
  match c with
  | 0 => rw [if_pos rfl, if_neg (by decide), if_neg (by decide), if_neg (by decide)]; omega
  | 1 => rw [if_neg (by decide), if_pos rfl, if_neg (by decide), if_neg (by decide)]; omega
  | 2 => rw [if_neg (by decide), if_neg (by decide), if_pos rfl, if_neg (by decide)]; omega
  | 3 => rw [if_neg (by decide), if_neg (by decide), if_neg (by decide), if_pos rfl]; omega

theorem Egress.queueCells_flushed (e : Egress) : e.flushed.queueCells = 0 := by
  rw [queueCells_eq]; simp [Egress.flushed, queuedCells]

theorem queuedCells_cons (f : QFrame) (fs : List QFrame) : queuedCells (f :: fs) = f.frame.cells + queuedCells fs := by
  simp [queuedCells]

theorem Egress.strictPick_cells {e e' : Egress} {f : QFrame} {k : Fin 4} (h : e.strictPick = some (f, k, e')) :
    e'.queueCells + f.frame.cells = e.queueCells ∧ e'.tx = e.tx := by
  unfold Egress.strictPick at h
  split at h
  · exact absurd h (by simp)
  · rename_i c _
    split at h
    · exact absurd h (by simp)
    · rename_i g rest hq
      simp only [Option.some.injEq, Prod.mk.injEq] at h
      obtain ⟨rfl, rfl, rfl⟩ := h
      have := queueCells_withFrames e c rest (e.queues[c]).deficit
      rw [hq, queuedCells_cons] at this
      exact ⟨by omega, rfl⟩

theorem Egress.weightedPick_cells {fuel : Nat} {e e' : Egress} {f : QFrame} {k : Fin 4}
    (h : Egress.weightedPick fuel e = some (f, k, e')) : e'.queueCells + f.frame.cells = e.queueCells ∧ e'.tx = e.tx := by
  induction fuel generalizing e with
  | zero => simp [Egress.weightedPick] at h
  | succ n ih =>
    have same : ∀ fs d, fs = (e.queues[e.visit]).frames → ((e.withFrames e.visit fs d).moveOn).queueCells = e.queueCells :=
      fun fs d hf => by
        have := queueCells_withFrames e e.visit fs d
        rw [hf] at this
        have : (e.withFrames e.visit (e.queues[e.visit]).frames d).queueCells = e.queueCells := by omega
        rw [hf]; exact this
    unfold Egress.weightedPick at h
    dsimp only at h
    split at h
    · rename_i hq
      have := ih h
      exact ⟨this.1.trans (same _ _ hq.symm), this.2⟩
    · rename_i g rest hq
      generalize (if e.granted = true then (e.queues[e.visit]).deficit
        else (e.queues[e.visit]).deficit + (e.queues[e.visit]).weight * 256) = d at h
      have take : ∀ d', (e.withFrames e.visit rest d').queueCells + g.frame.cells = e.queueCells := fun d' => by
        have := queueCells_withFrames e e.visit rest d'
        rw [hq, queuedCells_cons] at this
        omega
      split at h
      · split at h
        · rename_i hr
          simp only [Option.some.injEq, Prod.mk.injEq] at h
          obtain ⟨rfl, rfl, rfl⟩ := h
          rw [List.isEmpty_iff] at hr
          subst hr
          exact ⟨take _, rfl⟩
        · simp only [Option.some.injEq, Prod.mk.injEq] at h
          obtain ⟨rfl, rfl, rfl⟩ := h
          exact ⟨take _, rfl⟩
      · have := ih h
        exact ⟨this.1.trans (same _ _ rfl), this.2⟩

/-- The chosen frame leaves its queue, and nothing else moves. -/
theorem Egress.pick_cells {e e' : Egress} {f : QFrame} {k : Fin 4} (h : e.pick = some (f, k, e')) :
    e'.queueCells + f.frame.cells = e.queueCells ∧ e'.tx = e.tx := by
  unfold Egress.pick at h
  split at h
  · exact absurd h (by simp)
  · split at h
    · exact strictPick_cells h
    · exact weightedPick_cells h

namespace CellsBut

variable {b : Option Shaper} {n : Int} {s t : State}

theorem frameCells_eq (s : State) : s.frameCells = (s.sched.port.get .u).cells + (s.sched.port.get .s).cells + inboxCells s +
    mediaInboxCells s + outCells s.agentOut.frames + outCells s.mediaOut.frames := by
  show s.sched.port.u.queueCells + s.sched.port.s.queueCells + inboxCells s + mediaInboxCells s + outCells s.agentOut.frames +
    outCells s.mediaOut.frames + (s.sched.port.u.txCells + s.sched.port.s.txCells) = (s.sched.port.u.queueCells +
    s.sched.port.u.txCells) + (s.sched.port.s.queueCells + s.sched.port.s.txCells) + _ + _ + _ + _
  omega

theorem onEgress (h : CellsBut b n s) (p : Port) (f : Egress → Egress) (d : Int)
    (hd : ((f (s.sched.port.get p)).cells : Int) = (s.sched.port.get p).cells + d) : CellsBut b (n - d) (s.onEgress p f) := by
  refine h.move (t := s.onEgress p f) ?_ id rfl rfl (fun _ x => x) fun _ => .refl _
  have e : ((s.onEgress p f).frameCells : Int) = s.frameCells + d := by
    rw [frameCells_eq, frameCells_eq]
    cases p
    · show (((f (s.sched.port.get .u)).cells + (s.sched.port.get .s).cells + inboxCells s + mediaInboxCells s +
        outCells s.agentOut.frames + outCells s.mediaOut.frames : Nat) : Int) = _
      omega
    · show (((s.sched.port.get .u).cells + (f (s.sched.port.get .s)).cells + inboxCells s + mediaInboxCells s +
        outCells s.agentOut.frames + outCells s.mediaOut.frames : Nat) : Int) = _
      omega
  rw [e]
  show (s.pool.free : Int) + _ + s.cacheCells = _
  omega

theorem choose (h : CellsBut b n s) (p : Port) : CellsBut b n (s.choose p) := by
  unfold State.choose
  split
  · rename_i ht hp
    obtain ⟨hc, _⟩ := Egress.pick_cells hp
    refine ((h.onEgress p _ 0 ?_).announceRoom p _).congr (by omega)
    simp only [Egress.cells, Egress.txCells, ht]
    simp only [Egress.queueCells, Egress.queued] at hc ⊢
    omega
  · exact h

theorem joinClass (h : CellsBut b n s) (p : Port) (k : Fin 4) (q : QFrame) :
    CellsBut b (n - q.frame.cells) (s.joinClass p k q) := by
  refine h.onEgress p _ _ ?_
  have := Egress.queueCells_withFrames (s.sched.port.get p) k ((s.sched.port.get p).queues[k].frames ++ [q])
    (s.sched.port.get p).queues[k].deficit
  have e0 : queuedCells [] = 0 := rfl
  rw [queuedCells_append, queuedCells_cons, e0] at this
  unfold Egress.cells
  have e : ((s.sched.port.get p).withFrames k ((s.sched.port.get p).queues[k].frames ++ [q])
    (s.sched.port.get p).queues[k].deficit).txCells = (s.sched.port.get p).txCells := rfl
  omega

/-- What is offered to a class queue takes its place there with the cells it needs, or nothing changes. -/
theorem offerClass (h : CellsBut b n s) (p : Port) (k : Fin 4) (need : Nat) (q : QFrame) :
    CellsBut b (if (s.offerClass p k need q).1 = .admitted then n + need - q.frame.cells else n) (s.offerClass p k need q).2 := by
  unfold State.offerClass
  split
  · simpa using h.onCnt p _
  split
  · simpa using h.onCnt p _
  split
  · simpa using h.onCnt p _
  split
  · simpa using h.onCnt p _
  · rename_i hf
    exact ((h.takeCells (Nat.not_lt.1 hf)).joinClass p k q).choose p

theorem offerEgress (h : CellsBut b n s) (p : Port) (d : Fin 16) (k : Fin 4) (f : Frame) (o : Origin) :
    CellsBut b n (s.offerEgress p d k f o).2 := by
  unfold State.offerEgress
  split
  · dsimp only
    exact h.onCnt p _
  · dsimp only
    exact h.onCnt p _
  · refine (h.offerClass p k _ _).congr ?_
    split
    · dsimp only; omega
    · rfl

theorem flushLink (h : CellsBut b n s) (p : Port) : CellsBut b n (s.flushLink p) := by
  unfold State.flushLink
  dsimp only
  have hg : (queuedCells (s.sched.port.get p).discarded : Int) = (s.sched.port.get p).cells := by
    unfold Egress.discarded Egress.cells
    rw [queuedCells_append]
    unfold Egress.txCells Egress.queueCells
    cases (s.sched.port.get p).tx <;> simp [queuedCells]
  have h1 := fun r os => ((((h.onEgress p (fun e => { e.flushed with tx := none }) (-(s.sched.port.get p).cells) (by
    have := Egress.queueCells_flushed (s.sched.port.get p)
    simp only [Egress.cells, Egress.txCells, Egress.queueCells, Egress.queued] at this ⊢
    omega)).onCnt p fun c => { c with
      linkFlush := c.linkFlush + BitVec.ofNat 32 (s.sched.port.get p).discarded.length }).announceRoom p r).noteGone os)
  split
  · rename_i he
    rw [List.isEmpty_iff] at he
    rw [he] at hg
    refine (h1 _ _).congr ?_
    simp [queuedCells] at hg
    omega
  · exact ((h1 _ _).returnCells _).congr (by omega)

theorem flushHold (h : CellsBut b n s) : CellsBut b n s.flushHold := by
  unfold State.flushHold
  dsimp only
  have h1 := (h.onEgress .s Egress.flushed (-((s.sched.port.get .s).queueCells : Int)) (by
    have := Egress.queueCells_flushed (s.sched.port.get .s)
    have e : (s.sched.port.get .s).flushed.txCells = (s.sched.port.get .s).txCells := rfl
    unfold Egress.cells
    omega)).onCnt .s fun c => { c with holdFlush := c.holdFlush + BitVec.ofNat 32 s.sched.port.s.queued.length }
  have hg : (queuedCells s.sched.port.s.queued : Int) = (s.sched.port.get .s).queueCells := rfl
  split
  · rename_i he
    rw [List.isEmpty_iff] at he
    rw [he] at hg
    refine h1.congr ?_
    simp [queuedCells] at hg
    omega
  · exact (h1.returnCells _).congr (by omega)

end CellsBut

end Sys2Proof.Machine
end

