-- ==== Sys2Proof/Laws/DirtyLines.lean ====
section
/-! SUPPORT. Answers to held requests and evictions keep the dirty lines of a cache with one line for each region and sector
(`KeepsDirty`, R26, R112, R115, R117). -/

namespace Sys2Proof.Machine

/-- Where no two lines are of one region and sector, `t` has as many dirty lines of each region as `s`, and again no two such
lines; in any case DIRTY_LOST is as it was. -/
structure KeepsDirty (s t : State) : Prop where
  lines : OneLineEach s.media → OneLineEach t.media ∧ ∀ g, t.media.regionDirty g = s.media.regionDirty g
  lost : t.media.blk.dirtyLost = s.media.blk.dirtyLost

namespace KeepsDirty

theorem refl (s : State) : KeepsDirty s s := ⟨fun h => ⟨h, fun _ => rfl⟩, rfl⟩

theorem trans {s t u : State} (a : KeepsDirty s t) (b : KeepsDirty t u) : KeepsDirty s u where
  lines h := ⟨(b.lines (a.lines h).1).1, fun g => ((b.lines (a.lines h).1).2 g).trans ((a.lines h).2 g)⟩
  lost := b.lost.trans a.lost

theorem foldl {α : Type} {f : State → α → State} (h : ∀ s x, KeepsDirty s (f s x)) (xs : List α) (s : State) :
    KeepsDirty s (xs.foldl f s) := by
  induction xs generalizing s with
  | nil => exact refl s
  | cons x xs ih => exact (h s x).trans (ih _)

/-- The lines are the same up to their order of use. -/
theorem of_perm {s t : State} (h : t.media.lines.Perm s.media.lines) (hl : t.media.blk.dirtyLost = s.media.blk.dirtyLost) :
    KeepsDirty s t where
  lines ho := ⟨((h.map _).nodup_iff).2 ho, fun _ => h.countP_eq _⟩
  lost := hl

theorem of_lines {s t : State} (h : t.media.lines = s.media.lines) (hl : t.media.blk.dirtyLost = s.media.blk.dirtyLost) :
    KeepsDirty s t := of_perm (h ▸ .refl _) hl

theorem of_traffic {s t : State} (h : SameButTraffic s t) : KeepsDirty s t := of_lines h.cache.1 (by rw [h.mediaCnt.1])

theorem onMedia (s : State) (f : Media → Media) (h : (f s.media).lines = s.media.lines)
    (hl : (f s.media).blk.dirtyLost = s.media.blk.dirtyLost) : KeepsDirty s (s.onMedia f) := of_lines h hl

/-! ### Lines -/

/-- In a cache with one line each, the line of a region and sector is the only one. -/
theorem eq_of_isFor {m : Media} (h : OneLineEach m) {k l : CacheLine} (hk : k ∈ m.lines) (hl : l ∈ m.lines)
    (he : k.isFor l.region l.sector = true) : k = l := by
  simp only [CacheLine.isFor, Bool.and_eq_true, beq_iff_eq] at he
  have hn : m.lines.Pairwise fun a b => (a.region, a.sector) ≠ (b.region, b.sector) := List.pairwise_map.1 h
  clear h
  generalize m.lines = ls at hk hl hn
  induction hn with
  | nil => cases hk
  | cons ha _ ih =>
    rcases List.mem_cons.1 hk with rfl | hk' <;> rcases List.mem_cons.1 hl with rfl | hl'
    · rfl
    · exact absurd (by rw [he.1, he.2]) (ha l hl')
    · exact absurd (by rw [he.1, he.2]) (ha k hk')
    · exact ih hk' hl'

/-- A line that is not dirty is dropped. -/
theorem dropLine (s : State) {l : CacheLine} (hl : l ∈ s.media.lines) (hd : l.cond.isDirty = false) :
    KeepsDirty s (s.dropLine l) where
  lines ho := ⟨ho.sublist (List.filter_sublist.map _), fun g => by
    show List.countP _ (List.filter _ s.media.lines) = _
    rw [List.countP_filter]
    refine List.countP_congr fun k hk => ?_
    simp only [Bool.and_eq_true, Bool.not_eq_true']
    refine ⟨fun h => h.1, fun h => ⟨h, ?_⟩⟩
    cases he : k.isFor l.region l.sector with
    | false => rfl
    | true => rw [eq_of_isFor ho hk hl he, hd] at h; exact absurd h.2 Bool.false_ne_true⟩
  lost := rfl

theorem trimN (fuel : Nat) (s : State) : KeepsDirty s (s.trimN fuel) := by
  induction fuel generalizing s with
  | zero => exact refl s
  | succ n ih =>
    unfold State.trimN
    split
    · exact refl s
    · split
      · exact refl s
      · rename_i l hl
        have hc : l.cond = .clean := by
          have := List.find?_some hl
          simp only [Media.evictable, Bool.and_eq_true, beq_iff_eq] at this
          exact this.1
        refine (((dropLine s (List.mem_of_find?_eq_some hl) (by rw [hc]; rfl)).trans ?_).trans
          (of_traffic (SameButTraffic.returnCells ..))).trans (ih _)
        exact of_lines rfl rfl

theorem trimExcess (s : State) : KeepsDirty s s.trimExcess := trimN ..

theorem touchLine_perm (g : Fin 4) (x : Nat) (ls : List CacheLine) : (touchLine g x ls).Perm ls :=
  (List.perm_append_comm).trans (List.filter_append_perm _ ls)

theorem touch (s : State) (g : Fin 4) (xs : List Nat) : KeepsDirty s (s.touch g xs) := by
  refine of_perm ?_ rfl
  show (xs.foldl (fun ls x => touchLine g x ls) s.media.lines).Perm s.media.lines
  generalize s.media.lines = ls
  induction xs generalizing ls with
  | nil => exact .refl _
  | cons x xs ih => exact (ih _).trans (touchLine_perm g x ls)

/-! ### Held requests and transfers -/

theorem replied_dirtyLost (c : BlockCounters) (st : BlkStatus) : (c.replied st).dirtyLost = c.dirtyLost := by cases st <;> rfl

theorem blkReply (s : State) (mac : Mac) (d : Fin 16) (b : List Byte) (st : BlkStatus) : KeepsDirty s (s.blkReply mac d b st) := by
  unfold State.blkReply
  dsimp only
  have h := (onMedia s (fun m => { m with blk := m.blk.replied st }) rfl (replied_dirtyLost ..)).trans
    (of_traffic (SameButTraffic.offerEgress (s.onBlk fun c => c.replied st) .s d
      (s.onBlk fun c => c.replied st).sched.mediaClass
      (builtFrame mac (s.onBlk fun c => c.replied st).ports.partMac Config.etherTypeMedia b) .blkReply))
  split
  · exact h
  · exact h.trans (of_lines rfl rfl)

theorem endHeld (st : BlkStatus) (s : State) (h : Held) : KeepsDirty s (s.endHeld st h) := by
  unfold State.endHeld
  dsimp only
  have h1 := onMedia s (fun m => { m with held := m.held.erase h }) rfl rfl
  split
  · exact ((h1.trans (touch ..)).trans (blkReply ..)).trans (trimExcess _)
  · exact (h1.trans (blkReply ..)).trans (trimExcess _)

/-- What answers held requests leaves the dirty lines. -/
theorem endHeldWhere (s : State) (p : Held → Bool) (st : BlkStatus) : KeepsDirty s (s.endHeldWhere p st) :=
  foldl (endHeld st) _ s

/-- Lines freed of which none is dirty. -/
theorem freeLines (s : State) (p : CacheLine → Bool) (hp : ∀ l, p l = true → l.cond.isDirty = false) :
    KeepsDirty s (s.freeLines p) := by
  unfold State.freeLines
  dsimp only
  split
  · exact refl s
  · refine trans (t := s.onMedia fun m => { m with
        lines := m.lines.filter fun l => !p l
        dirtyOrder := m.dirtyOrder.filter fun d => !(s.media.lines.filter p).any (CacheLine.isFor d.1 d.2) })
      ⟨fun ho => ⟨ho.sublist (List.filter_sublist.map _), fun g => ?_⟩, rfl⟩ (of_traffic (SameButTraffic.returnCells ..))
    show List.countP _ (List.filter _ s.media.lines) = _
    rw [List.countP_filter]
    refine List.countP_congr fun k _ => ?_
    simp only [Bool.and_eq_true, Bool.not_eq_true']
    refine ⟨fun h => h.1, fun h => ⟨h, ?_⟩⟩
    cases he : p k with
    | false => rfl
    | true => rw [hp k he] at h; exact absurd h.2 Bool.false_ne_true

theorem freeEntry (s : State) (e : Fin 16) : KeepsDirty s (s.freeEntry e) := of_lines rfl rfl

/-- Cancelled transfers take FILLING lines alone. -/
theorem cancelFetches (s : State) (g : Fin 4) (k : TransferKind → Bool) : KeepsDirty s (s.cancelFetches g k) := by
  refine foldl (fun t e => ?_) _ s
  refine (freeLines t _ fun l hl => ?_).trans (freeEntry ..)
  rw [beq_iff_eq.1 hl]; rfl

end KeepsDirty

end Sys2Proof.Machine
end

