-- ==== Sys2Proof/Laws/Keeps.lean ====
section
/-! SUPPORT. What every shared operation keeps of the tables, the capacities and the ranges: the frame path, the agent and the
console history. -/

namespace Sys2Proof.Machine

/-- The queue, the tables that protections speak of, and the properties of Safety are kept. -/
structure Keeps (s t : State) : Prop where
  pending : t.pending = s.pending
  dom : t.dom = s.dom
  operators : t.operators = s.operators
  steer : t.steer = s.steer
  cfgs : ∀ g : Fin 4, (t.media.regions[g]).cfg = (s.media.regions[g]).cfg
  caps : Capacities s → Capacities t
  meters : MetersInRange s → MetersInRange t
  settings : SettingsInRange s → SettingsInRange t
  hold : HoldBelongsToScript s → HoldBelongsToScript t

namespace Keeps

theorem refl (s : State) : Keeps s s := ⟨rfl, rfl, rfl, rfl, fun _ => rfl, id, id, id, id⟩

theorem trans {s t u : State} (a : Keeps s t) (b : Keeps t u) : Keeps s u :=
  ⟨b.pending.trans a.pending, b.dom.trans a.dom, b.operators.trans a.operators, b.steer.trans a.steer,
    fun g => (b.cfgs g).trans (a.cfgs g), fun h => b.caps (a.caps h), fun h => b.meters (a.meters h),
    fun h => b.settings (a.settings h), fun h => b.hold (a.hold h)⟩

/-! ### Changes of one block -/

theorem onCnt (s : State) (p : Port) (f : PortCounters → PortCounters) : Keeps s (s.onCnt p f) :=
  ⟨rfl, rfl, rfl, rfl, fun _ => rfl, fun h => { h with }, fun h => h, fun h => { h with }, fun h => h⟩

theorem onPool (s : State) (f : Pool → Pool) (h1 : (f s.pool).reserve = s.pool.reserve)
    (h2 : (f s.pool).ceiling = s.pool.ceiling) : Keeps s (s.onPool f) :=
  ⟨rfl, rfl, rfl, rfl, fun _ => rfl, fun h => { h with }, fun h => h,
    fun h => { h with pool := by simpa [State.onPool, h1, h2] using h.pool }, fun h => h⟩

theorem onAgent (s : State) (f : Agent → Agent) (hf : (f s.agent).inbox.length ≤ max s.agent.inbox.length 32) :
    Keeps s (s.onAgent f) :=
  ⟨rfl, rfl, rfl, rfl, fun _ => rfl,
    fun h => { h with agentInbox := Nat.le_trans hf (Nat.max_le.2 ⟨h.agentInbox, Nat.le_refl _⟩) }, fun h => h,
    fun h => { h with }, fun h => h⟩

theorem onLine (s : State) (f : ConsoleLine → ConsoleLine) (hf : (f s.line).fifo.length ≤ max s.line.fifo.length 256)
    (hs : (f s.line).set = s.line.set) : Keeps s (s.onLine f) :=
  ⟨rfl, rfl, rfl, rfl, fun _ => rfl,
    fun h => { h with fifo := Nat.le_trans hf (Nat.max_le.2 ⟨h.fifo, Nat.le_refl _⟩) }, fun h => h,
    fun h => { h with div := by simpa [State.onLine, hs] using h.div, idle := by simpa [State.onLine, hs] using h.idle },
    fun h => h⟩

theorem onHist (s : State) (f : History → History) (h1 : (f s.hist).ring.length ≤ max s.hist.ring.length 65536)
    (h2 : s.hist.marks.length ≤ 32 → (f s.hist).marks.length ≤ 32)
    (h3 : s.hist.notices.length ≤ 16 → (f s.hist).notices.length ≤ 16)
    (h4 : (f s.hist).threshold = s.hist.threshold) (h5 : (f s.hist).delay = s.hist.delay) : Keeps s (s.onHist f) :=
  ⟨rfl, rfl, rfl, rfl, fun _ => rfl,
    fun h => { h with
      ring := Nat.le_trans h1 (Nat.max_le.2 ⟨h.ring, Nat.le_refl _⟩), marks := h2 h.marks, notices := h3 h.notices },
    fun h => h, fun h => { h with push := by simpa [State.onHist, h4, h5] using h.push }, fun h => h⟩

theorem onMedia (s : State) (f : Media → Media)
    (h1 : ∀ g : Fin 4, ((f s.media).regions[g]).cfg = (s.media.regions[g]).cfg)
    (h2 : (f s.media).inbox.length ≤ max s.media.inbox.length 16) (h3 : (f s.media).held.length ≤ max s.media.held.length 16)
    (h4 : (f s.media).timeoutMs = s.media.timeoutMs) (h5 : (f s.media).retryCount = s.media.retryCount) :
    Keeps s (s.onMedia f) :=
  ⟨rfl, rfl, rfl, rfl, h1,
    fun h => { h with
      mediaInbox := Nat.le_trans h2 (Nat.max_le.2 ⟨h.mediaInbox, Nat.le_refl _⟩)
      held := Nat.le_trans h3 (Nat.max_le.2 ⟨h.held, Nat.le_refl _⟩) },
    fun h => h, fun h => { h with transfers := by simpa [State.onMedia, h4, h5] using h.transfers }, fun h => h⟩

theorem onPower (s : State) (f : PowerUnit → PowerUnit) (h1 : (f s.power).guardSecs = s.power.guardSecs)
    (h2 : ∀ k : Fin 4, ((f s.power).sense[k]).debounce = (s.power.sense[k]).debounce) : Keeps s (s.onPower f) :=
  ⟨rfl, rfl, rfl, rfl, fun _ => rfl, fun h => { h with }, fun h => h,
    fun h => { h with
      guard := by simpa [State.onPower, h1] using h.guard
      debounce := fun k => by have := h2 k; simp only [State.onPower]; rw [this]; exact h.debounce k },
    fun h => h⟩

theorem onScript (s : State) (f : ScriptEngine → ScriptEngine)
    (h1 : s.script.queue.length ≤ 8 → (f s.script).queue.length ≤ 8)
    (h2 : ∀ c, (f s.script).running = some c → (∀ c', s.script.running = some c' → c'.stack.length ≤ 4) → c.stack.length ≤ 4)
    (h3 : (f s.script).dir = s.script.dir) (h4 : s.script.running.isSome = true → (f s.script).running.isSome = true) :
    Keeps s (s.onScript f) :=
  ⟨rfl, rfl, rfl, rfl, fun _ => rfl, fun h => { h with requests := h1 h.requests, stack := fun c hc => h2 c hc h.stack },
    fun h => h, fun h => { h with dir := by simpa [State.onScript, h3] using h.dir }, fun h e => h4 (h e)⟩

theorem onLoader (s : State) (f : Loader → Loader) : Keeps s (s.onLoader f) :=
  ⟨rfl, rfl, rfl, rfl, fun _ => rfl, fun h => { h with }, fun h => h, fun h => { h with }, fun h => h⟩

theorem setMeter (s : State) (i : Fin 16) (m : Meter) (h : (s.meters.bank[i]).InRange → m.InRange) :
    Keeps s (s.setMeter i m) :=
  ⟨rfl, rfl, rfl, rfl, fun _ => rfl, fun c => { c with },
    fun c j => by
      by_cases e : i = j
      · subst e; simpa [State.setMeter] using h (c i)
      · have : (i : Nat) ≠ j := fun x => e (Fin.ext x)
        simpa [State.setMeter, Vector.getElem_set_ne, this] using c j,
    fun c => { c with }, fun c => c⟩

theorem onEgress (s : State) (p : Port) (f : Egress → Egress) (h : (s.sched.port.get p).SameSettings (f (s.sched.port.get p)))
    (hf : (∀ k : Fin 4, ((s.sched.port.get p).queues[k]).frames.length ≤ 256) →
      ∀ k : Fin 4, ((f (s.sched.port.get p)).queues[k]).frames.length ≤ 256) : Keeps s (s.onEgress p f) :=
  ⟨rfl, rfl, rfl, rfl, fun _ => rfl,
    fun c =>
      have hq : ∀ (q : Port) (k : Fin 4), (((s.onEgress p f).sched.port.get q).queues[k]).frames.length ≤ 256 := by
        intro q k
        simp only [State.onEgress_sched_port, PerPort.get_set_if]
        split
        · exact hf (fun k => c.classQueue p k) k
        · exact c.classQueue q k
      { c with classQueue := hq },
    fun c => c,
    fun c =>
      have hq : ∀ (q : Port) (k : Fin 4), 16 ≤ (((s.onEgress p f).sched.port.get q).queues[k]).cellLimit ∧
          (((s.onEgress p f).sched.port.get q).queues[k]).cellLimit ≤ 4096 ∧
          1 ≤ (((s.onEgress p f).sched.port.get q).queues[k]).weight ∧
          (((s.onEgress p f).sched.port.get q).queues[k]).weight ≤ 15 := by
        intro q k
        simp only [State.onEgress_sched_port, PerPort.get_set_if]
        split
        · rw [(h.2 k).1, (h.2 k).2]; exact c.queues p k
        · exact c.queues q k
      { c with queues := hq },
    fun c => c⟩

theorem setOutQueue (s : State) (sh : Shaper) (q : OutQueue) (h : q.frames.length ≤ max (s.outQueue sh).frames.length 16) :
    Keeps s (s.setOutQueue sh q) := by
  cases sh
  · exact ⟨rfl, rfl, rfl, rfl, fun _ => rfl,
      fun c => { c with agentOut := Nat.le_trans h (Nat.max_le.2 ⟨c.agentOut, Nat.le_refl _⟩) }, fun c => c,
      fun c => { c with }, fun c => c⟩
  · exact ⟨rfl, rfl, rfl, rfl, fun _ => rfl,
      fun c => { c with mediaOut := Nat.le_trans h (Nat.max_le.2 ⟨c.mediaOut, Nat.le_refl _⟩) }, fun c => c,
      fun c => { c with }, fun c => c⟩

theorem setShaper (s : State) (sh : Shaper) (x : ShaperState) : Keeps s (s.setShaper sh x) :=
  setOutQueue s sh _ (Nat.le_max_left _ _)

theorem mapShapers (s : State) (f : ShaperState → ShaperState) : Keeps s (s.mapShapers f) :=
  ⟨rfl, rfl, rfl, rfl, fun _ => rfl, fun h => { h with }, fun h => h, fun h => { h with }, fun h => h⟩

theorem setPhase (s : State) (p : Phase) : Keeps s (s.setPhase p) :=
  ⟨rfl, rfl, rfl, rfl, fun _ => rfl, fun h => { h with }, fun h => h, fun h => { h with }, fun h => h⟩

theorem onPins (s : State) (f : Pins → Pins) : Keeps s (s.onPins f) :=
  ⟨rfl, rfl, rfl, rfl, fun _ => rfl, fun h => { h with }, fun h => h, fun h => { h with }, fun h => h⟩

theorem onClock (s : State) (f : Clock → Clock) : Keeps s (s.onClock f) :=
  ⟨rfl, rfl, rfl, rfl, fun _ => rfl, fun h => { h with }, fun h => h, fun h => { h with }, fun h => h⟩

theorem setLink (s : State) (p : Port) (v : Option Speed) : Keeps s (s.setLink p v) :=
  ⟨rfl, rfl, rfl, rfl, fun _ => rfl, fun h => { h with }, fun h => h, fun h => { h with }, fun h => h⟩

/-- The port-S hold is released. -/
theorem releaseHold (s : State) : Keeps s (s.setHoldS false) :=
  ⟨rfl, rfl, rfl, rfl, fun _ => rfl, fun h => { h with }, fun h => h, fun h => { h with }, fun _ h => absurd h (by simp)⟩

end Keeps

end Sys2Proof.Machine
end

