-- ==== Sys2Proof/Laws/KeepsTraffic.lean ====
section
/-! SUPPORT. What the operations of the cell pool, the class queues, the shapers, the agent and the console history keep
(`Keeps`). -/

namespace Sys2Proof.Machine

/-! ### Meters and egress sides -/

/-- A credit stays within its range when a frame is presented (R28, R29). -/
theorem Meter.present_inRange {m : Meter} (h : m.InRange) (now : Time) (q : Nat) : ((m.present now q).1).InRange := by
  obtain ⟨h1, h2, h3, h4⟩ := h
  unfold Meter.present
  split
  · exact ⟨h1, h2, h3, h4⟩
  · have hc : m.creditAt now ≤ m.burst * 1000 := by
      unfold Meter.creditAt
      dsimp only
      split <;> omega
    dsimp only
    split
    · exact ⟨h1, h2, h3, by dsimp only; omega⟩
    · exact ⟨h1, h2, h3, hc⟩

/-- Every class queue of a side holds at most 256 frames. -/
def Egress.Bounded (e : Egress) : Prop := ∀ k : Fin 4, (e.queues[k]).frames.length ≤ 256

theorem Egress.withFrames_bounded {e : Egress} (h : e.Bounded) (c : Fin 4) (fs : List QFrame) (d : Nat) (hf : fs.length ≤ 256) :
    (e.withFrames c fs d).Bounded := by
  intro k
  by_cases x : c = k
  · subst x; simpa [Egress.withFrames] using hf
  · have : (c : Nat) ≠ k := fun y => x (Fin.ext y)
    simpa [Egress.withFrames, Vector.getElem_set_ne, this] using h k

theorem Egress.flushed_bounded (e : Egress) : e.flushed.Bounded := fun k => by simp [Egress.flushed]

theorem Egress.strictPick_bounded {e e' : Egress} {f : QFrame} {k : Fin 4} (h : e.strictPick = some (f, k, e'))
    (b : e.Bounded) : e'.Bounded := by
  unfold Egress.strictPick at h
  split at h
  · exact absurd h (by simp)
  · rename_i c _
    split at h
    · exact absurd h (by simp)
    · rename_i g rest hq
      simp only [Option.some.injEq, Prod.mk.injEq] at h
      have := b c
      rw [hq] at this
      exact h.2.2 ▸ Egress.withFrames_bounded b _ _ _ (by simp at this; omega)

theorem Egress.weightedPick_bounded {fuel : Nat} {e e' : Egress} {f : QFrame} {k : Fin 4}
    (h : Egress.weightedPick fuel e = some (f, k, e')) (b : e.Bounded) : e'.Bounded := by
  induction fuel generalizing e with
  | zero => simp [Egress.weightedPick] at h
  | succ n ih =>
    unfold Egress.weightedPick at h
    dsimp only at h
    split at h
    · exact ih h (Egress.withFrames_bounded b _ _ _ (by simp))
    · rename_i g rest hq
      have hb := b e.visit
      rw [hq] at hb
      generalize (if e.granted = true then (e.queues[e.visit]).deficit
        else (e.queues[e.visit]).deficit + (e.queues[e.visit]).weight * 256) = d at h
      split at h
      · split at h
        · simp only [Option.some.injEq, Prod.mk.injEq] at h
          exact h.2.2 ▸ Egress.withFrames_bounded b _ _ _ (by simp)
        · simp only [Option.some.injEq, Prod.mk.injEq] at h
          exact h.2.2 ▸ Egress.withFrames_bounded b _ _ _ (by simp at hb; omega)
      · exact ih h (Egress.withFrames_bounded b _ _ _ (by rw [hq]; exact hb))

theorem Egress.pick_bounded {e e' : Egress} {f : QFrame} {k : Fin 4} (h : e.pick = some (f, k, e')) (b : e.Bounded) :
    e'.Bounded := by
  unfold Egress.pick at h
  split at h
  · exact absurd h (by simp)
  · split at h
    · exact Egress.strictPick_bounded h b
    · exact Egress.weightedPick_bounded h b

namespace Keeps

/-! ### The cell pool and the class queues -/

theorem takeCells (s : State) (n : Nat) : Keeps s (s.takeCells n) := onPool s _ rfl rfl

theorem onAgentSame (s : State) (f : Agent → Agent) (h : (f s.agent).inbox = s.agent.inbox) : Keeps s (s.onAgent f) :=
  onAgent s f (by rw [h]; exact Nat.le_max_left _ _)

theorem oweRetry (s : State) : Keeps s s.oweRetry := onAgentSame s _ rfl

theorem returnCells (s : State) (n : Nat) : Keeps s (s.returnCells n) := by
  unfold State.returnCells
  exact (((onPool s _ rfl rfl).trans (mapShapers _ _)).trans (oweRetry _)).trans
    (onMedia _ _ (fun _ => rfl) (Nat.le_max_left _ _) (Nat.le_max_left _ _) rfl rfl)

theorem announceRoom (s : State) (p : Port) (r : Fin 4 → Bool) : Keeps s (s.announceRoom p r) := by
  cases p
  · exact mapShapers s _
  · exact refl s

theorem choose (s : State) (p : Port) : Keeps s (s.choose p) := by
  unfold State.choose
  split
  · rename_i h
    refine trans (onEgress s p _ ?_ fun b => ?_) (announceRoom _ _ _)
    · exact Egress.SameSettings.trans (Egress.pick_same h) ⟨rfl, fun _ => ⟨rfl, rfl⟩⟩
    · exact fun k => Egress.pick_bounded h b k
  · exact refl s

theorem joinClass (s : State) (p : Port) (k : Fin 4) (q : QFrame)
    (h : ((s.sched.port.get p).queues[k]).frames.length < 256) : Keeps s (s.joinClass p k q) :=
  onEgress s p _ (Egress.withFrames_same ..) fun b => Egress.withFrames_bounded b _ _ _ (by
    rw [List.length_append]; exact h)

theorem offerClass (s : State) (p : Port) (k : Fin 4) (n : Nat) (q : QFrame) : Keeps s (s.offerClass p k n q).2 := by
  unfold State.offerClass
  split
  · dsimp only; exact onCnt s p _
  split
  · dsimp only; exact onCnt s p _
  split
  · dsimp only; exact onCnt s p _
  split
  · dsimp only; exact onCnt s p _
  · rename_i hr _
    refine ((takeCells s n).trans (joinClass _ p k q ?_)).trans (choose _ _)
    simp only [ClassQueue.room, Bool.and_eq_true, decide_eq_true_eq, Bool.not_eq_true', Bool.not_eq_false,
      Config.classQueueLimit] at hr
    exact of_decide_eq_true hr.1

theorem offerEgress (s : State) (p : Port) (d : Fin 16) (k : Fin 4) (f : Frame) (o : Origin) :
    Keeps s (s.offerEgress p d k f o).2 := by
  unfold State.offerEgress
  split
  · dsimp only; exact onCnt s p _
  · dsimp only; exact onCnt s p _
  · exact offerClass ..

theorem noteGone (s : State) (os : List Origin) : Keeps s (s.noteGone os) := by
  unfold State.noteGone
  split
  · exact onAgent s _ (Nat.le_max_left _ _)
  · exact refl s

theorem flushLink (s : State) (p : Port) : Keeps s (s.flushLink p) := by
  have h : ∀ n (r : Fin 4 → Bool) os, Keeps s ((((s.onEgress p fun e => { e.flushed with tx := none }).onCnt p fun c =>
      { c with linkFlush := c.linkFlush + BitVec.ofNat 32 n }).announceRoom p r).noteGone os) := fun n r os =>
    (((onEgress s p (fun e => { e.flushed with tx := none }) (Egress.flushed_same (s.sched.port.get p))
      fun _ => Egress.flushed_bounded (s.sched.port.get p)).trans (onCnt _ _ _)).trans (announceRoom _ _ _)).trans (noteGone _ _)
  unfold State.flushLink
  dsimp only
  split
  · exact h _ _ _
  · exact trans (h _ _ _) (returnCells _ _)

theorem flushHold (s : State) : Keeps s s.flushHold := by
  have h : ∀ n, Keeps s ((s.onEgress .s Egress.flushed).onCnt .s fun c =>
      { c with holdFlush := c.holdFlush + BitVec.ofNat 32 n }) := fun n =>
    (onEgress s .s Egress.flushed (Egress.flushed_same _) fun _ => Egress.flushed_bounded _).trans (onCnt _ _ _)
  unfold State.flushHold
  dsimp only
  split
  · exact h _
  · exact (h _).trans (returnCells _ _)

/-! ### The shapers -/

theorem departed (s : State) (o : Origin) : Keeps s (s.departed o) := by
  unfold State.departed
  split
  · dsimp only
    split
    · exact refl s
    · split
      · exact onMedia s _ (fun _ => rfl) (Nat.le_max_left _ _) (Nat.le_max_left _ _) rfl rfl
      · exact refl s
  · exact refl s

theorem leftHead (s : State) (sh : Shaper) : Keeps s (s.leftHead sh) := by
  cases sh
  · exact oweRetry s
  · exact refl s

theorem popHead (s : State) (sh : Shaper) : Keeps s (s.popHead sh) := by
  unfold State.popHead
  split
  · exact refl s
  · rename_i h rest e
    refine ((setOutQueue s sh _ ?_).trans (leftHead _ sh)).trans (departed _ _)
    rw [e]; simp <;> omega

theorem dropHead (s : State) (sh : Shaper) : Keeps s (s.dropHead sh) := by
  unfold State.dropHead
  split
  · exact refl s
  · exact ((popHead s sh).trans (noteGone _ _)).trans (returnCells _ _)

theorem moveHead (s : State) (sh : Shaper) (k : Fin 4) (g : Frame) (h : OutFrame) (n : Nat) :
    Keeps s (s.moveHead sh k g h n).2 := by
  unfold State.moveHead
  have o := offerClass s .u k (g.cells - h.frame.cells) ⟨g, h.origin⟩
  split <;> rename_i e <;> rw [e] at o
  · exact o.trans (popHead _ _)
  · dsimp only at o ⊢; exact o.trans (setShaper _ _ _)
  · dsimp only at o ⊢; exact o.trans (setShaper _ _ _)
  · exact o.trans (dropHead _ _)

theorem testHead (sh : Shaper) (fuel : Nat) (s : State) : Keeps s (s.testHead sh fuel) := by
  induction fuel generalizing s with
  | zero => exact setShaper s sh _
  | succ n ih =>
    unfold State.testHead
    split
    · exact setShaper s sh _
    · dsimp only
      split
      · exact ((onCnt s .u _).trans (dropHead _ sh)).trans (ih _)
      · exact ((onCnt s .u _).trans (dropHead _ sh)).trans (ih _)
      · rename_i h tl hq j g hg
        have hm := setMeter s (s.shaperMeter sh)
          ((s.meters.bank[s.shaperMeter sh].present s.clock.now (chargeOf g.length)).1)
          (fun x => Meter.present_inRange x _ _)
        split
        · have hv := moveHead (s.setMeter (s.shaperMeter sh)
            ((s.meters.bank[s.shaperMeter sh].present s.clock.now (chargeOf g.length)).1)) sh (s.shaperClass sh) g h 0
          split <;> rename_i e <;> rw [e] at hv
          · exact (hm.trans hv).trans (ih _)
          · exact hm.trans hv
        · exact hm.trans (setShaper _ _ _)

theorem runShaper (s : State) (sh : Shaper) : Keeps s (s.runShaper sh) := testHead ..

theorem retestWaiting (s : State) (sh : Shaper) : Keeps s (s.retestWaiting sh) := by
  unfold State.retestWaiting
  split
  · exact runShaper s sh
  · exact refl s

theorem outQueue_onPool (s : State) (f : Pool → Pool) (sh : Shaper) : (s.onPool f).outQueue sh = s.outQueue sh := by
  cases sh <;> rfl

theorem placeOut {s t : State} {sh : Shaper} {f : OutFrame} (h : s.placeOut sh f = some t) : Keeps s t := by
  unfold State.placeOut at h
  dsimp only at h
  split at h
  · rename_i hc
    simp only [Option.some.injEq] at h
    subst h
    have hk : Keeps s ((s.takeCells f.frame.cells).setOutQueue sh
        { s.outQueue sh with frames := (s.outQueue sh).frames ++ [f] }) := by
      refine (takeCells s _).trans (setOutQueue _ sh _ ?_)
      have := hc.1
      simp only [Config.outQueueLimit] at this
      simp <;> omega
    split
    · exact hk.trans (runShaper _ _)
    · exact hk
  · exact absurd h (by simp)

/-! ### The agent -/

theorem closeOpen (s : State) (m : Bool) (o : Origin) : Keeps s (s.closeOpen m o) := by
  dsimp only [State.closeOpen]; exact onAgentSame s _ rfl

theorem pack (s : State) (r : Reply) : Keeps s (s.pack r) := by
  unfold State.pack
  dsimp only
  split
  · exact (onAgentSame s _ rfl).trans (onAgentSame _ _ rfl)
  · exact ((onAgentSame s _ rfl).trans (closeOpen ..)).trans (onAgentSame _ _ rfl)

theorem placeReply {s t : State} {f : OutFrame} (h : s.placeReply f = some t) : Keeps s t := by
  unfold State.placeReply at h
  simp only [Option.map_eq_some_iff] at h
  obtain ⟨u, hu, rfl⟩ := h
  exact (placeOut hu).trans (onAgentSame _ _ rfl)

theorem enterWaiting (s : State) : Keeps s s.enterWaiting := onAgentSame s _ rfl

theorem dropInbox (s : State) : Keeps s s.dropInbox := by
  unfold State.dropInbox
  split
  · exact refl s
  · rename_i f rest e
    refine (onAgent s _ ?_).trans (returnCells _ _)
    rw [e]; simp <;> omega

theorem enterPending (s : State) : Keeps s s.enterPending :=
  ((closeOpen ..).trans (dropInbox _)).trans (onAgentSame _ _ rfl)

theorem finishFrame (s : State) : Keeps s s.finishFrame := (onAgentSame s _ rfl).trans (dropInbox _)

theorem advanceN (fuel : Nat) (s : State) : Keeps s (s.advanceN fuel) := by
  induction fuel generalizing s with
  | zero => exact refl s
  | succ n ih =>
    unfold State.advanceN
    split
    · split
      · exact enterWaiting s
      · rename_i h; exact (placeReply h).trans (ih _)
    · split
      · exact refl s
      split
      · exact (enterPending s).trans (ih _)
      · split
        · exact onAgentSame s _ rfl
        · exact ((onAgentSame s _ rfl).trans (pack ..)).trans (ih _)
        · exact (closeOpen ..).trans (ih _)
        · exact finishFrame s

theorem advance (s : State) : Keeps s s.advance := advanceN ..

theorem replied (s : State) (r : Rec) (st : Status) (b : List Byte) : Keeps s (s.replied r st b) :=
  (pack ..).trans (advance _)

theorem popRecord (s : State) : Keeps s s.popRecord := onAgentSame s _ rfl

/-! ### The console history -/

/-- A change of the history block that leaves the stream, the marks and the settings, and no more notices than before. -/
theorem onHistSame (s : State) (f : History → History) (h : s.hist.SameStream (f s.hist))
    (hn : s.hist.notices.length ≤ 16 → (f s.hist).notices.length ≤ 16) : Keeps s (s.onHist f) :=
  onHist s f (by rw [h.1]; exact Nat.le_max_left _ _) (by rw [h.2.2.1]; exact id) hn h.2.2.2.2.2.1 h.2.2.2.2.2.2

theorem commitPush_notices (h : History) (now : Time) (p : Push) : (h.commitPush now p).notices.length ≤ h.notices.length := by
  unfold History.commitPush
  split
  · dsimp only
    split
    · simp [History.onWatcher]
    · rename_i e rest he
      simp only [History.onWatcher]
      split <;> simp [he]
  · exact Nat.le_refl _
  · exact Nat.le_refl _

theorem placePush {s t : State} {p : Push} (h : s.placePush p = some t) : Keeps s t := by
  unfold State.placePush at h
  simp only [Option.map_eq_some_iff] at h
  obtain ⟨u, hu, rfl⟩ := h
  refine ((placeOut hu).trans (onAgentSame _ _ rfl)).trans (onHistSame _ _ (History.commitPush_same ..) fun hn => ?_)
  exact Nat.le_trans (commitPush_notices ..) hn

theorem waitOffer (s : State) : Keeps s s.waitOffer :=
  (onHistSame s _ ⟨rfl, rfl, rfl, rfl, rfl, rfl, rfl⟩ id).trans (onAgentSame _ _ rfl)

theorem pumpN (fuel : Nat) (s : State) : Keeps s (s.pumpN fuel) := by
  induction fuel generalizing s with
  | zero => exact refl s
  | succ n ih =>
    unfold State.pumpN
    split
    · exact refl s
    · split
      · exact refl s
      · split
        · exact waitOffer s
        · rename_i h; exact (placePush h).trans (ih _)

theorem pump (s : State) : Keeps s s.pump := pumpN ..

theorem settleOffer (s : State) : Keeps s s.settleOffer := by
  unfold State.settleOffer
  split
  · exact onHistSame s _ ⟨rfl, rfl, rfl, rfl, rfl, rfl, rfl⟩ id
  · exact refl s

theorem loseOne_notices (ws : List (Fin 4)) (h : History) :
    (ws.foldl (fun (g : History) w => g.onWatcher w fun x => { x with lost := x.lost + 1 }) h).notices = h.notices := by
  induction ws generalizing h with
  | nil => rfl
  | cons w ws ih => exact (ih _).trans rfl

theorem raise_notices (h : History) (n : Notice) (now : Time) (e : Option Nat) (b : h.notices.length ≤ 16) :
    (h.raise n now e).notices.length ≤ 16 := by
  unfold History.raise
  dsimp only
  split
  · exact b
  · split
    · rename_i hn; simp [hn]
    · rename_i x rest hn
      rw [hn] at b
      simp only [List.length_cons] at b
      split
      · simp <;> omega
      · rename_i hl
        simp only [Config.noticeLimit, hn, List.length_cons] at hl
        simp [hn]; omega

theorem raiseNotice (s : State) (n : Notice) : Keeps s (s.raiseNotice n) :=
  (onHistSame s _ (History.raise_same s.hist n s.clock.now s.clock.epoch) fun b => raise_notices _ _ _ _ b).trans (pump _)

theorem addMark (s : State) (k : MarkKind) (c : Half) : Keeps s (s.addMark k c) := by
  unfold State.addMark
  refine onHist s _ (Nat.le_max_left _ _) (fun b => ?_) id rfl rfl
  dsimp only
  split
  · simp <;> omega
  · rename_i h; simp [Config.markLimit] at h ⊢; omega

theorem disown_notices (h : History) (w : Fin 4) : (h.disown w).notices.length ≤ h.notices.length := by
  simp only [History.disown]
  exact Nat.le_trans (List.length_filter_le ..) (by simp)

theorem removeWatcher (s : State) (w : Fin 4) : Keeps s (s.removeWatcher w) :=
  (onHistSame s _ ⟨rfl, rfl, rfl, rfl, rfl, rfl, rfl⟩ fun b => Nat.le_trans (disown_notices ..) b).trans (settleOffer _)

theorem removeWatcherOf (s : State) (op : Fin 8) : Keeps s (s.removeWatcherOf op) := by
  unfold State.removeWatcherOf
  split
  · exact refl s
  · exact removeWatcher ..

end Keeps

end Sys2Proof.Machine
end

