-- ==== Sys2Proof/Laws/KeepsScripts.lean ====
section
/-! SUPPORT. What the operations of the script engine, the output lines, the console stream and the console line keep
(`Keeps`). -/

namespace Sys2Proof.Machine

/-! ### The output lines -/

/-- A drive leaves the guard time and the sense lines as they are (R137). -/
theorem PowerUnit.drive_same (p : PowerUnit) (now : Time) (k : Fin 6) (v : Bool) :
    (p.drive now k v).2.guardSecs = p.guardSecs ∧ (p.drive now k v).2.sense = p.sense := by
  unfold PowerUnit.drive
  dsimp only
  split <;> exact ⟨rfl, rfl⟩

theorem PowerUnit.lineToIdle_same (p : PowerUnit) (k : Fin 6) :
    (p.lineToIdle k).guardSecs = p.guardSecs ∧ (p.lineToIdle k).sense = p.sense := by
  unfold PowerUnit.lineToIdle
  dsimp only
  split
  · exact ⟨rfl, rfl⟩
  · split <;> exact ⟨rfl, rfl⟩

/-- The return of the lines to idle leaves the guard time and the sense lines as they are (R139). -/
theorem PowerUnit.linesToIdle_same (p : PowerUnit) : p.linesToIdle.guardSecs = p.guardSecs ∧ p.linesToIdle.sense = p.sense := by
  unfold PowerUnit.linesToIdle
  generalize List.finRange 6 = ks
  induction ks generalizing p with
  | nil => exact ⟨rfl, rfl⟩
  | cons k ks ih =>
    have a := ih (p.lineToIdle k)
    have b := lineToIdle_same p k
    exact ⟨a.1.trans b.1, a.2.trans b.2⟩

namespace Keeps

theorem foldl {α : Type} (f : State → α → State) (h : ∀ s a, Keeps s (f s a)) (l : List α) (s : State) :
    Keeps s (l.foldl f s) := by
  induction l generalizing s with
  | nil => exact refl s
  | cons a l ih => exact (h s a).trans (ih _)

/-! ### The script engine -/

theorem onScriptCnt (s : State) (f : ScriptCounters → ScriptCounters) : Keeps s (s.onScriptCnt f) :=
  onScript s _ id (fun c hc h => h c hc) rfl id

theorem onPowerCnt (s : State) (f : PowerCounters → PowerCounters) : Keeps s (s.onPowerCnt f) :=
  onPower s _ rfl fun _ => rfl

theorem onRunning (s : State) (f : Running → Running) (h : ∀ c, (f c).stack.length ≤ max c.stack.length 4) :
    Keeps s (s.onRunning f) := by
  refine onScript s _ id (fun c hc b => ?_) rfl (by simp)
  simp only [Option.map_eq_some_iff] at hc
  obtain ⟨c', hc', rfl⟩ := hc
  exact Nat.le_trans (h c') (Nat.max_le.2 ⟨b c' hc', Nat.le_refl _⟩)

theorem onRunningSame (s : State) (f : Running → Running) (h : ∀ c, (f c).stack = c.stack) : Keeps s (s.onRunning f) :=
  onRunning s f fun c => by rw [h c]; exact Nat.le_max_left _ _

theorem countStep (s : State) : Keeps s s.countStep := onScriptCnt ..

/-- The engine becomes IDLE once the hold is released. -/
theorem endRunning (s : State) (hs : s.ports.holdS = false) (l : Option LastOutcome) (c : ScriptCounters) :
    Keeps s (s.onScript fun e => { e with running := none, last := l, cnt := c }) :=
  ⟨rfl, rfl, rfl, rfl, fun _ => rfl, fun h => { h with stack := fun _ h => absurd h (by simp) },
    fun h => h, fun h => { h with }, fun _ h => absurd (hs ▸ h) (by simp)⟩

theorem finishCore (s : State) (o : ScriptOutcome) (n : Nat) : Keeps s (s.finishCore o n) := by
  unfold State.finishCore
  split
  · exact refl s
  · rename_i c hc
    have h1 := onPower s PowerUnit.linesToIdle (PowerUnit.linesToIdle_same _).1 fun k => by
      rw [(PowerUnit.linesToIdle_same _).2]
    exact ((h1.trans (releaseHold _)).trans (endRunning _ rfl ..)).trans (raiseNotice _ _)

theorem beginStep (fuel i : Nat) (s : State) : Keeps s (s.beginStep fuel i).1 := by
  induction fuel generalizing s i with
  | zero => exact refl s
  | succ n ih =>
    unfold State.beginStep
    split
    · exact refl s
    · dsimp only
      have h1 : ∀ t, Keeps s (s.onRunning fun r => { r with cur := i, step := t }) := fun t =>
        onRunningSame s _ fun _ => rfl
      split
      · exact h1 _
      · split
        · exact ((h1 _).trans (countStep _)).trans (ih ..)
        · split
          · exact ((h1 _).trans ((countStep _).trans (onScriptCnt ..))).trans (ih ..)
          · exact (h1 _).trans (onRunningSame _ _ fun _ => rfl)
      · exact (h1 _).trans (onRunningSame _ _ fun _ => rfl)

theorem startCore (s : State) (r : Request) : Keeps s (s.startCore r).1 := by
  have h1 : Keeps s (s.onScript fun e => { e with
      running := some ⟨r.script, r.source, r.prio, (s.script.dir[r.script]).preemptible, s.clock.now, 0, Factory.step, [], .acting⟩
      cnt := { e.cnt with started := e.cnt.started + 1 } }) :=
    onScript s _ id (fun c hc _ => by simp at hc; subst hc; simp) rfl fun _ => rfl
  unfold State.startCore
  dsimp only
  split
  · exact (h1.trans (raiseNotice _ _)).trans (beginStep ..)
  · exact h1.trans (raiseNotice _ _)

theorem startNext (fuel : Nat) (s : State) : Keeps s (s.startNext fuel) := by
  induction fuel generalizing s with
  | zero => exact refl s
  | succ n ih =>
    unfold State.startNext
    split
    · exact refl s
    · rename_i r rest hq
      have h1 : Keeps s (s.onScript fun e => { e with queue := rest }) :=
        onScript s _ (fun b => by rw [hq] at b; simp at b ⊢; omega) (fun c hc h => h c hc) rfl id
      have h2 := startCore (s.onScript fun e => { e with queue := rest }) r
      split <;> rename_i e <;> rw [e] at h2
      · exact h1.trans h2
      · exact ((h1.trans h2).trans (finishCore ..)).trans (ih _)

theorem finishScript (s : State) (o : ScriptOutcome) (n : Nat) : Keeps s (s.finishScript o n) :=
  (finishCore ..).trans (startNext ..)

theorem settle {s : State} {x : State × Finish} (h : Keeps s x.1) : Keeps s (State.settle x) := by
  unfold State.settle
  split
  · exact h
  · exact h.trans (finishScript ..)

theorem goTo (s : State) (i : Nat) : Keeps s (s.goTo i) := settle (beginStep ..)

theorem startRequest (s : State) (r : Request) : Keeps s (s.startRequest r) := settle (startCore ..)

/-- A request is put in its place (R159). -/
theorem insertRequest_length (r : Request) (q : List Request) : (insertRequest r q).length = q.length + 1 := by
  induction q with
  | nil => rfl
  | cons a q ih => unfold insertRequest; split <;> simp [ih]

theorem enqueue (s : State) (r : Request) (h : s.script.queue.length < 8) : Keeps s (s.enqueue r) :=
  onScript s _ (fun _ => by simp [insertRequest_length]; omega) (fun c hc h => h c hc) rfl id

theorem raiseNotice_queue (s : State) (n : Notice) : (s.raiseNotice n).script = s.script := (SameButPushes.raiseNotice s n).script

theorem queueRequest (s : State) (r : Request) : Keeps s (s.queueRequest r).2 := by
  unfold State.queueRequest
  dsimp only
  split
  · dsimp only; exact onScriptCnt s _
  · split
    · rename_i h; exact enqueue s r (by simpa [Config.requestLimit] using h)
    · split
      · exact refl s
      · split
        · rename_i hl _ low _ _
          have h1 : Keeps s (s.onScript fun e => { e with
              queue := s.script.queue.dropLast, cnt := { e.cnt with displaced := e.cnt.displaced + 1 } }) :=
            onScript s _ (fun b => by simp <;> omega) (fun c hc h => h c hc) rfl id
          refine ⟨?_, ?_, ?_, ?_, ?_, fun b => ?_, ?_, ?_, ?_⟩
          case refine_6 =>
            have hq : (((s.onScript fun e => { e with
                queue := s.script.queue.dropLast, cnt := { e.cnt with displaced := e.cnt.displaced + 1 } }).raiseNotice
                (.scriptDropped low.script low.source low.prio)).script.queue).length < 8 := by
              rw [raiseNotice_queue]
              have := b.requests
              simp only [Config.requestLimit] at hl
              simp [State.onScript]; omega
            exact ((h1.trans (raiseNotice _ _)).trans (enqueue _ r hq)).caps b
          all_goals
            have h2 := h1.trans (raiseNotice _ (.scriptDropped low.script low.source low.prio))
          · exact h2.pending
          · exact h2.dom
          · exact h2.operators
          · exact h2.steer
          · exact h2.cfgs
          · exact h2.meters
          · exact fun b => { h2.settings b with }
          · exact h2.hold
        · exact refl s

theorem present (s : State) (r : Request) : Keeps s (s.present r).2 := by
  unfold State.present
  split
  · exact refl s
  · split
    · exact startRequest s r
    · split
      · exact ((onScriptCnt ..).trans (finishCore ..)).trans (startRequest ..)
      · exact queueRequest s r

theorem presentFrom (s : State) (n : Nat) (src : Source) (prio : Nat) (b : Bool) : Keeps s (s.presentFrom n src prio b) := by
  unfold State.presentFrom
  dsimp only
  split
  · exact onScriptCnt ..
  · rename_i k _
    have h := present s ⟨k, src, prio, b, s.clock.now⟩
    split <;> rename_i e <;> rw [e] at h
    · exact h.trans (onScriptCnt ..)
    · exact h.trans (onScriptCnt ..)
    · exact h

theorem awaitLevel (s : State) (k : Fin 4) : Keeps s (s.awaitLevel k) := by
  unfold State.awaitLevel
  split
  · exact refl s
  · split
    · split
      · exact (countStep s).trans (goTo ..)
      · exact refl s
    · exact refl s

theorem setPower (s : State) (p : PowerUnit) (h1 : p.guardSecs = s.power.guardSecs) (h2 : p.sense = s.power.sense) :
    Keeps s (s.onPower fun _ => p) := onPower s (fun _ => p) h1 fun k => by rw [h2]

theorem presentDrive (s : State) (c : Running) : Keeps s (s.presentDrive c) := by
  unfold State.presentDrive
  split
  · exact goTo ..
  · rename_i k _
    have h := PowerUnit.drive_same s.power s.clock.now k (c.step.arg == 1)
    split <;> rename_i e <;> rw [e] at h
    · exact (setPower s _ h.1 h.2).trans (goTo ..)
    · split
      · exact setPower s _ h.1 h.2
      · exact (setPower s _ h.1 h.2).trans (onRunningSame _ _ fun _ => rfl)

/-! ### The console stream -/

theorem setPattern (s : State) (i : Fin 8) (p : Pattern) : Keeps s (s.setPattern i p) :=
  onHist s _ (Nat.le_max_left _ _) id id rfl rfl

theorem onHistCnt (s : State) (f : HistoryCounters → HistoryCounters) : Keeps s (s.onHistCnt f) :=
  onHist s _ (Nat.le_max_left _ _) id id rfl rfl

theorem patternHit (s : State) (i : Fin 8) (p : Pattern) : Keeps s (s.patternHit i p) := by
  unfold State.patternHit
  dsimp only
  have h1 : Keeps s ((s.setPattern i { p with hits := p.hits + 1, armed := p.mode != 0 }).onHistCnt fun c =>
      { c with patternHits := c.patternHits + 1 }) := (setPattern ..).trans (onHistCnt ..)
  have h2 : ∀ t, Keeps s t → Keeps s (if p.mark = true then t.addMark .pattern (BitVec.ofNat 16 i.val) else t) := by
    intro t h; split
    · exact h.trans (addMark ..)
    · exact h
  have h3 : ∀ t n, Keeps s t → Keeps s (if p.notify = true then t.raiseNotice n else t) := by
    intro t n h; split
    · exact h.trans (raiseNotice ..)
    · exact h
  have h4 : ∀ t, Keeps s t → Keeps s (if p.request = true then t.presentFrom p.script (.pattern i) p.prio p.preempt else t) := by
    intro t h; split
    · exact h.trans (presentFrom ..)
    · exact h
  exact h4 _ (h3 _ _ (h2 _ h1))

theorem judgePattern (b : Byte) (s : State) (i : Fin 8) : Keeps s (s.judgePattern b i) := by
  unfold State.judgePattern
  dsimp only
  split
  · split
    · exact patternHit ..
    · exact setPattern ..
  · exact refl s

theorem judgeAll_same (now : Time) (ws : List (Fin 4)) (h : History) :
    h.SameStream (ws.foldl (fun g w => g.judgeDue now w) h) ∧ (ws.foldl (fun g w => g.judgeDue now w) h).notices = h.notices := by
  induction ws generalizing h with
  | nil => exact ⟨.refl h, rfl⟩
  | cons w ws ih =>
    have a := ih (h.judgeDue now w)
    exact ⟨(History.judgeDue_same h now w).trans a.1, a.2.trans rfl⟩

/-- The watchers judged one after another (R86). -/
theorem judgeAll (s : State) (now : Time) :
    Keeps s (s.onHist fun h => (List.finRange 4).foldl (fun g w => g.judgeDue now w) h) :=
  onHistSame s _ (judgeAll_same ..).1 fun h => by rw [(judgeAll_same ..).2]; exact h

theorem store (s : State) (b : Byte) (now : Time) : Keeps s (s.onHist fun h => h.store b now) :=
  onHist s _ (Nat.le_trans (List.length_take_le ..) (Nat.le_max_right _ _)) id id rfl rfl

/-- Appending a byte keeps the ring within its 65,536 bytes (R79). -/
theorem appendByte (s : State) (b : Byte) : Keeps s (s.appendByte b) := by
  unfold State.appendByte
  dsimp only
  exact (((store ..).trans (foldl _ (judgePattern b) _ _)).trans (judgeAll ..)).trans (pump _)

/-! ### The console line -/

theorem onLineSame (s : State) (f : ConsoleLine → ConsoleLine) (hf : (f s.line).fifo = s.line.fifo)
    (hs : (f s.line).set = s.line.set) : Keeps s (s.onLine f) :=
  onLine s f (by rw [hf]; exact Nat.le_max_left _ _) hs

theorem onLineCnt (s : State) (f : LineCounters → LineCounters) : Keeps s (s.onLineCnt f) := onLineSame s _ rfl rfl

theorem setRx (s : State) (x : Receiver) : Keeps s (s.setRx x) := onLineSame s _ rfl rfl

theorem setRxd (s : State) (b : Bool) : Keeps s (s.setRxd b) := onPins s _

theorem takeCharacter (s : State) (v : Byte) (f p : Bool) : Keeps s (s.takeCharacter v f p) := by
  unfold State.takeCharacter
  exact ((setRx ..).trans (onLineCnt ..)).trans (appendByte ..)

theorem endMeasurement (s : State) : Keeps s s.endMeasurement := onLineSame s _ rfl rfl

theorem abandonMeasurement (s : State) : Keeps s s.abandonMeasurement := by
  unfold State.abandonMeasurement
  split
  · exact refl s
  · exact endMeasurement s

/-- A divisor in range (R60). -/
theorem setDiv (s : State) (d : Nat) (h1 : 32 ≤ d) (h2 : d ≤ 65535) : Keeps s (s.setDiv d) :=
  ⟨rfl, rfl, rfl, rfl, fun _ => rfl, fun h => { h with }, fun h => h, fun h => { h with div := ⟨h1, h2⟩ }, fun h => h⟩

theorem txNext (s : State) : Keeps s s.txNext := by
  unfold State.txNext
  split
  · rename_i x rest _ hf
    split
    · split
      · exact refl s
      · exact (onLineSame s _ rfl rfl).trans (onLineCnt ..)
    · refine onLine s _ ?_ rfl
      rw [hf]; simp <;> omega
  · exact refl s

theorem changeOwner (s : State) (o : Option (Fin 8)) (c : OwnerCause) : Keeps s (s.changeOwner o c) := by
  unfold State.changeOwner
  exact ((onLineSame s _ rfl rfl).trans (addMark ..)).trans (raiseNotice ..)

theorem releaseIfIdle (s : State) : Keeps s s.releaseIfIdle := by
  unfold State.releaseIfIdle
  split
  · exact refl s
  · split
    · exact changeOwner ..
    · exact refl s

end Keeps

/-! ### Ranges of computed divisors -/

theorem clamp_range (lo hi v : Nat) (h : lo ≤ hi) : lo ≤ clamp lo hi v ∧ clamp lo hi v ≤ hi := by
  unfold clamp; omega

theorem divOfBaud_range (b : Nat) : 32 ≤ divOfBaud b ∧ divOfBaud b ≤ 65535 := clamp_range _ _ _ (by decide)

/-- What a fold that keeps the nearer of two answers is one of those it was given. -/
theorem nearest_mem (m : Nat) (l : List (Nat × Nat)) (b : Option (Nat × Nat)) (r : Nat × Nat)
    (h : l.foldl (nearer m) b = some r) : r ∈ l ∨ b = some r := by
  induction l generalizing b with
  | nil => exact .inr h
  | cons a l ih =>
    rcases ih _ h with h1 | h1
    · exact .inl (List.mem_cons_of_mem _ h1)
    · cases b with
      | none => exact .inl (by simp [nearer] at h1; simp [h1])
      | some c =>
        dsimp only [nearer] at h1
        split at h1
        · exact .inl (by simp at h1; simp [h1])
        · exact .inr h1

theorem standardRates_range : ∀ x ∈ standardRates, 32 ≤ x.2 ∧ x.2 ≤ 65535 := by simp [standardRates]

theorem snapRate_range {m : Nat} {r : Nat × Nat} (h : snapRate m = some r) : 32 ≤ r.2 ∧ r.2 ≤ 65535 := by
  unfold snapRate at h
  rcases nearest_mem m _ none r h with h1 | h1
  · exact standardRates_range r (List.mem_filter.1 h1).1
  · exact absurd h1 (by simp)

/-- The divisor of an interval lies in range (R69). -/
theorem divOfInterval_range (m : Nat) : 32 ≤ divOfInterval m ∧ divOfInterval m ≤ 65535 := by
  unfold divOfInterval
  cases h : snapRate m with
  | none =>
    rw [Option.map_none, Option.getD_none]
    exact clamp_range _ _ _ (by decide)
  | some r =>
    rw [Option.map_some, Option.getD_some]
    exact snapRate_range h

theorem Keeps.autobaudComplete (s : State) (m : Nat) : Keeps s (s.autobaudComplete m) := by
  unfold State.autobaudComplete
  dsimp only
  exact ((((Keeps.endMeasurement s).trans (Keeps.setDiv _ _ (divOfInterval_range m).1 (divOfInterval_range m).2)).trans
    (Keeps.onLineCnt ..)).trans (Keeps.addMark ..)).trans (Keeps.raiseNotice ..)

end Sys2Proof.Machine
end

