-- ==== Sys2Proof/Laws/KeepsMedia.lean ====
section
/-! SUPPORT. What the operations of the media engine and of the power unit keep (`Keeps`). -/

namespace Sys2Proof.Machine

namespace Keeps

/-! ### Media: changes of one part -/

/-- A change that leaves the regions, the inbox, the held requests and the settings. -/
theorem onMediaSame (s : State) (f : Media → Media) (h1 : (f s.media).regions = s.media.regions)
    (h2 : (f s.media).inbox = s.media.inbox) (h3 : (f s.media).held.length ≤ s.media.held.length)
    (h4 : (f s.media).timeoutMs = s.media.timeoutMs) (h5 : (f s.media).retryCount = s.media.retryCount) :
    Keeps s (s.onMedia f) :=
  onMedia s f (fun g => by rw [h1]) (by rw [h2]; exact Nat.le_max_left _ _)
    (Nat.le_trans h3 (Nat.le_max_left _ _)) h4 h5

theorem onBlk (s : State) (f : BlockCounters → BlockCounters) : Keeps s (s.onBlk f) :=
  onMediaSame s _ rfl rfl (Nat.le_refl _) rfl rfl

theorem onXfer (s : State) (f : TransferCounters → TransferCounters) : Keeps s (s.onXfer f) :=
  onMediaSame s _ rfl rfl (Nat.le_refl _) rfl rfl

theorem setLines (s : State) (ls : List CacheLine) : Keeps s (s.setLines ls) :=
  onMediaSame s _ rfl rfl (Nat.le_refl _) rfl rfl

theorem touch (s : State) (g : Fin 4) (xs : List Nat) : Keeps s (s.touch g xs) := setLines ..

theorem onLineOf (s : State) (g : Fin 4) (x : Nat) (f : CacheLine → CacheLine) : Keeps s (s.onLineOf g x f) := setLines ..

theorem dropLine (s : State) (l : CacheLine) : Keeps s (s.dropLine l) := setLines ..

theorem addLine (s : State) (l : CacheLine) : Keeps s (s.addLine l) := setLines ..

theorem onPoolCnt (s : State) (f : Pool → Pool) (h : ∀ p, (f p).reserve = p.reserve ∧ (f p).ceiling = p.ceiling) :
    Keeps s (s.onPool f) := onPool s f (h _).1 (h _).2

theorem blkReply (s : State) (mac : Mac) (d : Fin 16) (b : List Byte) (st : BlkStatus) : Keeps s (s.blkReply mac d b st) := by
  unfold State.blkReply
  dsimp only
  have h := (onBlk s fun c => c.replied st).trans (offerEgress (s.onBlk fun c => c.replied st) .s d
    (s.onBlk fun c => c.replied st).sched.mediaClass
    (builtFrame mac (s.onBlk fun c => c.replied st).ports.partMac Config.etherTypeMedia b) .blkReply)
  split
  · exact h
  · exact h.trans (onBlk ..)

theorem answer (s : State) (r : BlkRequest) (st : BlkStatus) (b : List Byte) : Keeps s (s.answer r st b) := by
  unfold State.answer; exact (onBlk s _).trans (blkReply ..)

/-! ### Lines and transfers -/

theorem freeLines (s : State) (p : CacheLine → Bool) : Keeps s (s.freeLines p) := by
  unfold State.freeLines
  dsimp only
  split
  · exact refl s
  · exact (onMediaSame s _ rfl rfl (Nat.le_refl _) rfl rfl).trans (returnCells ..)

theorem trimN (fuel : Nat) (s : State) : Keeps s (s.trimN fuel) := by
  induction fuel generalizing s with
  | zero => exact refl s
  | succ n ih =>
    unfold State.trimN
    split
    · exact refl s
    · split
      · exact refl s
      · exact (((dropLine s _).trans (onPool _ _ rfl rfl)).trans (returnCells ..)).trans (ih _)

theorem trimExcess (s : State) : Keeps s s.trimExcess := trimN ..

theorem obtainLine (s : State) : Keeps s s.obtainLine.2 := by
  unfold State.obtainLine
  split
  · dsimp only; exact (takeCells ..).trans (onPool _ _ rfl rfl)
  · split
    · dsimp only; exact (dropLine ..).trans (onPool _ _ rfl rfl)
    · dsimp only; exact onPool s _ rfl rfl

theorem allocate (s : State) (k : TransferKind) (g : Fin 4) (a b : Nat) (e : Fin 16) : Keeps s (s.allocate k g a b e) :=
  onMediaSame s _ rfl rfl (Nat.le_refl _) rfl rfl

theorem freeEntry (s : State) (e : Fin 16) : Keeps s (s.freeEntry e) := onMediaSame s _ rfl rfl (Nat.le_refl _) rfl rfl

theorem setTransfer (s : State) (e : Fin 16) (t : Transfer) : Keeps s (s.setTransfer e t) :=
  onMediaSame s _ rfl rfl (Nat.le_refl _) rfl rfl

theorem fillLines (g : Fin 4) (e : Fin 16) (xs : List Nat) (s : State) : Keeps s (s.fillLines g e xs).2 := by
  induction xs generalizing s with
  | nil => exact refl s
  | cons x xs ih =>
    unfold State.fillLines
    have h := obtainLine s
    split <;> rename_i eq <;> rw [eq] at h
    · exact h
    · exact (h.trans (addLine ..)).trans (ih _)

theorem deferFill (s : State) : Keeps s s.deferFill := onXfer ..

theorem ensureFill (s : State) (g : Fin 4) (x : Nat) : Keeps s (s.ensureFill g x).2 := by
  unfold State.ensureFill
  split
  · exact refl s
  · dsimp only
    split
    · exact deferFill s
    · split
      · exact deferFill s
      · rename_i e _ _
        have h := fillLines g e (s.media.runFrom g x (runEnd (s.media.regions[g]).cfg.prefetch (s.media.regions[g]).sectors x)
          (s.media.regions[g]).cfg.prefetch) s
        split
        · exact h.trans (deferFill _)
        · dsimp only; exact (h.trans (allocate ..)).trans (onXfer ..)

theorem startFlush (s : State) (e : Fin 16) (g : Fin 4) (x : Nat) : Keeps s (s.startFlush e g x) := by
  unfold State.startFlush
  exact ((onMediaSame s _ rfl rfl (Nat.le_refl _) rfl rfl).trans (allocate ..)).trans (onXfer ..)

theorem flushN (fuel : Nat) (s : State) : Keeps s (s.flushN fuel) := by
  induction fuel generalizing s with
  | zero => exact refl s
  | succ n ih =>
    unfold State.flushN
    split
    · exact refl s
    · split
      · exact (startFlush ..).trans (ih _)
      · exact refl s

theorem runFlushes (s : State) : Keeps s s.runFlushes := flushN ..

theorem runJoined (joined : Bool) (s : State) : Keeps s (s.runJoined joined) := by
  cases joined
  · exact refl s
  · exact runFlushes s

/-! ### Held requests and regions -/

theorem endHeld (st : BlkStatus) (s : State) (h : Held) : Keeps s (s.endHeld st h) := by
  unfold State.endHeld
  dsimp only
  have h1 : Keeps s (s.onMedia fun m => { m with held := m.held.erase h }) :=
    onMediaSame s _ rfl rfl (List.length_erase_le ..) rfl rfl
  split
  · exact ((h1.trans (touch ..)).trans (blkReply ..)).trans (trimExcess _)
  · exact (h1.trans (blkReply ..)).trans (trimExcess _)

theorem endHeldWhere (s : State) (p : Held → Bool) (st : BlkStatus) : Keeps s (s.endHeldWhere p st) :=
  foldl _ (endHeld st) _ s

theorem sectorArrived (s : State) (g : Fin 4) (x : Nat) : Keeps s (s.sectorArrived g x) := by
  unfold State.sectorArrived
  exact (onMediaSame s _ rfl rfl (by simp) rfl rfl).trans (endHeldWhere ..)

theorem onRegion (s : State) (g : Fin 4) (f : Region → Region) (h : ∀ r, (f r).cfg = r.cfg) : Keeps s (s.onRegion g f) := by
  refine onMedia s _ (fun k => ?_) (Nat.le_max_left _ _) (Nat.le_max_left _ _) rfl rfl
  by_cases e : g = k
  · subst e; simp [h]
  · have : (g : Nat) ≠ k := fun x => e (Fin.ext x)
    simp [Vector.getElem_set_ne, this]

theorem enterRegion (s : State) (g : Fin 4) (st : RegionState) : Keeps s (s.enterRegion g st) := by
  unfold State.enterRegion
  dsimp only
  refine trans (onRegion s g _ fun _ => ?_) (raiseNotice ..)
  rfl

theorem setError (s : State) (g : Fin 4) (c : ErrorCode) (x : Option Nat) : Keeps s (s.setError g c x) :=
  onRegion s g _ fun _ => rfl

theorem beginAttach (s : State) (g : Fin 4) : Keeps s (s.beginAttach g) := by
  unfold State.beginAttach
  dsimp only
  split
  · exact (enterRegion ..).trans (allocate ..)
  · exact (enterRegion ..).trans (onMediaSame _ _ rfl rfl (Nat.le_refl _) rfl rfl)

theorem cancelFetches (s : State) (g : Fin 4) (k : TransferKind → Bool) : Keeps s (s.cancelFetches g k) :=
  foldl _ (fun _ _ => (freeLines ..).trans (freeEntry ..)) _ s

theorem discardDirty (s : State) (g : Fin 4) : Keeps s (s.discardDirty g) := by
  unfold State.discardDirty
  dsimp only
  exact ((foldl (fun t e => t.freeEntry e) (fun _ _ => freeEntry ..) _ s).trans (freeLines ..)).trans (onBlk ..)

theorem becomeDetached (s : State) (g : Fin 4) : Keeps s (s.becomeDetached g) := by
  unfold State.becomeDetached; exact (freeLines ..).trans (enterRegion ..)

theorem faultRegion (s : State) (g : Fin 4) : Keeps s (s.faultRegion g) := by
  unfold State.faultRegion
  refine (((onRegion s g _ fun _ => ?_).trans (endHeldWhere ..)).trans (cancelFetches ..)).trans (enterRegion ..)
  rfl

theorem countFailure (s : State) (g : Fin 4) : Keeps s (s.countFailure g) := by
  unfold State.countFailure
  dsimp only
  have h1 : Keeps s (s.onRegion g fun r => { r with failures := r.failures + 1 }) := onRegion s g _ fun _ => rfl
  split
  · split
    · exact h1.trans (faultRegion ..)
    · exact h1
  · split
    · exact (h1.trans (discardDirty ..)).trans (becomeDetached ..)
    · exact h1
  · exact refl s

theorem countCompletion (s : State) (g : Fin 4) : Keeps s (s.countCompletion g) := by
  unfold State.countCompletion; exact onRegion s g _ fun _ => rfl

/-! ### Failure and retry -/

theorem returnDirty (e : Fin 16) (s : State) (x : Fin 4 × Nat) : Keeps s (s.returnDirty e x) := by
  unfold State.returnDirty
  split
  · exact refl s
  · split
    · exact (onLineOf ..).trans (onMediaSame _ _ rfl rfl (Nat.le_refl _) rfl rfl)
    · exact refl s

theorem failFetch (s : State) (e : Fin 16) (t : Transfer) : Keeps s (s.failFetch e t) := by
  unfold State.failFetch
  exact (((((freeLines ..).trans (endHeldWhere ..)).trans (setError ..)).trans (onXfer ..)).trans (freeEntry ..)).trans
    (countFailure ..)

theorem failFlush (s : State) (e : Fin 16) (t : Transfer) : Keeps s (s.failFlush e t) := by
  unfold State.failFlush
  exact (((((foldl _ (returnDirty e) _ s).trans (runJoined ..)).trans (setError ..)).trans (onXfer ..)).trans
    (freeEntry ..)).trans (countFailure ..)

theorem failAttach (s : State) (g : Fin 4) (c : ErrorCode) : Keeps s (s.failAttach g c) := by
  unfold State.failAttach; exact (setError ..).trans (enterRegion ..)

theorem failTransfer (s : State) (e : Fin 16) (t : Transfer) : Keeps s (s.failTransfer e t) := by
  unfold State.failTransfer
  split
  · exact failFetch ..
  · exact failFlush ..
  · exact (freeEntry ..).trans (failAttach ..)

theorem judgeAttempt (s : State) (e : Fin 16) (t : Transfer) : Keeps s (s.judgeAttempt e t) := by
  unfold State.judgeAttempt
  split
  · exact ((setTransfer ..).trans (onMediaSame _ _ rfl rfl (Nat.le_refl _) rfl rfl)).trans (onXfer ..)
  · exact (setTransfer ..).trans (failTransfer ..)

theorem takeInquiries (fuel : Nat) (s : State) : Keeps s (s.takeInquiries fuel) := by
  induction fuel generalizing s with
  | zero => exact refl s
  | succ n ih =>
    unfold State.takeInquiries
    split
    · exact ((onMediaSame s _ rfl rfl (Nat.le_refl _) rfl rfl).trans (allocate ..)).trans (ih _)
    · exact refl s

theorem rescanSector (g : Fin 4) (s : State) (x : Nat) : Keeps s (s.rescanSector g x) := by
  unfold State.rescanSector
  dsimp only
  split
  · exact (ensureFill ..).trans (onMediaSame _ _ rfl rfl (Nat.le_refl _) rfl rfl)
  · exact ensureFill ..

theorem rescanHeld (s : State) : Keeps s s.rescanHeld := by
  unfold State.rescanHeld
  refine (onMediaSame s (fun m => { m with fillWaiting := false }) rfl rfl (Nat.le_refl _) rfl rfl).trans
    (foldl _ (fun t h => ?_) _ _)
  split
  · exact foldl _ (rescanSector h.unit) _ t
  · exact refl t

/-! ### Requests and answers -/

/-- A frame of the media inbox handled by an operation that keeps all (R105). -/
theorem takeMedia (s : State) (c : Instr) (f : MediaIn → State → State) (h : ∀ m, Keeps s (f m s)) :
    Keeps s (s.takeMedia c f) := by
  unfold State.takeMedia
  split
  · exact refl s
  · rename_i m _ _
    split
    · refine ((h m).trans (onMedia _ _ (fun _ => rfl) ?_ (Nat.le_max_left _ _) rfl rfl)).trans (returnCells ..)
      simp <;> omega
    · exact refl s

theorem takeRequest (s : State) (c : Instr) (f : BlkRequest → State → State) (h : ∀ r, Keeps s (f r s)) :
    Keeps s (s.takeRequest c f) := by
  refine takeMedia s c _ fun m => ?_
  split
  · exact onBlk ..
  · exact h _

theorem takeAnswer (s : State) (c : Instr) (k : TransferKind) (f : Fin 16 → Transfer → List Byte → State → State)
    (h : ∀ e t p, Keeps s (f e t p s)) : Keeps s (s.takeAnswer c k f) := by
  refine takeMedia s c _ fun m => ?_
  split
  · exact onXfer ..
  · exact h ..

theorem judged (s : State) (r : BlkRequest) (f : Fin 4 → State → State) (h : ∀ g, Keeps s (f g s)) : Keeps s (s.judged r f) := by
  unfold State.judged
  split
  · exact answer ..
  · exact h _

theorem dispose (s : State) (g : Fin 4) (op : HeldOp) (r : BlkRequest) : Keeps s (s.dispose g op r) := by
  unfold State.dispose
  dsimp only
  split
  · exact answer ..
  · split
    · exact onBlk ..
    · split
      · exact answer ..
      · rename_i hl
        refine (onMedia s _ (fun _ => rfl) (Nat.le_max_left _ _) ?_ rfl rfl).trans (onBlk ..)
        simp only [Config.heldLimit] at hl
        simp <;> omega

theorem readRequest (s : State) (r : BlkRequest) (g : Fin 4) : Keeps s (s.readRequest r g) := by
  unfold State.readRequest
  dsimp only
  split
  · exact (touch ..).trans (answer ..)
  · exact (foldl _ (fun t x => ensureFill t g x) _ s).trans (dispose ..)

theorem writeLines (g : Fin 4) (xs : List Nat) (s : State) : Keeps s (s.writeLines g xs).2 := by
  induction xs generalizing s with
  | nil => exact refl s
  | cons x xs ih =>
    unfold State.writeLines
    split
    · exact ih s
    · have h := obtainLine s
      split <;> rename_i eq <;> rw [eq] at h
      · exact h
      · exact (h.trans (addLine ..)).trans (ih _)

theorem storeSector (g : Fin 4) (js : List Nat) (s : State) (x : Nat × List Byte) : Keeps s (s.storeSector g js x) := by
  unfold State.storeSector
  dsimp only
  split
  · exact ((onLineOf ..).trans (touch ..)).trans (onMediaSame _ _ rfl rfl (Nat.le_refl _) rfl rfl)
  · exact (onLineOf ..).trans (touch ..)

theorem writeBusy (s : State) (r : BlkRequest) : Keeps s (s.writeBusy r) := by
  unfold State.writeBusy; exact (onBlk ..).trans (answer ..)

theorem writeRequest (s : State) (r : BlkRequest) (g : Fin 4) : Keeps s (s.writeRequest r g) := by
  unfold State.writeRequest
  dsimp only
  split
  · exact answer ..
  · split
    · exact writeBusy ..
    · have h := writeLines g (sectorsOf r.first r.count ++ sectorsOf r.first r.count) s
      split <;> rename_i eq <;> rw [eq] at h
      · exact (h.trans (freeLines ..)).trans (writeBusy ..)
      · exact (((h.trans (foldl _ (storeSector g _) _ _)).trans (answer ..)).trans
          (foldl (fun t x => t.sectorArrived g x) (fun t x => sectorArrived t g x) _ _)).trans (runJoined _ _)

theorem inquireRequest (s : State) (r : BlkRequest) (g : Fin 4) : Keeps s (s.inquireRequest r g) := by
  unfold State.inquireRequest; exact answer ..

theorem syncRequest (s : State) (r : BlkRequest) (g : Fin 4) : Keeps s (s.syncRequest r g) := by
  unfold State.syncRequest
  split
  · exact answer ..
  · exact dispose ..

theorem inquiryAnswered (s : State) (e : Fin 16) (t : Transfer) (p : List Byte) : Keeps s (s.inquiryAnswered e t p) := by
  unfold State.inquiryAnswered
  dsimp only
  split
  · exact (freeEntry ..).trans (failAttach ..)
  · split
    · exact (freeEntry ..).trans (failAttach ..)
    · refine ((freeEntry ..).trans (onRegion _ _ _ fun _ => ?_)).trans (enterRegion ..)
      rfl

theorem refusal (s : State) (e : Fin 16) (t : Transfer) : Keeps s (s.refusal e t) := by
  unfold State.refusal; exact (onXfer ..).trans (judgeAttempt ..)

theorem takeSector (e : Fin 16) (s : State) (x : Nat × List Byte) : Keeps s (s.takeSector e x) := by
  unfold State.takeSector
  split
  · exact refl s
  · split
    · exact onXfer ..
    · split
      · exact onXfer ..
      · dsimp only
        split
        · exact (setTransfer ..).trans (onXfer ..)
        · split
          · exact (((setTransfer ..).trans (onLineOf ..)).trans (sectorArrived ..)).trans (trimExcess _)
          · exact (setTransfer ..).trans (onXfer ..)

theorem completeFetch (e : Fin 16) (s : State) : Keeps s (s.completeFetch e) := by
  unfold State.completeFetch
  split
  · exact refl s
  · split
    · exact ((freeEntry ..).trans (onXfer ..)).trans (countCompletion ..)
    · exact refl s

theorem dataAnswered (s : State) (e : Fin 16) (t : Transfer) (p : List Byte) : Keeps s (s.dataAnswered e t p) := by
  unfold State.dataAnswered
  split
  · exact refusal ..
  · exact (foldl _ (takeSector e) _ s).trans (completeFetch ..)

theorem acknowledge (e : Fin 16) (s : State) (x : Fin 4 × Nat) : Keeps s (s.acknowledge e x) := by
  unfold State.acknowledge
  split
  · exact refl s
  · split
    · exact (onLineOf ..).trans (trimExcess _)
    · split
      · exact returnDirty ..
      · exact refl s

theorem settleRegion (s : State) (g : Fin 4) : Keeps s (s.settleRegion g) := by
  unfold State.settleRegion
  split
  · dsimp only
    split
    · exact (endHeldWhere ..).trans (becomeDetached ..)
    · exact endHeldWhere ..
  · exact refl s

theorem ackAnswered (s : State) (e : Fin 16) (t : Transfer) (p : List Byte) : Keeps s (s.ackAnswered e t p) := by
  unfold State.ackAnswered
  split
  · exact refusal ..
  · exact (((((foldl _ (acknowledge e) _ s).trans (runJoined ..)).trans (freeEntry ..)).trans (onXfer ..)).trans
      (countCompletion ..)).trans (settleRegion ..)

/-! ### The power unit -/

theorem openWindow (s : State) (n : Nat) : Keeps s (s.openWindow n) := by
  unfold State.openWindow; exact (onPower s _ rfl fun _ => rfl).trans (addMark ..)

theorem closeWindow (s : State) (c : Half) : Keeps s (s.closeWindow c) := by
  unfold State.closeWindow
  split
  · exact refl s
  · exact ((onPower s _ rfl fun _ => rfl).trans (addMark ..)).trans (endHeldWhere ..)

theorem setPowerState (s : State) (x : PowerState) : Keeps s (s.setPowerState x) := by
  unfold State.setPowerState
  dsimp only
  split
  · exact refl s
  · exact ((onPower s _ rfl fun _ => rfl).trans (addMark ..)).trans (raiseNotice ..)

theorem setSense (s : State) (k : Fin 4) (x : SenseLine) (h : x.debounce = (s.power.sense[k]).debounce) :
    Keeps s (s.setSense k x) := by
  refine onPower s _ rfl fun j => ?_
  by_cases e : k = j
  · subst e; simp [h]
  · have : (k : Nat) ≠ j := fun x => e (Fin.ext x)
    simp [Vector.getElem_set_ne, this]

theorem matchTrigger (k : Fin 4) (rise : Bool) (s : State) (n : Fin 8) : Keeps s (s.matchTrigger k rise n) := by
  unfold State.matchTrigger
  dsimp only
  split
  · exact (onPower s _ rfl fun _ => rfl).trans (presentFrom ..)
  · exact refl s

theorem takeLevel (s : State) (k : Fin 4) (v : Bool) : Keeps s (s.takeLevel k v) := by
  unfold State.takeLevel
  dsimp only
  split
  · refine trans (setSense s k _ ?_) (setPowerState ..)
    rfl
  · exact setSense s k _ rfl

theorem raiseEdge (s : State) (k : Fin 4) (v : Bool) : Keeps s (s.raiseEdge k v) := by
  unfold State.raiseEdge
  exact (((onPowerCnt ..).trans (takeLevel ..)).trans (foldl _ (matchTrigger k v) _ _)).trans (awaitLevel ..)

theorem establish (s : State) (k : Fin 4) (v : Bool) : Keeps s (s.establish k v) := by
  unfold State.establish; exact (takeLevel ..).trans (awaitLevel ..)

theorem sensedChange (s : State) (k : Fin 4) (v : Bool) : Keeps s (s.sensedChange k v) := by
  unfold State.sensedChange
  dsimp only
  split
  · split
    · exact establish ..
    · exact setSense s k _ rfl
  · split
    · split
      · refine trans (setSense s k _ ?_) (onPowerCnt ..)
        rfl
      · exact refl s
    · split
      · exact raiseEdge ..
      · exact setSense s k _ rfl

end Keeps

end Sys2Proof.Machine
end

