-- ==== Sys2Proof/Laws/Sound.lean ====
section
/-! SUPPORT. What a table write, the image and a restart keep of the properties of Safety. -/

namespace Sys2Proof.Machine

/-- The properties of Safety, each kept. -/
structure Sound (s t : State) : Prop where
  pending : t.pending = s.pending
  caps : Capacities s → Capacities t
  meters : MetersInRange s → MetersInRange t
  settings : SettingsInRange s → SettingsInRange t
  hold : HoldBelongsToScript s → HoldBelongsToScript t
  domains : DomainsSound s → DomainsSound t
  admin : SomeAdmin s → SomeAdmin t

theorem Sound.refl (s : State) : Sound s s := ⟨rfl, id, id, id, id, id, id⟩

theorem Sound.trans {s t u : State} (a : Sound s t) (b : Sound t u) : Sound s u :=
  ⟨b.pending.trans a.pending, fun h => b.caps (a.caps h), fun h => b.meters (a.meters h),
    fun h => b.settings (a.settings h), fun h => b.hold (a.hold h), fun h => b.domains (a.domains h),
    fun h => b.admin (a.admin h)⟩

theorem Keeps.sound {s t : State} (k : Keeps s t) : Sound s t :=
  ⟨k.pending, k.caps, k.meters, k.settings, k.hold,
    fun h => ⟨by rw [k.dom]; exact h.vids, by rw [k.dom]; exact h.management, by rw [k.dom, k.steer]; exact h.rewrites, by
      rw [k.dom]
      intro g hg
      have := h.images g
      rw [← k.cfgs g] at this
      exact this hg⟩,
    fun h => by unfold SomeAdmin; rw [k.operators]; exact h⟩

theorem idx?_some {n v : Nat} {i : Fin n} (h : idx? n v = some i) : i.val = v := by
  unfold idx? at h
  split at h
  · simp at h; rw [← h]
  · exact absurd h (by simp)

theorem inRange_iff {lo hi v : Nat} : inRange lo hi v = true ↔ lo ≤ v ∧ v ≤ hi := by
  simp [inRange]

/-! ### The protections as the writes test them -/

theorem managementOk_iff {d : Domain} :
    d.managementOk = true ↔ d.valid = true ∧ d.members.u = true ∧ d.members.m = true ∧ d.members.s = false := by
  simp [Domain.managementOk, and_assoc]

theorem rewritesTo_iff {st : Vector Steering 64} {i : Fin 16} :
    rewritesTo st i = true ↔ ∃ k : Fin 64, (st[k]).valid = true ∧ (st[k]).rewrite = some i.val := by
  unfold rewritesTo
  simp only [List.any_eq_true, Bool.and_eq_true, beq_iff_eq]
  constructor
  · rintro ⟨e, he, h⟩
    obtain ⟨k, hk, rfl⟩ := List.getElem_of_mem he
    simp only [Vector.length_toList] at hk
    exact ⟨⟨k, hk⟩, by simpa using h⟩
  · rintro ⟨k, h⟩
    exact ⟨st[k], by simp [Vector.mem_toList_iff], h⟩

theorem imageDomainOf_iff {rs : Vector Region 4} {i : Fin 16} :
    imageDomainOf rs i = true ↔ ∃ g : Fin 4, (rs[g]).cfg.valid = true ∧ (rs[g]).cfg.domain = i.val := by
  unfold imageDomainOf
  simp only [List.any_eq_true, Bool.and_eq_true, beq_iff_eq]
  constructor
  · rintro ⟨e, he, h⟩
    obtain ⟨k, hk, rfl⟩ := List.getElem_of_mem he
    simp only [Vector.length_toList] at hk
    exact ⟨⟨k, hk⟩, by simpa using h⟩
  · rintro ⟨k, h⟩
    exact ⟨rs[k], by simp [Vector.mem_toList_iff], h⟩

theorem someAdmin_iff {s : State} : someAdmin s.operators = true ↔ SomeAdmin s := by
  unfold someAdmin SomeAdmin
  simp only [List.any_eq_true, Bool.and_eq_true]
  constructor
  · rintro ⟨e, he, h⟩
    obtain ⟨k, hk, rfl⟩ := List.getElem_of_mem he
    simp only [Vector.length_toList] at hk
    exact ⟨⟨k, hk⟩, by simpa using h⟩
  · rintro ⟨k, h⟩
    exact ⟨s.operators[k], by simp [Vector.mem_toList_iff], h⟩

/-! ### The domain table -/

/-- A domain table taken whole keeps everything else. -/
theorem Sound.setDom (s : State) (d : Domains) (h : DomainsSound s → DomainsSound { s with dom := d }) :
    Sound s (s.onDom fun _ => d) :=
  ⟨rfl, fun h => { h with }, fun h => h, fun h => { h with }, fun h => h, h, fun h => h⟩

theorem Sound.writeDomain {s t : State} {i : Nat} {e : List Byte} (h : s.writeDomain i e = .ok t) : Sound s t := by
  unfold State.writeDomain at h
  split at h
  · rename_i k _
    unfold State.writeDomainEntry at h
    split at h
    · exact absurd h (by simp)
    · rename_i hr
      simp only [Except.ok.injEq] at h
      subst h
      generalize readDomain e = d at hr
      refine Sound.setDom s _ fun b => ?_
      unfold State.domainRefusal at hr
      split at hr
      · exact absurd hr (by simp)
      rename_i h1
      split at hr
      · exact absurd hr (by simp)
      rename_i h2
      split at hr
      · exact absurd hr (by simp)
      rename_i h3
      split at hr
      · exact absurd hr (by simp)
      rename_i h4
      split at hr
      · exact absurd hr (by simp)
      rename_i h5
      have v1 : d.valid = true → 1 ≤ d.vid ∧ d.vid ≤ 4094 := by
        intro hv
        have : inRange 1 4094 d.vid = true := by simpa [hv] using h1
        exact inRange_iff.1 this
      have v2 : d.valid = true → ∀ j : Fin 16, j ≠ k → (s.dom.entries[j]).valid = true → (s.dom.entries[j]).vid ≠ d.vid := by
        intro hv j hj hjv hc
        exact h2 (by
          simp only [hv, Bool.true_and, List.any_eq_true, Bool.and_eq_true, bne_iff_ne, beq_iff_eq]
          exact ⟨j, List.mem_finRange j, ⟨hj, hjv⟩, hc⟩)
      refine ⟨⟨fun j => ?_, fun a c hac => ?_⟩, ?_, fun a r ha hr2 => ?_, fun g hg => ?_⟩
      · dsimp only
        rw [getElem_set_if]
        split
        · exact v1
        · exact b.vids.1 j
      · dsimp only
        rw [getElem_set_if, getElem_set_if]
        split <;> split
        · rename_i x y; exact absurd (x.symm.trans y) hac
        · rename_i x y; exact fun p q => (v2 p c (fun z => y z.symm) q).symm
        · rename_i x y; exact fun p q => v2 q a (fun z => x z.symm) p
        · exact b.vids.2 a c hac
      · unfold ManagementProtected
        dsimp only
        rw [getElem_set_if]
        split
        · rename_i x
          have : d.managementOk = true := by
            cases hm : d.managementOk with
            | true => rfl
            | false => exact absurd ⟨x, hm⟩ h3
          exact managementOk_iff.1 this
        · exact b.management
      · obtain ⟨i2, hi, hv, hn⟩ := b.rewrites a r ha hr2
        refine ⟨i2, hi, ?_, hn⟩
        dsimp only
        rw [getElem_set_if]
        split
        · rename_i x
          subst x
          have hw : rewritesTo s.steer k = true := rewritesTo_iff.2 ⟨a, ha, by rw [hr2, hi]⟩
          simpa [hw] using h5
        · exact hv
      · obtain ⟨i2, hi, hv⟩ := b.images g hg
        refine ⟨i2, hi, ?_⟩
        dsimp only
        rw [getElem_set_if]
        split
        · rename_i x
          subst x
          have hw : imageDomainOf s.media.regions k = true := imageDomainOf_iff.2 ⟨g, hg, hi.symm⟩
          have := h4
          simp only [hw, Bool.true_and, Bool.not_eq_true', Bool.and_eq_false_iff, not_or, Bool.not_eq_false] at this
          simpa [Bool.and_eq_true, and_assoc] using this
        · exact hv
  · split at h
    · unfold State.writeMgmt at h
      split at h
      · exact absurd h (by simp)
      · rename_i i hi
        split at h
        · rename_i hc
          simp only [Except.ok.injEq] at h
          subst h
          simp only [Bool.and_eq_true, Bool.not_eq_true'] at hc
          refine Sound.setDom s _ fun b => ⟨b.vids, managementOk_iff.1 hc.1, fun a r ha hr => ?_, b.images⟩
          obtain ⟨i2, h1, h2, h3⟩ := b.rewrites a r ha hr
          refine ⟨i2, h1, h2, fun x => ?_⟩
          dsimp only at x
          have : rewritesTo s.steer i = true := rewritesTo_iff.2 ⟨a, ha, by rw [hr, ← x, h1]⟩
          rw [hc.2] at this
          exact absurd this (by simp)
        · exact absurd h (by simp)
    · exact absurd h (by simp)

end Sys2Proof.Machine
end

