-- ==== Sys2Proof/Laws/SoundTables.lean ====
section
/-! SUPPORT. What a write of each table but DOMAIN keeps of the properties of Safety. -/

namespace Sys2Proof.Machine

namespace Sound

theorem writeSteering {s t : State} {i : Nat} {e : List Byte} (h : s.writeSteering i e = .ok t) : Sound s t := by
  have put : ∀ (k : Fin 64) (x : Steering),
      (x.valid = true → ∀ r, x.rewrite = some r → ∃ i : Fin 16, i.val = r ∧ (s.dom.entries[i]).valid = true ∧ i ≠ s.dom.mgmt) →
      Sound s (s.setSteering k x) := fun k x hx =>
    ⟨rfl, fun h => { h with }, fun h => h, fun h => { h with }, fun h => h,
      fun b => { b with
        rewrites := fun a r ha hr => by
          simp only [State.setSteering_steer] at ha hr
          rw [getElem_set_if] at ha hr
          split at ha
          · rename_i y; subst y; simp only [if_true] at hr; exact hx ha r hr
          · rename_i y; simp only [y, if_false] at hr; exact b.rewrites a r ha hr },
      fun h => h⟩
  unfold State.writeSteering at h
  split at h
  · exact absurd h (by simp)
  · rename_i k _
    dsimp only at h
    split at h
    · rename_i hv
      split at h
      · exact absurd h (by simp)
      · rename_i hr
        simp only [Except.ok.injEq] at h
        subst h
        refine put _ _ fun _ r hw => ?_
        dsimp only at hw
        unfold State.steeringRefusal at hr
        rw [hw] at hr
        split at hr
        · exact absurd hr (by simp)
        split at hr
        · exact absurd hr (by simp)
        split at hr
        · exact absurd hr (by simp)
        split at hr
        · exact absurd hr (by simp)
        dsimp only at hr
        split at hr
        · exact absurd hr (by simp)
        · rename_i i2 hi2
          split at hr
          · exact absurd hr (by simp)
          · rename_i hn
            simp only [Option.filter_eq_some_iff] at hi2
            exact ⟨i2, idx?_some hi2.1, hi2.2, hn⟩
    · rename_i hv
      simp only [Except.ok.injEq] at h
      subst h
      exact put _ _ fun x => absurd x hv

theorem writePcpMap {s t : State} {i : Nat} {e : List Byte} (h : s.writePcpMap i e = .ok t) : Sound s t := by
  unfold State.writePcpMap at h
  split at h
  · exact absurd h (by simp)
  · simp only [Except.ok.injEq] at h
    subst h
    exact ⟨rfl, fun h => { h with }, fun h => h, fun h => { h with }, fun h => h, fun h => { h with }, fun h => h⟩

theorem writePortSettings {s t : State} {p : Port} {e : List Byte} (h : s.writePortSettings p e = .ok t) : Sound s t := by
  unfold State.writePortSettings at h
  dsimp only at h
  split at h
  · rename_i hr
    simp only [Except.ok.injEq] at h
    subst h
    exact ⟨rfl, fun h => { h with }, fun h => h,
      fun b =>
        have hp : ∀ q, 1 ≤ ((s.ports.set.set p ⟨fieldAt 0 2 e, clampClass (fieldAt 2 1 e)⟩).get q).pvid ∧
            ((s.ports.set.set p ⟨fieldAt 0 2 e, clampClass (fieldAt 2 1 e)⟩).get q).pvid ≤ 4094 := by
          intro q
          rw [PerPort.get_set_if]
          split
          · exact inRange_iff.1 hr
          · exact b.pvid q
        { b with pvid := hp },
      fun h => h, fun h => { h with }, fun h => h⟩
  · exact absurd h (by simp)

theorem writePort {s t : State} {i : Nat} {e : List Byte} (h : s.writePort i e = .ok t) : Sound s t := by
  unfold State.writePort at h
  split at h
  · exact writePortSettings h
  · exact writePortSettings h
  · split at h
    · exact absurd h (by simp)
    · simp only [Except.ok.injEq] at h
      subst h
      exact ⟨rfl, fun h => { h with }, fun h => h, fun h => { h with }, fun h => h, fun h => { h with }, fun h => h⟩
  · exact absurd h (by simp)

theorem retestIf (s : State) (b : Bool) (sh : Shaper) : Sound s (s.retestIf b sh) := by
  unfold State.retestIf
  split
  · exact (Keeps.retestWaiting s sh).sound
  · exact refl s

theorem writeMeter {s t : State} {i : Nat} {e : List Byte} (h : s.writeMeter i e = .ok t) : Sound s t := by
  unfold State.writeMeter at h
  split at h
  · rename_i k _
    unfold State.writeMeterEntry at h
    dsimp only at h
    split at h
    · exact absurd h (by simp)
    · simp only [Except.ok.injEq] at h
      subst h
      refine ((Keeps.setMeter s k _ fun _ => ?_).sound.trans (retestIf ..)).trans (retestIf ..)
      refine ⟨Nat.min_le_left _ _, ?_, ?_, Nat.le_refl _⟩
      · exact (clamp_range 1542 1048575 _ (by decide)).1
      · exact (clamp_range 1542 1048575 _ (by decide)).2
  · split at h
    · unfold State.writeMeterSettings at h
      split at h
      · simp only [Except.ok.injEq] at h
        subst h
        refine Sound.trans (Sound.trans ?_ (retestIf ..)) (retestIf ..)
        exact ⟨rfl, fun h => { h with }, fun h => h, fun h => { h with }, fun h => h, fun h => { h with }, fun h => h⟩
      · exact absurd h (by simp)
    · exact absurd h (by simp)

/-- A change of one egress side whose frames, limits and weights stay within range. -/
theorem onEgress (s : State) (p : Port) (f : Egress → Egress)
    (h : ∀ k : Fin 4, ((f (s.sched.port.get p)).queues[k]).frames = ((s.sched.port.get p).queues[k]).frames)
    (hs : (∀ k : Fin 4, 16 ≤ ((s.sched.port.get p).queues[k]).cellLimit ∧ ((s.sched.port.get p).queues[k]).cellLimit ≤ 4096 ∧
        1 ≤ ((s.sched.port.get p).queues[k]).weight ∧ ((s.sched.port.get p).queues[k]).weight ≤ 15) →
      ∀ k : Fin 4, 16 ≤ ((f (s.sched.port.get p)).queues[k]).cellLimit ∧ ((f (s.sched.port.get p)).queues[k]).cellLimit ≤ 4096 ∧
        1 ≤ ((f (s.sched.port.get p)).queues[k]).weight ∧ ((f (s.sched.port.get p)).queues[k]).weight ≤ 15) :
    Sound s (s.onEgress p f) :=
  ⟨rfl,
    fun c =>
      have hq : ∀ (q : Port) (k : Fin 4), (((s.onEgress p f).sched.port.get q).queues[k]).frames.length ≤ 256 := by
        intro q k
        simp only [State.onEgress_sched_port, PerPort.get_set_if]
        split
        · rw [h k]; exact c.classQueue p k
        · exact c.classQueue q k
      { c with classQueue := hq },
    fun c => c,
    fun c =>
      have hq : ∀ (q : Port) (k : Fin 4), 16 ≤ (((s.onEgress p f).sched.port.get q).queues[k]).cellLimit ∧
          (((s.onEgress p f).sched.port.get q).queues[k]).cellLimit ≤ 4096 ∧
          1 ≤ (((s.onEgress p f).sched.port.get q).queues[k]).weight ∧
          (((s.onEgress p f).sched.port.get q).queues[k]).weight ≤ 15 := by
        intro q k
        simp only [State.onEgress_sched_port, PerPort.get_set_if]
        split
        · exact hs (fun k => c.queues p k) k
        · exact c.queues q k
      { c with queues := hq },
    fun c => c, fun h => { h with }, fun h => h⟩

theorem writeClassQueue (s : State) (p : Port) (k : Fin 4) (e : List Byte) : Sound s (s.writeClassQueue p k e) := by
  unfold State.writeClassQueue
  refine onEgress s p _ (fun j => ?_) fun b j => ?_
  · dsimp only; rw [getElem_set_if]; split
    · rename_i x; rw [x]
    · rfl
  · dsimp only; rw [getElem_set_if]; split
    · exact ⟨(clamp_range 16 4096 _ (by decide)).1, (clamp_range 16 4096 _ (by decide)).2,
        (clamp_range 1 15 _ (by decide)).1, (clamp_range 1 15 _ (by decide)).2⟩
    · exact b j

theorem setMode (s : State) (p : Port) (m : SchedMode) : Sound s (s.onEgress p fun x => x.setMode m) := by
  refine onEgress s p _ (fun j => ?_) fun b j => ?_
  · unfold Egress.setMode; split
    · rfl
    · simp
  · unfold Egress.setMode; split
    · exact b j
    · simpa using b j

theorem writeMode {s t : State} {p : Port} {e : List Byte} (h : s.writeMode p e = .ok t) : Sound s t := by
  unfold State.writeMode at h
  split at h
  · simp only [Except.ok.injEq] at h; subst h; exact setMode ..
  · simp only [Except.ok.injEq] at h; subst h; exact setMode ..
  · exact absurd h (by simp)

theorem writeQueue {s t : State} {i : Nat} {e : List Byte} (h : s.writeQueue i e = .ok t) : Sound s t := by
  unfold State.writeQueue at h
  split at h
  · simp only [Except.ok.injEq] at h; subst h; exact writeClassQueue ..
  · simp only [Except.ok.injEq] at h; subst h; exact writeClassQueue ..
  · split at h
    · exact writeMode h
    · exact writeMode h
    · simp only [Except.ok.injEq] at h
      subst h
      exact ⟨rfl, fun h => { h with }, fun h => h, fun h => { h with }, fun h => h, fun h => { h with }, fun h => h⟩
    · exact absurd h (by simp)

theorem writePool {s t : State} {i : Nat} {e : List Byte} (h : s.writePool i e = .ok t) : Sound s t := by
  unfold State.writePool at h
  split at h
  · simp only [Except.ok.injEq] at h
    subst h
    refine trans ?_ (Keeps.trimExcess _).sound
    exact ⟨rfl, fun h => { h with }, fun h => h, fun h => { h with pool := ⟨Nat.min_le_left _ _, Nat.min_le_left _ _⟩ },
      fun h => h, fun h => { h with }, fun h => h⟩
  · exact absurd h (by simp)

/-! ### Operators -/

theorem cascade (s : State) (i : Fin 8) : Keeps s (s.cascade i) := by
  unfold State.cascade
  dsimp only
  have q : ∀ t : State, Keeps t (t.onScript fun e => { e with queue := e.queue.filter fun r => r.source != .operator i }) :=
    fun t => Keeps.onScript t _ (fun b => Nat.le_trans (List.length_filter_le ..) b) (fun c hc h => h c hc) rfl id
  split
  · exact ((Keeps.removeWatcherOf s i).trans (Keeps.changeOwner ..)).trans (q _)
  · exact (Keeps.removeWatcherOf s i).trans (q _)

theorem writeOperator {s t : State} {i : Nat} {e : List Byte} (h : s.writeOperator i e = .ok t) : Sound s t := by
  unfold State.writeOperator at h
  split at h
  · exact absurd h (by simp)
  · rename_i k _
    dsimp only at h
    split at h
    · exact absurd h (by simp)
    · rename_i hr
      simp only [Except.ok.injEq] at h
      subst h
      refine trans ?_ (cascade ..).sound
      refine ⟨rfl, fun h => { h with }, fun h => h, fun h => { h with }, fun h => h, fun h => { h with }, fun _ => ?_⟩
      unfold State.operatorRefusal at hr
      split at hr
      · exact absurd hr (by simp)
      split at hr
      · exact absurd hr (by simp)
      · rename_i ha
        exact someAdmin_iff.1 (by simpa using ha)

/-! ### Console -/

theorem writeLineSettings {s t : State} {e : List Byte} (h : s.writeLineSettings e = .ok t) : Sound s t := by
  unfold State.writeLineSettings at h
  split at h
  · exact absurd h (by simp)
  · rename_i l hl
    simp only [Except.ok.injEq] at h
    subst h
    have hr : (32 ≤ l.div ∧ l.div ≤ 65535) ∧ (l.idleLimit = 0 ∨ (10 ≤ l.idleLimit ∧ l.idleLimit ≤ 3600)) := by
      unfold readLineSettings at hl
      dsimp only at hl
      split at hl
      · exact absurd hl (by simp)
      · split at hl
        · simp only [Option.some.injEq] at hl
          subst hl
          refine ⟨clamp_range _ _ _ (by decide), ?_⟩
          dsimp only [clampIdle]
          split
          · exact .inl rfl
          · exact .inr (clamp_range 10 3600 _ (by decide))
        · exact absurd hl (by simp)
    have set : ∀ t : State, Sound t (t.onLine fun x => { x with set := l, ctsCounted := x.ctsCounted && l.rtsCts }) := fun t =>
      ⟨rfl, fun h => { h with }, fun h => h, fun h => { h with div := hr.1, idle := hr.2 }, fun h => h, fun h => { h with },
        fun h => h⟩
    refine trans ?_ (Keeps.txNext _).sound
    split
    · exact (Keeps.abandonMeasurement s).sound.trans (set _)
    · exact ((Keeps.abandonMeasurement s).sound.trans (set _)).trans (Keeps.releaseIfIdle _).sound

theorem writeHistorySettings (s : State) (e : List Byte) : Sound s (s.writeHistorySettings e) := by
  unfold State.writeHistorySettings
  refine trans ?_ (Keeps.pump _).sound
  have set : Sound s (s.onHist fun h => { h with threshold := clamp 1 1024 (fieldAt 0 2 e), delay := clamp 1 1000 (fieldAt 2 2 e) }) :=
    ⟨rfl, fun h => { h with }, fun h => h,
      fun h => { h with push := ⟨(clamp_range 1 1024 _ (by decide)).1, (clamp_range 1 1024 _ (by decide)).2,
        (clamp_range 1 1000 _ (by decide)).1, (clamp_range 1 1000 _ (by decide)).2⟩ },
      fun h => h, fun h => { h with }, fun h => h⟩
  exact set.trans (Keeps.judgeAll _ s.clock.now).sound

theorem writeConsole {s t : State} {i : Nat} {e : List Byte} (h : s.writeConsole i e = .ok t) : Sound s t := by
  unfold State.writeConsole at h
  split at h
  · exact writeLineSettings h
  · simp only [Except.ok.injEq] at h; subst h; exact writeHistorySettings ..
  · exact absurd h (by simp)

theorem writePattern {s t : State} {i : Nat} {e : List Byte} (h : s.writePattern i e = .ok t) : Sound s t := by
  unfold State.writePattern at h
  split at h
  · exact absurd h (by simp)
  · dsimp only at h
    split at h
    · split at h
      · exact absurd h (by simp)
      · simp only [Except.ok.injEq] at h; subst h; exact (Keeps.setPattern ..).sound
    · simp only [Except.ok.injEq] at h; subst h; exact (Keeps.setPattern ..).sound

/-! ### Media -/

theorem writeRegion {s t : State} {i : Nat} {e : List Byte} (h : s.writeRegion i e = .ok t) : Sound s t := by
  have put : ∀ (g : Fin 4) (c : RegionConfig),
      (c.valid = true → ∃ i : Fin 16, i.val = c.domain ∧ (s.dom.entries[i]).valid = true ∧
        (s.dom.entries[i]).members.u = true ∧ (s.dom.entries[i]).members.m = true) →
      Sound s (s.onRegion g fun r => { r with cfg := c, sectors := 0, writable := false, failures := 0 }) := fun g c hc =>
    ⟨rfl, fun h => { h with }, fun h => h, fun h => { h with }, fun h => h,
      fun b => { b with
        images := fun k hk => by
          dsimp only [State.onRegion, State.onMedia] at hk ⊢
          rw [getElem_set_if] at hk ⊢
          split
          · rename_i x; simp only [x, if_true] at hk; exact hc hk
          · rename_i x; simp only [x, if_false] at hk; exact b.images k hk },
      fun h => h⟩
  unfold State.writeRegion at h
  split at h
  · exact absurd h (by simp)
  · rename_i g _
    dsimp only at h
    split at h
    · exact absurd h (by simp)
    · split at h
      · split at h
        · exact absurd h (by simp)
        · rename_i hr
          simp only [Except.ok.injEq] at h
          subst h
          refine put g { readRegionConfig e with holdMs := clamp 10 2000 (readRegionConfig e).holdMs } fun _ => ?_
          unfold State.regionRefusal at hr
          split at hr
          · exact absurd hr (by simp)
          split at hr
          · exact absurd hr (by simp)
          split at hr
          · exact absurd hr (by simp)
          · rename_i i2 hi2
            split at hr
            · rename_i hm
              simp only [Option.filter_eq_some_iff] at hi2
              simp only [Bool.and_eq_true] at hm
              exact ⟨i2, idx?_some hi2.1, hi2.2, hm⟩
            · exact absurd hr (by simp)
      · rename_i hv
        simp only [Except.ok.injEq] at h
        subst h
        exact put g (readRegionConfig e) fun x => absurd x hv

theorem writeMediaParams {s t : State} {i : Nat} {e : List Byte} (h : s.writeMediaParams i e = .ok t) : Sound s t := by
  unfold State.writeMediaParams at h
  split at h
  · simp only [Except.ok.injEq] at h
    subst h
    exact ⟨rfl, fun h => { h with }, fun h => h,
      fun h => { h with transfers := ⟨(clamp_range 20 2000 _ (by decide)).1, (clamp_range 20 2000 _ (by decide)).2,
        Nat.min_le_left _ _⟩ }, fun h => h, fun h => { h with }, fun h => h⟩
  · exact absurd h (by simp)

/-! ### Power -/

theorem writeLine {s t : State} {i : Nat} {e : List Byte} (h : s.writeLine i e = .ok t) : Sound s t := by
  unfold State.writeLine at h
  split at h
  · exact absurd h (by simp)
  · split at h
    · exact absurd h (by simp)
    · split at h
      · exact absurd h (by simp)
      · split at h
        · exact absurd h (by simp)
        · rename_i k _ _ c _ _
          simp only [Except.ok.injEq] at h
          subst h
          refine ⟨rfl, fun h => { h with }, fun h => h, fun b => { b with guard := ?_ }, fun h => h, fun h => { h with }, fun h => h⟩
          dsimp only [State.onPower]
          split
          · exact Nat.min_le_left _ _
          · exact b.guard

theorem writeSense {s t : State} {i : Nat} {e : List Byte} (h : s.writeSense i e = .ok t) : Sound s t := by
  unfold State.writeSense at h
  split at h
  · exact absurd h (by simp)
  · rename_i k _
    simp only [Except.ok.injEq] at h
    subst h
    refine ⟨rfl, fun h => { h with }, fun h => h, fun b => { b with debounce := fun j => ?_ }, fun h => h, fun h => { h with },
      fun h => h⟩
    dsimp only [State.setSense, State.onPower]
    rw [getElem_set_if]
    split
    · exact Nat.min_le_left _ _
    · exact b.debounce j

theorem writeSenseTrigger {s t : State} {i : Nat} {e : List Byte} (h : s.writeSenseTrigger i e = .ok t) : Sound s t := by
  have put : ∀ (n : Fin 8) (x : Trigger), Sound s (s.onPower fun p => { p with triggers := p.triggers.set n x }) := fun n x =>
    (Keeps.onPower s _ rfl fun _ => rfl).sound
  unfold State.writeSenseTrigger at h
  split at h
  · exact absurd h (by simp)
  · dsimp only at h
    split at h
    · split at h
      · exact absurd h (by simp)
      · simp only [Except.ok.injEq] at h; subst h; exact put ..
    · simp only [Except.ok.injEq] at h; subst h; exact put ..

theorem writeScriptDir {s t : State} {i : Nat} {e : List Byte} (h : s.writeScriptDir i e = .ok t) : Sound s t := by
  unfold State.writeScriptDir at h
  split at h
  · exact absurd h (by simp)
  · rename_i k _
    dsimp only at h
    split at h
    · exact absurd h (by simp)
    · rename_i hf
      simp only [Except.ok.injEq] at h
      subst h
      refine ⟨rfl, fun h => { h with }, fun h => h, fun b => { b with dir := fun j => ?_ }, fun h => h, fun h => { h with },
        fun h => h⟩
      dsimp only [State.onScript]
      rw [getElem_set_if]
      split
      · exact ⟨Nat.not_lt.1 hf, Nat.min_le_left _ _⟩
      · exact b.dir j

theorem writeScriptStep {s t : State} {i : Nat} {e : List Byte} (h : s.writeScriptStep i e = .ok t) : Sound s t := by
  unfold State.writeScriptStep at h
  split at h
  · exact absurd h (by simp)
  · dsimp only at h
    split at h
    · exact absurd h (by simp)
    · simp only [Except.ok.injEq] at h
      subst h
      exact (Keeps.onScript s _ id (fun c hc h => h c hc) rfl id).sound

/-- Every table write that passes keeps the properties of Safety. -/
theorem writeEntry {s t : State} {id : TableId} {i : Nat} {e : List Byte} (h : s.writeEntry id i e = .ok t) : Sound s t := by
  cases id
  · exact Sound.writeDomain h
  · exact writeSteering h
  · exact writePcpMap h
  · exact writePort h
  · exact writeMeter h
  · exact writeQueue h
  · exact writePool h
  · exact writeOperator h
  · exact writeConsole h
  · exact writePattern h
  · exact writeRegion h
  · exact writeMediaParams h
  · exact writeLine h
  · exact writeSense h
  · exact writeSenseTrigger h
  · exact writeScriptDir h
  · exact writeScriptStep h

end Sound

end Sys2Proof.Machine
end

