-- ==== Sys2Proof/Laws/SoundLoader.lean ====
section
/-! SUPPORT. What the image, the start and the restart keep of the properties of Safety. -/

namespace Sys2Proof.Machine

namespace Sound

/-! ### The image -/

/-- A domain table that passes the tests made on it as a whole has the protections (R171). -/
theorem domainsOk_sound {s : State} {d : Domains} (h : s.domainsOk d = true) (b : DomainsSound s) :
    DomainsSound { s with dom := d } := by
  unfold State.domainsOk at h
  simp only [Bool.and_eq_true, List.all_eq_true, Bool.or_eq_true, Bool.not_eq_true', bne_iff_ne, beq_iff_eq] at h
  obtain ⟨⟨⟨⟨⟨h1, h2⟩, h3⟩, h4⟩, h5⟩, h6⟩ := h
  refine ⟨⟨fun i hv => ?_, fun i j hij hi hj => ?_⟩, managementOk_iff.1 h3, fun k r hk hr => ?_, fun g hg => ?_⟩
  · rcases h1 i (List.mem_finRange i) with x | x
    · rw [hv] at x; exact absurd x (by simp)
    · exact inRange_iff.1 x
  · rcases h2 i (List.mem_finRange i) j (List.mem_finRange j) with ((x | x) | x) | x
    · exact absurd x hij
    · rw [hi] at x; exact absurd x (by simp)
    · rw [hj] at x; exact absurd x (by simp)
    · exact x
  · obtain ⟨i, hi, _, _⟩ := b.rewrites k r hk hr
    have hw : rewritesTo s.steer i = true := rewritesTo_iff.2 ⟨k, hk, by rw [hi]; exact hr⟩
    refine ⟨i, hi, ?_, fun x => ?_⟩
    · rcases h6 i (List.mem_finRange i) with y | y
      · exact y
      · rw [hw] at y; exact absurd y (by simp)
    · dsimp only at x
      rw [← x, hw] at h4; exact absurd h4 (by simp)
  · obtain ⟨i, hi, _⟩ := b.images g hg
    have hw : imageDomainOf s.media.regions i = true := imageDomainOf_iff.2 ⟨g, hg, hi.symm⟩
    refine ⟨i, hi, ?_⟩
    rcases h5 i (List.mem_finRange i) with y | y
    · rw [hw] at y; exact absurd y (by simp)
    · exact and_assoc.1 y

theorem applyRecord {s t : State} {r : ImageRecord} (h : s.applyRecord r = some t) : Sound s t := by
  unfold State.applyRecord at h
  split at h
  · exact absurd h (by simp)
  · split at h
    · split at h
      · rename_i hw
        simp only [Option.some.injEq] at h
        subst h
        exact writeEntry hw
      · exact absurd h (by simp)
    · exact absurd h (by simp)

theorem count {l : Load} {n : Nat} {x : Option State} (h : ∀ t, x = some t → Sound l.state t) :
    Sound l.state (l.count n x).state := by
  unfold Load.count
  split
  · exact refl _
  · exact h _ rfl

theorem loadDomains (rs : List ImageRecord) (l : Load) : Sound l.state (l.domains rs).state := by
  unfold Load.domains
  dsimp only
  refine count (l := { l with domainsMet := true }) fun t ht => ?_
  simp only [Option.map_eq_some_iff, Option.filter_eq_some_iff] at ht
  obtain ⟨d, ⟨_, hd⟩, rfl⟩ := ht
  exact setDom _ d fun b => domainsOk_sound hd b

theorem loadStep (rs : List ImageRecord) (l : Load) (r : ImageRecord) : Sound l.state (l.step rs r).state := by
  unfold Load.step
  split
  · split
    · exact refl _
    · exact loadDomains ..
  · split
    · exact refl _
    · exact count fun _ h => applyRecord h

/-- Applying the image keeps the properties of Safety (R171). -/
theorem applyImage (s : State) : Sound s s.applyImage.state := by
  unfold State.applyImage
  dsimp only
  generalize imageWalk _ _ = w
  have : ∀ (rs xs : List ImageRecord) (l : Load), Sound l.state (xs.foldl (Load.step rs) l).state := by
    intro rs xs
    induction xs with
    | nil => intro l; exact refl _
    | cons x xs ih => intro l; exact (loadStep rs l x).trans (ih _)
  exact this w.1 w.1 ⟨0, w.2, false, s⟩

theorem loadTables (s : State) (a : EepromAck) : Sound s (s.loadTables a) := by
  unfold State.loadTables
  split
  · exact (applyImage s).trans (Keeps.onLoader ..).sound
  · exact (Keeps.onLoader ..).sound

/-! ### The factory tables -/

theorem factoryDomains : DomainVids Factory.domains ∧ ManagementProtected Factory.domains := by
  refine ⟨⟨?_, ?_⟩, ?_, ?_, ?_, ?_⟩ <;> decide

theorem factoryEgress : (∀ k : Fin 4, ((Factory.egress.queues[k]).frames.length ≤ 256)) ∧
    ∀ k : Fin 4, 16 ≤ (Factory.egress.queues[k]).cellLimit ∧ (Factory.egress.queues[k]).cellLimit ≤ 4096 ∧
      1 ≤ (Factory.egress.queues[k]).weight ∧ (Factory.egress.queues[k]).weight ≤ 15 := by
  constructor <;> decide

theorem factoryOperator : ((Factory.operators[(0 : Fin 8)]).valid = true) ∧ (Factory.operators[(0 : Fin 8)]).privs.admin = true := by
  constructor <;> decide

theorem factoryMeters (now : Time) (i : Fin 16) : ((Factory.meters now).bank[i]).InRange := by
  simp only [Factory.meters, Fin.getElem_fin, Vector.getElem_replicate]
  exact ⟨(by decide : 0 ≤ 125000), (by decide : 1542 ≤ 1542), (by decide : 1542 ≤ 1048575), (by decide : 1542000 ≤ 1542 * 1000)⟩

theorem factoryTables (s : State) : Sound s s.factoryTables where
  pending := rfl
  caps h := { h with classQueue := fun p k => by cases p <;> exact factoryEgress.1 k }
  meters _ i := factoryMeters _ i
  settings _ :=
    { pvid := fun p => by cases p <;> exact ⟨Nat.le_of_ble_eq_true rfl, Nat.le_of_ble_eq_true rfl⟩
      pool := ⟨(by decide : 1024 ≤ 4096), (by decide : 2048 ≤ 4096)⟩
      queues := fun p k => by cases p <;> exact factoryEgress.2 k
      div := ⟨(by decide : 32 ≤ 868), (by decide : 868 ≤ 65535)⟩
      idle := .inr ⟨(by decide : 10 ≤ 900), (by decide : 900 ≤ 3600)⟩
      push := ⟨(by decide : 1 ≤ 256), (by decide : 256 ≤ 1024), (by decide : 1 ≤ 20), (by decide : 20 ≤ 1000)⟩
      transfers := ⟨(by decide : 20 ≤ 200), (by decide : 200 ≤ 2000), (by decide : 2 ≤ 3)⟩
      guard := (by decide : 10 ≤ 600)
      debounce := fun k => by
        show ((Vector.ofFn _ : Vector SenseLine 4)[k]).debounce ≤ 255
        simp [Factory.senseLine]
      dir := fun i => by
        show ((Vector.replicate 16 Factory.scriptDir)[i]).first ≤ 255 ∧ ((Vector.replicate 16 Factory.scriptDir)[i]).prio ≤ 7
        simp [Factory.scriptDir] }
  hold h := h
  domains _ :=
    { vids := factoryDomains.1
      management := factoryDomains.2
      rewrites := fun k r hk _ => by
        have : ((Vector.replicate 64 Factory.steeringEntry)[k]).valid = true := hk
        simp [Factory.steeringEntry] at this
      images := fun g hg => by
        have : ((Vector.ofFn fun g : Fin 4 => { s.media.regions[g] with cfg := Factory.regionConfig })[g]).cfg.valid = true := hg
        simp [Factory.regionConfig] at this }
  admin _ := ⟨0, factoryOperator.1, factoryOperator.2⟩

/-! ### The start -/

/-- The part at power-on has the properties of Safety, whatever it was before. -/
theorem powerOn (s : State) (ph : Phase) (st : Straps) (p : Pins) (e : Eeprom) :
    Sound s (State.powerOn ph st p e s.pending) where
  pending := rfl
  caps _ :=
    { agentInbox := Nat.zero_le _, mediaInbox := Nat.zero_le _, agentOut := Nat.zero_le _, mediaOut := Nat.zero_le _
      classQueue := fun p k => by cases p <;> exact factoryEgress.1 k
      ring := Nat.zero_le _, marks := Nat.zero_le _, notices := Nat.zero_le _, fifo := Nat.zero_le _, held := Nat.zero_le _
      requests := Nat.zero_le _, stack := fun c hc => absurd hc (by simp [State.powerOn, ScriptEngine.powerOn]) }
  meters _ i := factoryMeters _ i
  settings _ :=
    { pvid := fun p => by cases p <;> exact ⟨Nat.le_of_ble_eq_true rfl, Nat.le_of_ble_eq_true rfl⟩
      pool := ⟨(by decide : 1024 ≤ 4096), (by decide : 2048 ≤ 4096)⟩
      queues := fun p k => by cases p <;> exact factoryEgress.2 k
      div := ⟨(by decide : 32 ≤ 868), (by decide : 868 ≤ 65535)⟩
      idle := .inr ⟨(by decide : 10 ≤ 900), (by decide : 900 ≤ 3600)⟩
      push := ⟨(by decide : 1 ≤ 256), (by decide : 256 ≤ 1024), (by decide : 1 ≤ 20), (by decide : 20 ≤ 1000)⟩
      transfers := ⟨(by decide : 20 ≤ 200), (by decide : 200 ≤ 2000), (by decide : 2 ≤ 3)⟩
      guard := (by decide : 10 ≤ 600)
      debounce := fun k => by
        show ((Vector.replicate 4 Factory.senseLine)[k]).debounce ≤ 255
        simp [Factory.senseLine]
      dir := fun i => by
        show ((Vector.replicate 16 Factory.scriptDir)[i]).first ≤ 255 ∧ ((Vector.replicate 16 Factory.scriptDir)[i]).prio ≤ 7
        simp [Factory.scriptDir] }
  hold _ h := absurd h (by simp [State.powerOn, Ports.powerOn])
  domains _ :=
    { vids := factoryDomains.1
      management := factoryDomains.2
      rewrites := fun k r hk _ => by
        have : ((Vector.replicate 64 Factory.steeringEntry)[k]).valid = true := hk
        simp [Factory.steeringEntry] at this
      images := fun g hg => by
        have : ((Vector.replicate 4 Factory.region)[g]).cfg.valid = true := hg
        simp [Factory.region, Factory.regionConfig] at this }
  admin _ := ⟨0, factoryOperator.1, factoryOperator.2⟩

theorem beginSensing (s : State) (k : Fin 4) : Keeps s (s.beginSensing k) := by
  unfold State.beginSensing
  dsimp only
  split
  · exact Keeps.establish ..
  · exact Keeps.setSense s k _ rfl

theorem takePhy (s : State) (p : Port) : Keeps s (s.takePhy p) := by
  unfold State.takePhy
  split
  · exact Keeps.refl s
  · exact (Keeps.setLink ..).trans (Keeps.onCnt ..)

theorem autoAttachAll (s : State) : Keeps s s.autoAttachAll := by
  unfold State.autoAttachAll
  refine Keeps.foldl _ (fun t g => ?_) _ s
  unfold State.autoAttach
  split
  · exact Keeps.beginAttach ..
  · exact Keeps.refl t

theorem driveIdle (s : State) : Keeps s (s.onPower PowerUnit.driveIdle) := Keeps.onPower s _ rfl fun _ => rfl

/-- Completing the start keeps the properties of Safety (R172). -/
theorem completeStart (s : State) : Keeps s s.completeStart := by
  unfold State.completeStart
  dsimp only
  have h2 := (driveIdle s).trans (Keeps.foldl _ beginSensing (List.finRange 4) _)
  have h4 : ∀ t : State, Keeps t (t.onLine fun l => { l with rts := true }) := fun t => Keeps.onLineSame t _ rfl rfl
  have h3 := ((h2.trans (takePhy _ .u)).trans (takePhy _ .s)).trans (h4 _)
  exact ((h3.trans (Keeps.setPhase ..)).trans (autoAttachAll _)).trans (Keeps.onLoader ..)

end Sound

end Sys2Proof.Machine
end

