-- ==== Sys2Proof/Laws/SoundRecords.lean ====
section
/-! SUPPORT. What executing a record, reading the statistics and a restart keep of the properties of Safety. -/

namespace Sys2Proof.Machine

namespace Sound

theorem runRecord (s : State) (c : Instr) (h : Rec → State → Answer) (H : ∀ r t, Sound t (h r t).state) :
    Sound s (s.runRecord c h) := by
  unfold State.runRecord
  split
  · exact .refl s
  · rename_i r _
    refine ((Keeps.popRecord s).sound.trans ?_).trans (Keeps.replied _ r _ _).sound
    unfold State.perform
    split
    · exact .refl _
    · exact H _ _

theorem runKeeps (s : State) (c : Instr) (h : Rec → State → Answer) (H : ∀ r t, Keeps t (h r t).state) :
    Sound s (s.runRecord c h) := runRecord s c h fun r t => (H r t).sound

theorem tableWrite (id : TableId) (r : Rec) (s : State) : Sound s (s.tableWrite id r).state := by
  unfold State.tableWrite
  split
  · exact .refl s
  · split
    · exact .refl s
    · split
      · exact .refl s
      · rename_i h; exact writeEntry h

theorem runWrite (s : State) (c : Instr) (id : TableId) : Sound s (s.runRecord c (State.tableWrite id)) :=
  runRecord s c _ fun r t => tableWrite id r t

theorem consoleBaud (r : Rec) (s : State) : Keeps s (s.consoleBaud r).state := by
  unfold State.consoleBaud
  dsimp only
  split
  · exact .refl s
  · exact (Keeps.abandonMeasurement s).trans (Keeps.setDiv _ _ (divOfBaud_range _).1 (divOfBaud_range _).2)

theorem renewOwner (s : State) : Keeps s s.renewOwner := Keeps.onLineSame s _ rfl rfl

theorem flushFifo (s : State) : Keeps s s.flushFifo := by
  refine Keeps.onLine s _ ?_ rfl
  simp

theorem claimForced (s : State) : Keeps s s.claimForced.state := by
  unfold State.claimForced
  exact (flushFifo s).trans (Keeps.changeOwner ..)

theorem claim (b : Bool) (s : State) : Keeps s (s.claim b).state := by
  unfold State.claim
  repeat' split
  all_goals first | exact .refl s | exact claimForced s | exact Keeps.changeOwner .. | exact renewOwner s

theorem appendFifo (s : State) (xs : List FifoItem) (h : xs.length ≤ s.fifoRoom) : Keeps s (s.appendFifo xs) := by
  unfold State.appendFifo
  refine Keeps.trans (Keeps.onLine s _ ?_ rfl) (Keeps.txNext _)
  have : s.fifoRoom = 256 - s.line.fifo.length := rfl
  simp only [List.length_append] <;> omega

theorem consoleType (r : Rec) (s : State) : Keeps s (s.consoleType r).state := by
  unfold State.consoleType
  dsimp only
  split
  · refine ((renewOwner s).trans (Keeps.onLineCnt _ _)).trans (appendFifo _ _ ?_)
    simp only [List.length_map, List.length_take]
    have : ((s.renewOwner.onLineCnt fun c => { c with typeShort := c.typeShort + BitVec.ofNat 32 (r.body.length - min r.body.length s.fifoRoom) }).fifoRoom) = s.fifoRoom := rfl
    rw [this]; omega
  · exact .refl s

theorem consoleBreak (r : Rec) (s : State) : Keeps s (s.consoleBreak r).state := by
  unfold State.consoleBreak
  dsimp only
  split
  · refine (renewOwner s).trans (appendFifo _ _ ?_)
    have : s.renewOwner.fifoRoom = s.fifoRoom := rfl
    rw [this]
    split <;> simp <;> omega
  · exact .refl s

theorem consoleRelease (r : Rec) (s : State) : Keeps s (s.consoleRelease r).state := by
  unfold State.consoleRelease
  repeat' split
  all_goals first | exact .refl s | exact Keeps.changeOwner ..

theorem consoleArm (r : Rec) (s : State) : Keeps s (s.consoleArm r).state := by
  unfold State.consoleArm
  split
  · exact .refl s
  · exact Keeps.setPattern ..

theorem setWatcher (s : State) (w : Fin 4) (a b : Bool) (x : Offset) : Keeps s (s.setWatcher w a b x) := by
  unfold State.setWatcher
  refine Keeps.trans (Keeps.onHist s _ ?_ ?_ ?_ ?_ ?_) (Keeps.settleOffer _)
  all_goals dsimp only
  all_goals split
  all_goals first
    | rfl
    | exact Nat.le_max_left ..
    | exact id
    | (intro h; exact Nat.le_trans (Keeps.disown_notices _ _) h)

theorem consoleWatch (r : Rec) (s : State) : Keeps s (s.consoleWatch r).state := by
  unfold State.consoleWatch
  repeat' split
  all_goals first | exact .refl s | exact setWatcher ..

theorem consoleUnwatch (r : Rec) (s : State) : Keeps s (s.consoleUnwatch r).state := by
  unfold State.consoleUnwatch
  split
  · exact .refl s
  · exact Keeps.removeWatcher ..

theorem mediaAttach (r : Rec) (s : State) : Keeps s (s.mediaAttach r).state := by
  unfold State.mediaAttach
  repeat' split
  all_goals first | exact .refl s | exact Keeps.beginAttach ..

theorem onMediaSame (s : State) (g : Fin 4) :
    Keeps s (s.onMedia fun m => { m with waitingInquiries := m.waitingInquiries.filter (· != g) }) :=
  Keeps.onMediaSame s _ rfl rfl (Nat.le_refl _) rfl rfl

theorem discardIf (s : State) (g : Fin 4) (b : Bool) : Keeps s (if b then s.discardDirty g else s) := by
  cases b
  · exact .refl s
  · exact Keeps.discardDirty s g

theorem endDetach (s u : State) (g : Fin 4) (h : Keeps s u) :
    Keeps s (if u.media.regionDirty g = 0 then u.becomeDetached g else u.enterRegion g .detaching) := by
  split
  · exact h.trans (Keeps.becomeDetached ..)
  · exact h.trans (Keeps.enterRegion ..)

theorem detachRegion (g : Fin 4) (b : Bool) (s : State) : Keeps s (s.detachRegion g b) := by
  have h1 := (Keeps.endHeldWhere s (fun h => h.unit == g) .noUnit).trans (Keeps.cancelFetches _ g (· != .flush))
  have h3 := (h1.trans (onMediaSame _ g)).trans (discardIf _ g b)
  exact endDetach s _ g h3

theorem detach (b : Bool) (r : Rec) (s : State) : Keeps s (s.detach b r).state := by
  unfold State.detach
  split
  · exact .refl s
  · dsimp only
    split
    · exact .refl s
    · exact detachRegion ..

theorem mediaResume (r : Rec) (s : State) : Keeps s (s.mediaResume r).state := by
  unfold State.mediaResume
  repeat' split
  all_goals first | exact .refl s | exact (Keeps.enterRegion ..).trans (Keeps.runFlushes _)

theorem powerRequest (r : Rec) (s : State) : Keeps s (s.powerRequest r).state := by
  unfold State.powerRequest
  split
  · exact .refl s
  · rename_i k _
    have := Keeps.present s (s.operatorRequest r k)
    dsimp only
    split
    · rename_i h; rw [h] at this; exact this
    · rename_i h; rw [h] at this; exact this

theorem cancelRunning (r : Rec) (s : State) : Keeps s (s.cancelRunning r).state := by
  unfold State.cancelRunning
  split
  · exact .refl s
  · exact Keeps.finishScript ..

theorem filterQueue (s : State) (p : Request → Bool) (n : Counter) :
    Keeps s (s.onScript fun e => { e with
      queue := e.queue.filter p, cnt := { e.cnt with cancelled := e.cnt.cancelled + n } }) :=
  Keeps.onScript s _ (fun h => Nat.le_trans (List.length_filter_le _ _) h) (fun c h k => k c h) rfl fun h => h

theorem cancelQueued (r : Rec) (s : State) : Keeps s (s.cancelQueued r).state := by
  unfold State.cancelQueued
  split
  · exact .refl s
  · split
    · exact .refl s
    · exact filterQueue ..

/-! ### The clock, the statistics and the loader -/

theorem timeSet (r : Rec) (s : State) : Keeps s (s.timeSet r).state := by
  unfold State.timeSet
  dsimp only
  split
  · exact .refl s
  · dsimp only; exact Keeps.onClock ..

theorem setSteer (s : State) (st : Vector Steering 64) (H : ∀ (k : Fin 64), (st[k]).valid = (s.steer[k]).valid ∧
    (st[k]).rewrite = (s.steer[k]).rewrite) : Sound s { s with steer := st } :=
  ⟨rfl, fun h => { h with }, fun h => h, fun h => { h with }, fun h => h,
    fun h => { h with rewrites := fun k r a b => h.rewrites k r ((H k).1 ▸ a) ((H k).2 ▸ b) }, fun h => h⟩

theorem setBank (s : State) (b : Vector Meter 16) (H : ∀ i : Fin 16, (s.meters.bank[i]).InRange → (b[i]).InRange) :
    Sound s (s.onMeters fun x => { x with bank := b }) :=
  ⟨rfl, fun h => { h with }, fun h i => H i (h i), fun h => { h with }, fun h => h, fun h => { h with }, fun h => h⟩

theorem clearSteering (s : State) : Sound s (s.clearGroup .steering) := by
  dsimp only [State.clearGroup]
  exact setSteer s _ fun k => by simp

theorem clearMeters (s : State) : Sound s (s.clearGroup .meters) := by
  dsimp only [State.clearGroup]
  exact setBank s _ fun i h => by simpa [Meter.InRange] using h

theorem clearGroup (s : State) (g : Group) : Sound s (s.clearGroup g) := by
  cases g
  · dsimp only [State.clearGroup]; exact (Keeps.onCnt s .u _).sound
  · dsimp only [State.clearGroup]; exact (Keeps.onCnt s .s _).sound
  · exact clearSteering s
  · exact clearMeters s
  · dsimp only [State.clearGroup]; exact (Keeps.onPool s _ rfl rfl).sound
  · dsimp only [State.clearGroup]; exact (Keeps.onAgentSame s _ rfl).sound
  · dsimp only [State.clearGroup]
    refine ((Keeps.onLineSame s _ ?_ ?_).trans (Keeps.onHist _ _ ?_ ?_ ?_ ?_ ?_)).sound
    all_goals first | rfl | exact id | exact Nat.le_max_left ..
  · dsimp only [State.clearGroup]; exact (Keeps.onMediaSame s _ rfl rfl (Nat.le_refl _) rfl rfl).sound
  · dsimp only [State.clearGroup]
    refine ((Keeps.onPower s _ rfl fun _ => rfl).trans (Keeps.onScript _ _ ?_ ?_ ?_ ?_)).sound
    · exact id
    · exact fun c h k => k c h
    · rfl
    · exact id

theorem statsRead (b : Bool) (r : Rec) (s : State) : Sound s (s.statsRead b r).state := by
  unfold State.statsRead
  split
  · exact .refl s
  · cases b
    · exact .refl s
    · exact clearGroup ..

theorem storeImage (r : Rec) (s : State) : Keeps s (s.storeImage r).state := by
  unfold State.storeImage
  split
  · exact .refl s
  · dsimp only
    split
    · exact .refl s
    · dsimp only
      exact Keeps.onLoader ..

theorem judgeRestart (b : Bool) (s : State) : (s.judgeRestart b).state = s := by
  unfold State.judgeRestart
  split <;> rfl

theorem acceptRestart (b : Bool) (s : State) : Keeps s (s.acceptRestart b) := by
  unfold State.acceptRestart
  exact (Keeps.onAgentSame s _ rfl).trans (Keeps.advance _)

theorem runRestart (s : State) (c : Instr) (b : Bool) : Keeps s (s.runRestart c b) := by
  unfold State.runRestart
  split
  · exact .refl s
  · rename_i r _
    have h : Keeps s (s.popRecord.perform r fun _ t => t.judgeRestart b).state := by
      unfold State.perform
      split
      · exact Keeps.popRecord s
      · rw [judgeRestart]; exact Keeps.popRecord s
    dsimp only
    split
    · exact (h.trans (Keeps.pack ..)).trans (acceptRestart ..)
    · exact (h.trans (Keeps.pack ..)).trans (Keeps.advance _)

theorem storeComplete (b : Bool) (s : State) : Keeps s (s.storeComplete b) := by
  unfold State.storeComplete
  split
  · exact .refl s
  · exact (Keeps.onLoader ..).trans (Keeps.raiseNotice ..)

/-! ### The restart -/

theorem restartScript (s : State) : Keeps s s.restartScript := by
  unfold State.restartScript
  split
  · exact .refl s
  · exact Keeps.finishCore ..

theorem restartStore (s : State) : Keeps s s.restartStore := by
  unfold State.restartStore
  split
  · exact .refl s
  · exact Keeps.onLoader ..

theorem restartFrames (s : State) : Keeps s s.restartFrames :=
  ⟨rfl, rfl, rfl, rfl, fun _ => rfl,
    fun h => { h with
      agentInbox := Nat.zero_le _, mediaInbox := Nat.zero_le _, agentOut := Nat.zero_le _, mediaOut := Nat.zero_le _
      classQueue := fun p k => by cases p <;> simp [State.restartFrames, PerPort.get, Egress.flushed] },
    fun h => h,
    fun h => { h with
      queues := fun p k => by
        have := h.queues p k
        cases p <;> simpa [State.restartFrames, PerPort.get, Egress.flushed] using this }, fun h => h⟩

theorem restartMedia (s : State) : Keeps s s.restartMedia :=
  ⟨rfl, rfl, rfl, rfl, fun g => by simp [State.restartMedia, State.onPool, State.onMedia],
    fun h => { h with held := Nat.zero_le _ }, fun h => h, fun h => { h with }, fun h => h⟩

theorem endBreak (s : State) : Keeps s s.endBreak := by
  unfold State.endBreak
  split
  · exact Keeps.onLineSame s _ rfl rfl
  · exact .refl s

theorem restartConsole (s : State) : Keeps s s.restartConsole := by
  unfold State.restartConsole
  exact ((((Keeps.abandonMeasurement s).trans (endBreak _)).trans (flushFifo _)).trans (Keeps.onLineSame _ _ rfl rfl)).trans
    (Keeps.onHist _ _ (Nat.le_max_left ..) (fun _ => Nat.zero_le _) (fun _ => Nat.zero_le _) rfl rfl)

theorem restartPower (s : State) : Keeps s s.restartPower := by
  unfold State.restartPower
  exact (Keeps.onScript s _ (fun _ => Nat.zero_le _) (fun c h k => k c h) rfl fun h => h).trans (Keeps.onPower _ _ rfl fun _ => rfl)

theorem clearGroups (gs : List Group) (s : State) : Sound s (gs.foldl State.clearGroup s) := by
  induction gs generalizing s with
  | nil => exact .refl s
  | cons g gs ih => exact (clearGroup s g).trans (ih _)

theorem clearAll (s : State) : Sound s s.clearAll :=
  (clearGroups Group.all s).trans (Keeps.onPool _ _ rfl rfl).sound

theorem onStart (s : State) (x : StartRecord) : Sound s (s.onLoader fun l => { l with start := x }) := (Keeps.onLoader ..).sound

theorem restartClear (s : State) : Sound s s.restartClear := by
  have h := ((((((Keeps.trans (restartScript s) (restartStore _)).trans (restartFrames _)).trans (restartMedia _)).trans
    (restartConsole _)).trans (restartPower _)).sound.trans (clearAll _))
  exact h.trans (onStart _ _)

end Sound

end Sys2Proof.Machine
end

