-- ==== Sys2Proof/Laws/SoundEvents.lean ====
section
/-! SUPPORT. What the commands from the line, the frames and the clock keep of the properties of Safety. -/

namespace Sys2Proof.Machine

namespace Sound

theorem linkUp (p : Port) (v : Speed) (s : State) : Keeps s (s.linkUp p v) := by
  unfold State.linkUp
  dsimp only
  split
  · exact ((Keeps.onPins s _).trans (Keeps.setLink ..)).trans (Keeps.onCnt ..)
  · exact Keeps.onPins s _

theorem linkDown (p : Port) (s : State) : Keeps s (s.linkDown p) := by
  unfold State.linkDown
  dsimp only
  split
  · exact Keeps.onPins s _
  · exact (((Keeps.onPins s _).trans (Keeps.setLink ..)).trans (Keeps.onCnt ..)).trans (Keeps.flushLink ..)

theorem admitAgent (f : Frame) (s : State) : Keeps s (s.admitAgent f) := by
  unfold State.admitAgent
  split
  · rename_i h
    refine (Keeps.takeCells s _).trans (Keeps.onAgent _ _ ?_)
    have : s.agent.inbox.length < 32 := h.1
    simp [State.takeCells, State.onPool]
    omega
  · exact Keeps.onCnt ..

theorem admitMedia (p : Port) (d : Fin 16) (f : Frame) (s : State) : Keeps s (s.admitMedia p d f) := by
  unfold State.admitMedia
  split
  · rename_i h
    refine (Keeps.takeCells s _).trans (Keeps.onMedia _ _ (fun _ => rfl) ?_ (Nat.le_max_left ..) rfl rfl)
    have : s.media.inbox.length < 16 := h.1
    simp [State.takeCells, State.onPool]
    omega
  · exact Keeps.onCnt ..

theorem forward (p : Port) (d : Fin 16) (k : Fin 4) (f : Frame) (s : State) : Keeps s (s.forward p d k f) := Keeps.offerEgress ..

theorem rewriteForward (p : Port) (d : Fin 16) (k : Fin 4) (r : Option Nat) (f : Frame) (s : State) :
    Keeps s (s.rewriteForward p d k r f) := by
  unfold State.rewriteForward
  split
  · exact Keeps.onCnt ..
  · exact forward ..

theorem police (p : Port) (d : Fin 16) (k : Fin 4) (e : Steering) (f : Frame) (s : State) : Keeps s (s.police p d k e f) := by
  unfold State.police
  split
  · exact rewriteForward ..
  · dsimp only
    have h := fun i => Keeps.setMeter s i _ fun h => Meter.present_inRange h s.clock.now (chargeOf f.length)
    split
    · exact (h _).trans (rewriteForward ..)
    · split
      · exact (h _).trans (Keeps.onCnt ..)
      · exact (h _).trans (rewriteForward ..)

theorem hitSteer (s : State) (i : Fin 64) (n : Counter) : Sound s (s.setSteering i { s.steer[i] with hits := n }) :=
  setSteer s _ fun k => by
    simp only [Fin.getElem_fin, Vector.getElem_set]
    split
    · rename_i h; simp [h]
    · simp

theorem steerFrame (p : Port) (d : Fin 16) (v : Nat) (f : Frame) (s : State) : Sound s (s.steerFrame p d v f) := by
  unfold State.steerFrame
  dsimp only
  split
  · exact (forward ..).sound
  · split
    · exact (hitSteer s _ _).trans (police ..).sound
    · exact (hitSteer s _ _).trans (Keeps.onCnt ..).sound

theorem classify (p : Port) (d : Fin 16) (v : Nat) (f : Frame) (s : State) : Sound s (s.classify p d v f) := by
  unfold State.classify
  split
  · exact (Keeps.onCnt ..).sound
  · split
    · exact (Keeps.onCnt ..).sound
    · split
      · exact (admitAgent ..).sound
      · split
        · exact (admitMedia ..).sound
        · exact steerFrame ..

theorem ingress (p : Port) (b : List Byte) (g : Bool) (s : State) : Sound s (s.ingress p b g) := by
  unfold State.ingress
  dsimp only
  split
  · exact (Keeps.onCnt ..).sound
  · split
    · exact (Keeps.onCnt ..).sound
    · split
      · exact (Keeps.onCnt ..).sound
      · split
        · exact ((Keeps.onCnt ..).trans (Keeps.onCnt ..)).sound
        · exact (Keeps.onCnt ..).sound.trans (classify ..)

theorem frameArrival (p : Port) (b : List Byte) (g : Bool) (s : State) : Sound s (s.frameArrival p b g) := by
  unfold State.frameArrival
  split
  · exact .refl s
  · exact ingress ..

theorem finishSending (p : Port) (x : Sending) (s : State) : Keeps s (s.finishSending p x) := by
  unfold State.finishSending
  have h : Keeps s (s.onEgress p fun e => { e with tx := none }) :=
    Keeps.onEgress s p _ ⟨rfl, fun _ => ⟨rfl, rfl⟩⟩ fun h => h
  exact (((h.trans (Keeps.onCnt ..)).trans (Keeps.noteGone ..)).trans (Keeps.returnCells ..)).trans (Keeps.choose ..)

theorem transmissionComplete (p : Port) (s : State) : Keeps s (s.transmissionComplete p) := by
  unfold State.transmissionComplete
  split
  · exact .refl s
  · split
    · exact finishSending ..
    · exact .refl s

theorem shaperWaitExpiry (x : Shaper) (s : State) : Keeps s (s.shaperWaitExpiry x) := by
  unfold State.shaperWaitExpiry
  split
  · split
    · exact Keeps.runShaper ..
    · exact .refl s
  · exact .refl s

theorem shaperBlockedRetry (x : Shaper) (s : State) : Keeps s (s.shaperBlockedRetry x) := by
  unfold State.shaperBlockedRetry
  split
  · rename_i g k _ n h _ _ _
    have m := Keeps.moveHead s x k g h n
    split
    · rename_i e; rw [e] at m; exact m.trans (Keeps.runShaper ..)
    · rename_i e; rw [e] at m; exact m
  · exact .refl s

theorem admitted (s : State) (i : Fin 8) (o : Operator) (h : o.valid = (s.operators[i]).valid) (h2 : o.privs = (s.operators[i]).privs) :
    Sound s (s.setOperator i o) :=
  ⟨rfl, fun h => { h with }, fun h => h, fun h => { h with }, fun h => h, fun h => { h with },
    fun ⟨j, a, b⟩ => by
      by_cases e : i = j
      · subst e
        exact ⟨i, by simp [h]; exact a, by simp [h2]; exact b⟩
      · refine ⟨j, ?_, ?_⟩
        · have : i.val ≠ j.val := fun q => e (Fin.ext q)
          simp only [State.setOperator_operators, Fin.getElem_fin, Vector.getElem_set_ne _ _ this]; exact a
        · have : i.val ≠ j.val := fun q => e (Fin.ext q)
          simp only [State.setOperator_operators, Fin.getElem_fin, Vector.getElem_set_ne _ _ this]; exact b⟩

theorem agentTakeFrame (s : State) : Sound s s.agentTakeFrame := by
  have hc : ∀ (s : State) (f : AgentCounters → AgentCounters), Keeps s (s.onAgentCnt f) := fun s f => Keeps.onAgentSame s _ rfl
  have hd : ∀ (s : State) (f : AgentCounters → AgentCounters), Keeps s (s.dropFrame f) := fun s f =>
    (hc s f).trans (Keeps.dropInbox _)
  have hb : ∀ (s : State) (i : Fin 8) (f : Frame), Keeps s (s.beginFrame i f) := fun s i f =>
    (Keeps.onAgentSame s _ rfl).trans (Keeps.advance _)
  unfold State.agentTakeFrame
  split
  · dsimp only
    split
    · exact ((hc ..).trans (hd ..)).sound
    · split
      · refine Sound.trans (Sound.trans (hc s fun c => { c with framesTaken := c.framesTaken + 1 }).sound ?_) (hd _ _).sound
        exact admitted _ _ _ rfl rfl
      · refine Sound.trans (Sound.trans (hc s fun c => { c with framesTaken := c.framesTaken + 1 }).sound ?_) (hb _ _ _).sound
        exact admitted _ _ _ rfl rfl
  · exact .refl s

theorem retryPlacement (s : State) : Keeps s s.retryPlacement := by
  have hr : ∀ (s : State) f, Keeps s (s.retryReply f) := fun s f => by
    unfold State.retryReply
    split
    · exact .refl s
    · rename_i h; exact (Keeps.placeReply h).trans (Keeps.advance _)
  have hp : ∀ (s : State) p, Keeps s (s.retryPush p) := fun s p => by
    unfold State.retryPush
    split
    · exact .refl s
    · rename_i h
      exact ((Keeps.placePush h).trans (Keeps.onHistSame _ _ ⟨rfl, rfl, rfl, rfl, rfl, rfl, rfl⟩ (fun h => h))).trans (Keeps.pump _)
  unfold State.retryPlacement
  split
  · exact .refl s
  · exact hr ..
  · exact hp ..
  · split
    · exact hr ..
    · exact hp ..

theorem outQueueRetry (s : State) : Keeps s s.outQueueRetry := by
  unfold State.outQueueRetry
  split
  · exact .refl s
  · exact (Keeps.onAgentSame s _ rfl).trans (retryPlacement _)

theorem rxdFallingEdge (s : State) : Keeps s s.rxdFallingEdge := by
  unfold State.rxdFallingEdge
  dsimp only
  repeat' split
  all_goals first
    | exact Keeps.setRxd ..
    | exact (Keeps.setRxd ..).trans (Keeps.onLineSame _ _ rfl rfl)
    | exact (Keeps.setRxd ..).trans (Keeps.setRx ..)

theorem falseStart (s : State) : Keeps s s.falseStart := by
  unfold State.falseStart
  repeat' split
  all_goals first
    | exact .refl s
    | exact (Keeps.setRxd ..).trans (Keeps.setRx ..)

theorem judgeSamples (c : CharSettings) (t : Time) (x : List Bool) (r : Bool) (s : State) : Keeps s (s.judgeSamples c t x r) := by
  unfold State.judgeSamples
  split
  · dsimp only
    split
    · exact (Keeps.setRxd ..).trans (Keeps.takeCharacter ..)
    · exact Keeps.setRx ..
  · exact .refl s

theorem rxCharacter (x : List Bool) (r : Bool) (s : State) : Keeps s (s.rxCharacter x r) := by
  unfold State.rxCharacter
  split
  · exact judgeSamples ..
  · exact judgeSamples ..
  · split
    · exact (Keeps.setRxd ..).trans (Keeps.takeCharacter ..)
    · exact .refl s
  · exact .refl s

theorem breakDetected (s : State) : Keeps s s.breakDetected := by
  unfold State.breakDetected
  repeat' split
  all_goals first
    | exact .refl s
    | exact ((Keeps.setRx ..).trans (Keeps.onLineCnt ..)).trans (Keeps.addMark ..)

theorem breakInEnd (s : State) : Keeps s s.breakInEnd := by
  unfold State.breakInEnd
  split
  · exact (Keeps.setRxd ..).trans (Keeps.setRx ..)
  · exact .refl s

theorem discardInterval (s : State) (n : Nat) (m : Option Nat) (t : Time) : Keeps s (s.discardInterval n m t) :=
  (Keeps.onLineSame s _ rfl rfl).trans (Keeps.onLineCnt ..)

theorem autobaudOverflow (s : State) : Keeps s s.autobaudOverflow := by
  unfold State.autobaudOverflow
  split
  · split
    · exact discardInterval ..
    · exact .refl s
  · exact .refl s

theorem autobaudInterval (n : Nat) (s : State) : Keeps s (s.autobaudInterval n) := by
  unfold State.autobaudInterval
  split
  · dsimp only
    repeat' split
    · exact .refl s
    · exact (Keeps.setRxd ..).trans (discardInterval ..)
    · exact (Keeps.setRxd ..).trans (Keeps.onLineSame _ _ rfl rfl)
    · exact (Keeps.setRxd ..).trans (Keeps.autobaudComplete ..)
  · exact .refl s

theorem autobaudTimeout (s : State) : Keeps s s.autobaudTimeout := by
  unfold State.autobaudTimeout
  repeat' split
  all_goals first
    | exact .refl s
    | exact ((Keeps.endMeasurement s).trans (Keeps.onLineCnt ..)).trans (Keeps.raiseNotice ..)

theorem txCharacterDone (s : State) : Keeps s s.txCharacterDone := by
  unfold State.txCharacterDone
  repeat' split
  all_goals first
    | exact .refl s
    | exact ((Keeps.onLineSame s _ rfl rfl).trans (Keeps.onLineCnt ..)).trans (Keeps.txNext _)

theorem breakOutEnd (s : State) : Keeps s s.breakOutEnd := by
  unfold State.breakOutEnd
  repeat' split
  all_goals first
    | exact .refl s
    | exact Keeps.onLineSame s _ rfl rfl

theorem breakGapEnd (s : State) : Keeps s s.breakGapEnd := by
  unfold State.breakGapEnd
  repeat' split
  all_goals first
    | exact .refl s
    | exact ((Keeps.onLineSame s _ rfl rfl).trans (Keeps.onLineCnt ..)).trans (Keeps.txNext _)

theorem ctsAssert (s : State) : Keeps s s.ctsAssert :=
  ((Keeps.onPins ..).trans (Keeps.onLineSame _ _ rfl rfl)).trans (Keeps.txNext _)

theorem pushDelayExpiry (w : Fin 4) (s : State) : Keeps s (s.pushDelayExpiry w) := by
  unfold State.pushDelayExpiry
  split
  · exact .refl s
  · split
    · exact (Keeps.onHistSame _ _ (History.judgeDue_same ..) fun h => h).trans (Keeps.pump _)
    · exact .refl s

theorem epochAnchorAdvance (s : State) : Keeps s s.epochAnchorAdvance := by
  unfold State.epochAnchorAdvance
  repeat' split
  all_goals first
    | exact .refl s
    | exact Keeps.onClock ..

theorem transferIssue (s : State) : Keeps s s.transferIssue := by
  unfold State.transferIssue
  split
  · exact .refl s
  · split
    · exact Keeps.onMediaSame s _ rfl rfl (Nat.le_refl _) rfl rfl
    · split
      · exact .refl s
      · split
        · rename_i h
          exact (Keeps.onMediaSame s _ rfl rfl (Nat.le_refl _) rfl rfl).trans (Keeps.placeOut h)
        · split
          · exact .refl s
          · exact (Keeps.onMediaSame s _ rfl rfl (Nat.le_refl _) rfl rfl).trans (Keeps.onXfer ..)

theorem transferDeadline (e : Fin 16) (s : State) : Keeps s (s.transferDeadline e) := by
  unfold State.transferDeadline
  repeat' split
  all_goals first
    | exact .refl s
    | exact (Keeps.onXfer ..).trans (Keeps.judgeAttempt ..)

theorem resourceRescan (s : State) : Keeps s s.resourceRescan := by
  unfold State.resourceRescan
  split
  · exact .refl s
  · rename_i n _
    have h : Keeps s (s.onMedia fun m => { m with rescans := n }) := Keeps.onMediaSame s _ rfl rfl (Nat.le_refl _) rfl rfl
    exact ((h.trans (Keeps.takeInquiries ..)).trans (Keeps.rescanHeld _)).trans (Keeps.runFlushes _)

theorem heldDeadline (k : Nat) (s : State) : Keeps s (s.heldDeadline k) := by
  unfold State.heldDeadline
  repeat' split
  all_goals first
    | exact .refl s
    | exact (Keeps.onBlk ..).trans (Keeps.endHeld ..)

theorem scriptDelayExpiry (s : State) : Keeps s s.scriptDelayExpiry := by
  unfold State.scriptDelayExpiry
  repeat' split
  all_goals first
    | exact .refl s
    | exact Keeps.onRunningSame _ _ fun _ => rfl

theorem awaitTimeout (s : State) : Keeps s s.awaitTimeout := by
  unfold State.awaitTimeout
  repeat' split
  all_goals first
    | exact .refl s
    | exact ((Keeps.countStep s).trans (Keeps.onScriptCnt ..)).trans (Keeps.goTo ..)

theorem guardWaitExpiry (s : State) : Keeps s s.guardWaitExpiry := by
  unfold State.guardWaitExpiry
  repeat' split
  all_goals first
    | exact .refl s
    | exact Keeps.presentDrive ..

theorem act (s : State) (op : StepOp) (f : Running → State → State)
    (H : ∀ c t, t.script.running = some c → Keeps t (f c t)) : Keeps s (s.act op f) := by
  unfold State.act
  split
  · exact .refl s
  · rename_i c h
    refine (Keeps.countStep s).trans (H c _ ?_)
    unfold State.actingOn at h
    split at h
    · exact absurd h (by simp)
    · rename_i c2 h2
      split at h
      · simp only [Option.some.injEq] at h; subst h; exact h2
      · exact absurd h (by simp)

theorem actThenNext (s : State) (op : StepOp) (f : Running → State → State)
    (H : ∀ c t, t.script.running = some c → Keeps t (f c t)) : Keeps s (s.actThenNext op f) :=
  act s op _ fun c t h => (H c t h).trans (Keeps.goTo ..)

theorem setHold (s : State) (c : Running) (h : s.script.running = some c) : Keeps s (s.setHoldS true) :=
  ⟨rfl, rfl, rfl, rfl, fun _ => rfl, fun h => { h with }, fun h => h, fun h => { h with }, fun _ _ => by
    simp [h]⟩

theorem stepFail (s : State) : Keeps s s.stepFail := act s _ _ fun _ _ _ => Keeps.finishScript ..

theorem stepCall (s : State) : Keeps s s.stepCall := by
  refine act s _ _ fun c t h => ?_
  split
  · exact Keeps.finishScript ..
  · split
    · exact Keeps.finishScript ..
    · rename_i hl
      refine Keeps.trans (Keeps.onRunning _ _ fun d => ?_) (Keeps.goTo ..)
      have : Config.callDepth = 4 := rfl
      simp only [List.length_append, List.length_cons, List.length_nil]
      omega

theorem setStack (t : State) (c : Running) (h : t.script.running = some c) :
    Keeps t (t.onRunning fun x => { x with stack := c.stack.dropLast }) := by
  refine Keeps.onScript t _ (fun h => h) (fun d hd k => ?_) rfl (fun e => by simpa using e)
  simp only [h, Option.map_some, Option.some.injEq] at hd
  subst hd
  have := k c h
  simp only [List.length_dropLast]
  omega

theorem stepEnd (s : State) : Keeps s s.stepEnd := by
  refine act s _ _ fun c t h => ?_
  split
  · exact Keeps.finishScript ..
  · exact (setStack t c h).trans (Keeps.goTo ..)

theorem senseRawChange (k : Fin 4) (v : Bool) (s : State) : Keeps s (s.senseRawChange k v) := by
  unfold State.senseRawChange
  split
  · exact .refl s
  · have h : Keeps s (s.onPins fun x => { x with raw := x.raw.set k v }) := Keeps.onPins ..
    dsimp only
    split
    · exact h.trans (Keeps.sensedChange ..)
    · exact h

theorem senseChangeDue (k : Fin 4) (s : State) : Keeps s (s.senseChangeDue k) := by
  unfold State.senseChangeDue
  split
  · split
    · exact Keeps.raiseEdge ..
    · exact .refl s
  · exact .refl s

theorem senseEstablishmentDue (k : Fin 4) (s : State) : Keeps s (s.senseEstablishmentDue k) := by
  unfold State.senseEstablishmentDue
  split
  · split
    · exact Keeps.establish ..
    · exact .refl s
  · exact .refl s

theorem bootWindowExpiry (s : State) : Keeps s s.bootWindowExpiry := by
  unfold State.bootWindowExpiry
  split
  · exact .refl s
  · split
    · exact Keeps.closeWindow ..
    · exact .refl s

theorem loaderDone (a : EepromAck) (s : State) : Sound s (s.loaderDone a) := by
  unfold State.loaderDone
  split
  · exact (loadTables ..).trans (completeStart _).sound
  · exact .refl s

theorem restartBegin (s : State) : Sound s s.restartBegin := by
  unfold State.restartBegin
  split
  · exact ((restartClear s).trans (factoryTables _)).trans (Keeps.setPhase ..).sound
  · exact .refl s

theorem restartReloadDone (a : EepromAck) (s : State) : Sound s (s.restartReloadDone a) := by
  unfold State.restartReloadDone
  split
  · exact (loadTables ..).trans (((((Keeps.addMark ..).trans (Keeps.setPhase ..)).trans (autoAttachAll _)).trans
      (Keeps.onAgentSame _ _ rfl)).sound)
  · exact .refl s

theorem powerUp (x : Straps) (s : State) : Sound s (s.powerUp x) := powerOn ..

theorem stepPause (s : State) : Keeps s s.stepPause := actThenNext s _ _ fun _ t _ => .refl t

theorem stepBootOpen (s : State) : Keeps s s.stepBootOpen := actThenNext s _ _ fun _ _ _ => Keeps.openWindow ..

theorem stepBootClose (s : State) : Keeps s s.stepBootClose := actThenNext s _ _ fun _ _ _ => Keeps.closeWindow ..

theorem stepHoldS (s : State) : Keeps s s.stepHoldS := actThenNext s _ _ fun c t h => (setHold t c h).trans (Keeps.flushHold _)

theorem stepReleaseS (s : State) : Keeps s s.stepReleaseS := actThenNext s _ _ fun _ t _ => Keeps.releaseHold t

theorem stepMark (s : State) : Keeps s s.stepMark := actThenNext s _ _ fun _ _ _ => Keeps.addMark ..

theorem stepNotify (s : State) : Keeps s s.stepNotify := actThenNext s _ _ fun _ _ _ => Keeps.raiseNotice ..

theorem stepDrive (s : State) : Keeps s s.stepDrive := act s _ _ fun _ _ _ => Keeps.presentDrive ..

theorem ctsDeassert (s : State) : Keeps s s.ctsDeassert := Keeps.onPins ..

theorem tableRead (r : Rec) (s : State) : Keeps s (s.tableRead r).state := by
  unfold State.tableRead
  repeat' split
  all_goals exact .refl s

theorem mediaStatus (r : Rec) (s : State) : Keeps s (s.mediaStatus r).state := by
  unfold State.mediaStatus
  split <;> exact .refl s

theorem consoleBaudAuto (r : Rec) (s : State) : Keeps s (s.consoleBaudAuto r).state := by
  have h : Keeps s (s.onLine fun l => { l with state := .measuring 0 none s.clock.now none, rx := .ready }) :=
    Keeps.onLineSame s _ rfl rfl
  exact h

theorem blkRead (s : State) : Keeps s s.blkRead := Keeps.takeRequest s _ _ fun _ => Keeps.judged _ _ _ fun _ => Keeps.readRequest ..

theorem blkWrite (s : State) : Keeps s s.blkWrite := Keeps.takeRequest s _ _ fun _ => Keeps.judged _ _ _ fun _ => Keeps.writeRequest ..

theorem blkInquire (s : State) : Keeps s s.blkInquire := Keeps.takeRequest s _ _ fun _ => Keeps.judged _ _ _ fun _ => Keeps.inquireRequest ..

theorem blkSync (s : State) : Keeps s s.blkSync := Keeps.takeRequest s _ _ fun _ => Keeps.judged _ _ _ fun _ => Keeps.syncRequest ..

theorem blkMalformed (s : State) : Keeps s s.blkMalformed := Keeps.takeRequest s _ _ fun _ => Keeps.answer ..

theorem imgInfo (s : State) : Keeps s s.imgInfo := Keeps.takeAnswer s _ _ _ fun _ _ _ => Keeps.inquiryAnswered ..

theorem imgData (s : State) : Keeps s s.imgData := Keeps.takeAnswer s _ _ _ fun _ _ _ => Keeps.dataAnswered ..

theorem imgWriteAck (s : State) : Keeps s s.imgWriteAck := Keeps.takeAnswer s _ _ _ fun _ _ _ => Keeps.ackAnswered ..

theorem imgMalformedAnswer (s : State) : Keeps s s.imgMalformedAnswer := Keeps.takeMedia s _ _ fun _ => Keeps.onXfer ..

theorem consoleMark (r : Rec) (s : State) : Keeps s (s.consoleMark r).state := Keeps.addMark ..

theorem consoleMarks (r : Rec) (s : State) : Keeps s (s.consoleMarks r).state := .refl s

theorem consoleFetch (r : Rec) (s : State) : Keeps s (s.consoleFetch r).state := .refl s

theorem recordUnknown (s : State) : Sound s s.recordUnknown := runKeeps s _ _ fun _ _ => .refl _

end Sound

end Sys2Proof.Machine
end

