-- ==== Sys2Proof/WellFormed.lean ====
section
/-! DEFINITION. Which commands can come about at all: the checks on a command's own operands. -/

namespace Sys2Proof

/-- A character has 7 or 8 data bits, at most one parity bit and 1 or 2 stop bits (R60, R64), so 8 to 11 samples follow its
start bit; a low interval that ends as one is 1 to 65,535 cycles long (R68); the held-request table has 16 places (R111). -/
def Instr.wellFormed : Instr → Bool
  | .powerOn _ | .loaderDone _ | .linkUp _ _ | .linkDown _
  | .frameArrival _ _ _ | .transmissionComplete _ | .shaperWaitExpiry _ | .shaperBlockedRetry _
  | .agentTakeFrame | .outQueueRetry | .identify | .tableRead
  | .tableWriteUnknown | .tableWriteDomain | .tableWriteMgmtDomain | .tableWriteSteering
  | .tableWritePcpMap | .tableWritePort | .tableWriteMeter | .tableWriteMeterSettings
  | .tableWriteQueue | .tableWritePool | .tableWriteOperator | .tableWriteConsoleLine
  | .tableWriteConsoleHistory | .tableWritePattern | .tableWriteRegion | .tableWriteMediaParams
  | .tableWriteLine | .tableWriteSense | .tableWriteSenseTrigger | .tableWriteScriptDir
  | .tableWriteScriptStep | .recordUnknownType | .consoleBaud | .consoleBaudAuto
  | .consoleClaim | .consoleClaimForce | .consoleRelease | .consoleType
  | .consoleBreak | .consoleMark | .consoleMarks | .consoleArm
  | .consoleWatch | .consoleUnwatch | .consoleFetch | .mediaAttach
  | .mediaDetach | .mediaDetachDiscard | .mediaResume | .mediaStatus
  | .powerRequest | .powerCancelRunning | .powerCancelQueued | .powerStatus
  | .lineStatus | .timeSet | .statsRead | .statsReadClear
  | .store | .storeComplete _ | .restart | .restartForce
  | .restartBegin | .restartReloadDone _ => true
  | .rxCharacter samples _ => 8 ≤ samples.length && samples.length ≤ 11
  | .breakDetected | .breakInEnd => true
  | .autobaudInterval cycles => 1 ≤ cycles && cycles ≤ Config.autobaudMax
  | .autobaudOverflow | .autobaudTimeout | .txCharacterDone | .breakOutEnd
  | .breakGapEnd | .ctsAssert | .consoleIdleExpiry | .pushDelayExpiry _
  | .epochAnchorAdvance | .blkRead | .blkWrite | .blkInquire
  | .blkSync | .blkMalformed | .imgInfo | .imgData
  | .imgWriteAck | .imgMalformedAnswer | .transferIssue | .transferDeadline _
  | .resourceRescan => true
  | .heldDeadline k => k < Config.heldLimit
  | .scriptDelayExpiry | .stepPause | .stepBootOpen | .stepBootClose
  | .stepHoldS | .stepReleaseS | .stepMark | .stepNotify
  | .stepFail | .stepDrive | .stepCall | .stepEnd
  | .awaitTimeout | .guardWaitExpiry | .bootWindowExpiry | .senseRawChange _ _
  | .senseChangeDue _ | .senseEstablishmentDue _ | .rxdFallingEdge | .falseStart
  | .ctsDeassert | .powerLoss => true

end Sys2Proof
end

