-- ==== Sys2Proof/Tests/Slice0.lean ====
section
/-! SUPPORT. Tests: ill-formed commands, worked cases of the spec, and for each statement with hypotheses a theorem
`witness_<statement>` with states and operands that meet them, clause by clause. -/

namespace Sys2Proof.Tests

open Sys2Proof Sys2Proof.Machine

set_option Elab.async false

/-! ### Well-formedness -/

theorem test_shortCharacter_illFormed : (Instr.rxCharacter (List.replicate 7 true) true).wellFormed = false := by decide
theorem test_longCharacter_illFormed : (Instr.rxCharacter (List.replicate 12 true) true).wellFormed = false := by decide
theorem test_character_wellFormed : (Instr.rxCharacter (List.replicate 9 true) true).wellFormed = true := by decide
theorem test_emptyInterval_illFormed : (Instr.autobaudInterval 0).wellFormed = false := by decide
theorem test_longInterval_illFormed : (Instr.autobaudInterval 65536).wellFormed = false := by decide
theorem test_heldPosition_illFormed : (Instr.heldDeadline 16).wellFormed = false := by decide

/-! ### Small states -/

/-- In service with factory tables. -/
def base : State := State.powerOn .running ⟨false, false⟩ Pins.reset Eeprom.blank []
/-- Both links UP at 1,000 Mbit/s. -/
def up : State := base.onPorts fun x => { x with link := ⟨some .mbit1000, some .mbit1000⟩ }
/-- The agent about to execute a record, from the operator of entry 0. -/
def probe (r : Rec) (s : State) : State := s.onAgent fun a => { a with state := .executing, todo := [r] }
/-- A record with tag 7. -/
def record (type : Half) (body : List Byte) : Rec := ⟨type, 7, 0, body⟩
/-- The same with bit 0 of its flags set. -/
def flagged (type : Half) (body : List Byte) : Rec := ⟨type, 7, 1, body⟩
/-- The bytes of an untagged frame of `n` bytes before its FCS. -/
def arrival (n : Nat) : List Byte := List.replicate 12 0 ++ [0x08, 0x00] ++ List.replicate (n - 14) 0
/-- A frame with zero padding. -/
def frameTo (dst : Mac) (type : Half) (payload : List Byte) : Frame := builtFrame dst 0x021000000022 type payload

/-! ### When a record is executed -/

/-- A computed form of `Ready` and `Passes` together. -/
def executable (c : Instr) (r : Rec) (s : State) : Bool :=
  s.agent.state == .executing && s.agent.closed == [] && s.agent.todo.head? == some r && r.command == c &&
    s.operators[s.agent.op].valid && s.operators[s.agent.op].privs.grants r.need &&
    bodyLengthOk r.type.toNat r.body.length

theorem ready_of_executable {c : Instr} {r : Rec} {s : State} (h : executable c r s = true) : Ready c r s ∧ Passes r s := by
  simp only [executable, Bool.and_eq_true, beq_iff_eq] at h
  obtain ⟨⟨⟨⟨⟨⟨a, b⟩, d⟩, e⟩, f⟩, g⟩, i⟩ := h
  exact ⟨⟨a, b, d, e⟩, ⟨f, g, i⟩⟩

/-- A computed form of `WriteOf`. -/
def writable (c : Instr) (t : TableId) (idx : Nat) (e : List Byte) (r : Rec) (s : State) : Bool :=
  executable c r s && s.loader.store == .idle && decide (2 ≤ r.body.length) && r.tableIndex == idx && r.tableEntry == e &&
    t.entryForm idx e

theorem writeOf_of_writable {c : Instr} {t : TableId} {idx : Nat} {e : List Byte} {r : Rec} {s : State}
    (h : writable c t idx e r s = true) : WriteOf c t idx e r s := by
  simp only [writable, Bool.and_eq_true, beq_iff_eq, decide_eq_true_eq] at h
  obtain ⟨⟨⟨⟨⟨a, b⟩, d⟩, f⟩, g⟩, i⟩ := h
  exact ⟨(ready_of_executable a).1, (ready_of_executable a).2, b, d, f, g, i⟩

/-- A TABLE_WRITE record. -/
def write (t : TableId) (idx : Nat) (e : List Byte) : Rec :=
  record 0x0003 (natBytes 1 t.code ++ natBytes 1 idx ++ e)

/-- That TABLE_WRITE is about to be executed in `s`. -/
def writes (c : Instr) (t : TableId) (idx : Nat) (e : List Byte) (s : State) : Bool :=
  writable c t idx e (write t idx e) (probe (write t idx e) s)

/-! ### Worked cases of the spec -/

/-- The bytes of IDENTIFY's reply in 3.7: 120 with the record header. -/
theorem test_identifyReply_120 : 8 + base.identityBytes.length = 120 := by decide +kernel

/-- A frame of so many bytes in a class queue. -/
def sized (n : Nat) : QFrame := ⟨⟨0, 0, none, 0x0800, List.replicate (n - 18) 0⟩, .passThrough⟩

/-- The queues of the worked case after R38. -/
def loaded : Egress :=
  let q (k : Fin 4) (fs : List Nat) : ClassQueue := { Factory.egress.queues[k] with frames := fs.map sized }
  { Factory.egress with queues := #v[q 0 [1518, 1518], q 1 [], q 2 [600, 600, 600], q 3 [1000, 900]] }

/-- Class and length of the frames the next choices take, and the deficits after the last. -/
def choices : Nat → Egress → List (Nat × Nat) × List Nat
  | 0, e => ([], [e.queues[3].deficit, e.queues[2].deficit, e.queues[1].deficit, e.queues[0].deficit])
  | n + 1, e =>
    match e.pick with
    | none => ([], [])
    | some (f, k, e1) => ((k.val, f.frame.length) :: (choices n e1).1, (choices n e1).2)

theorem test_weighted_sevenChoices : choices 7 loaded =
    ([(3, 1000), (3, 900), (2, 600), (2, 600), (2, 600), (0, 1518), (0, 1518)], [0, 0, 0, 0]) := by decide +kernel

theorem test_weighted_deficitsAfterFour : (choices 4 loaded).2 = [0, 848, 0, 256] := by decide +kernel

theorem test_weighted_deficitsAfterSix : (choices 6 loaded).2 = [0, 0, 0, 18] := by decide +kernel

/-- The saturation bound of R28: at RATE 125,000 and BURST 1,542, 13 µs refill the meter. -/
theorem test_meter_refilledBy13 :
    (({ Factory.meter 0 with rate := 125000, credit := 0 } : Meter).present 13 0).1.credit = 1542000 ∧
      (({ Factory.meter 0 with rate := 125000, credit := 0 } : Meter).present 12 0).1.credit = 1500000 := by decide +kernel

/-- A two-sector READ reply is 1,053 bytes long with its FCS (R181). -/
theorem test_twoSectorReply_1053 :
    (builtFrame 0 0 0x88B6 (blkReplyBytes 1 0 0 2 0 0 .ok (List.replicate 1024 0))).length = 1053 := by decide +kernel

/-! ### Steps, frames and links -/

theorem witness_StepRunsFrontCommand : (base.withPending [.ctsAssert, .agentTakeFrame]).pending = [.ctsAssert, .agentTakeFrame] := rfl

theorem witness_IdleStepIsOneMicrosecond : base.pending = [] ∧ base.phase ≠ .off ∧ (base.setPhase .off).phase = .off ∧
    (∀ c t, base.line.rx ≠ .start c t) ∧
    (base.onLine fun l => { l with rx := .start l.set.char 0 }).line.rx = .start base.line.set.char 0 :=
  ⟨rfl, by decide, rfl, nofun, rfl⟩

/-- The invariants of the tier 3 statements hold together in a state that answers a step. -/
theorem witness_StepKeeps : (∀ i : Fin 16, (base.meters.bank[i]).InRange) ∧
    ((base.operators[(0 : Fin 8)]).valid = true ∧ (base.operators[(0 : Fin 8)]).privs.admin = true) ∧
    (base.ports.holdS = true → base.script.running.isSome = true) ∧
    (DomainVids base.dom ∧ ManagementProtected base.dom) ∧
    step base = .next (base.onClock fun c => { c with now := c.now + 1 }) :=
  ⟨Sound.factoryMeters 0, Sound.factoryOperator, nofun, Sound.factoryDomains, rfl⟩

theorem witness_StepKeepsCapacities : Capacities base where
  agentInbox := by decide
  mediaInbox := by decide
  agentOut := by decide
  mediaOut := by decide
  classQueue p k := by cases p <;> exact Sound.factoryEgress.1 k
  ring := by decide
  marks := by decide
  notices := by decide
  fifo := by decide
  held := by decide
  requests := by decide
  stack := nofun

theorem witness_StepKeepsCapacities_cells : CellsSound base where
  total := by unfold CellsAddUp; decide +kernel
  lines := List.nodup_nil
  built := nofun
  blocked sh := by cases sh <;> exact nofun

theorem witness_StepKeepsHoldWithScript_order : RequestsInOrder base := List.Pairwise.nil

theorem witness_StepKeepsSettingsInRange : SettingsInRange base where
  pvid p := by cases p <;> decide
  pool := by decide
  queues p k := by cases p <;> exact Sound.factoryEgress.2 k
  div := by decide
  idle := by decide
  push := by decide
  transfers := by decide
  guard := by decide
  debounce := by decide +kernel
  dir := by decide +kernel

theorem witness_StepKeepsDomainProtections : RewritesSound base.dom base.steer ∧ ImageDomainsSound base.dom base.media.regions := by
  have steer : ∀ k : Fin 64, (base.steer[k]).valid = false := by decide +kernel
  have regions : ∀ g : Fin 4, (base.media.regions[g]).cfg.valid = false := by decide +kernel
  exact ⟨fun k r h => absurd (h.symm.trans (steer k)) nofun, fun g h => absurd (h.symm.trans (regions g)) nofun⟩

theorem witness_FrameCheckedByLengthAndFcs : up.ports.link.get .u = some .mbit1000 ∧
    (arrival 59).length + 4 = 63 ∧ (arrival 60).length + 4 = 64 ∧ (arrival 1518).length + 4 = 1522 ∧
    (arrival 1519).length + 4 = 1523 ∧ up.resolve .u (parseFrame (arrival 60)) = some (0, 1) ∧
    up.resolve .u (parseFrame (List.replicate 12 0 ++ [0x81, 0x00, 0x0F, 0xFF, 0x08, 0x00] ++ List.replicate 42 0)) = none := by
  decide +kernel

theorem witness_ResolvedDomainFollowsTag : (List.replicate 12 (0 : Byte)).length = 12 ∧ ((0x08, 0x00) : Byte × Byte) ≠ (0x81, 0x00) ∧
    DomainVids base.dom ∧
    base.resolve .s ⟨0, 0, some ⟨5, 0⟩, 0x0800, []⟩ = some (1, 2) ∧ base.resolve .s ⟨0, 0, some ⟨5, 2⟩, 0x0800, []⟩ = some (1, 2) ∧
    base.resolve .u ⟨0, 0, none, 0x0800, []⟩ = some (0, 1) ∧ base.resolve .s ⟨0, 0, some ⟨5, 1⟩, 0x0800, []⟩ = none :=
  ⟨rfl, by decide, Sound.factoryDomains.1, by decide +kernel⟩

/-- The first twelve bytes are destination and source; the low bit of the first byte marks a group address. -/
theorem test_frameAddresses :
    (parseFrame ([2, 0, 0, 0, 0, 9, 3, 0, 0, 0, 0, 8] ++ [0x88, 0xB5])).dst = 0x020000000009 ∧
    (parseFrame ([2, 0, 0, 0, 0, 9, 3, 0, 0, 0, 0, 8] ++ [0x88, 0xB5])).src = 0x030000000008 ∧
    isGroup 0x020000000009 = false ∧ isGroup 0x030000000008 = true ∧ isGroup 0xFFFFFFFFFFFF = true := by decide

/-- So many frames in the agent inbox and the media inbox, and few free cells. -/
def crowded (n m free : Nat) : State :=
  ((base.onAgent fun a => { a with inbox := List.replicate n (frameTo 0 0x88B5 []) }).onMedia fun x => { x with
    inbox := List.replicate m ⟨.s, 1, frameTo 0 0x88B6 []⟩ }).onPool fun p => { p with free := free }

theorem witness_ArrivalGoesToItsPlace : (base.setHoldS true).ports.holdS = true ∧ base.ports.holdS = false ∧
    GoesToAgent base .u 0 (frameTo 0xFFFFFFFFFFFF 0x88B5 []) ∧ GoesToAgent base .u 0 (frameTo 0x024B48000001 0x88B5 []) ∧
    GoesToMedia base .s 1 (frameTo 0xFFFFFFFFFFFF 0x88B6 []) ∧ GoesToMedia base .u 1 (frameTo 0x024B48000001 0x88B6 []) ∧
    ¬ GoesToAgent base .u 0 (frameTo 5 0x88B5 []) ∧ ¬ GoesToMedia base .u 1 (frameTo 0xFFFFFFFFFFFF 0x88B6 []) ∧
    (crowded 31 15 1).agent.inbox.length < 32 ∧ 32 ≤ (crowded 32 16 1).agent.inbox.length ∧
    (crowded 31 15 1).media.inbox.length < 16 ∧ 16 ≤ (crowded 32 16 1).media.inbox.length ∧
    (frameTo 0 0x88B5 []).cells ≤ (crowded 0 0 1).pool.free ∧ (crowded 0 0 0).pool.free < (frameTo 0 0x88B5 []).cells := by
  refine ⟨rfl, rfl, ⟨rfl, rfl, rfl, .inr rfl⟩, ⟨rfl, rfl, rfl, .inl rfl⟩, ⟨rfl, rfl, .inl ⟨rfl, by decide, .inr rfl⟩⟩,
    ⟨rfl, rfl, .inr ⟨rfl, rfl⟩⟩, ?_, ?_, by decide +kernel⟩
  · unfold GoesToAgent; decide
  · unfold GoesToMedia; decide

/-- A valid steering entry for both ports without match fields. -/
def entry (action : Nat) (meter rewrite : Option Nat) : Steering :=
  { Factory.steeringEntry with valid := true, ingress := ⟨true, true, false⟩, action := action, meter := meter, rewrite := rewrite }

theorem witness_SteeringDecidesFrame : (∀ k : Fin 64, (base.steer[k]).valid = false) ∧
    (∀ a m r, MatchesFrame (entry a m r) .u 1 (frameTo 5 0x0800 [])) ∧
    ((base.setSteering 3 (entry 0 (some 2) none)).steer[(3 : Fin 64)] = entry 0 (some 2) none) ∧
    (∀ j : Fin 64, j < 3 → ((base.setSteering 3 (entry 0 (some 2) none)).steer[j]).valid = false) ∧
    ((Factory.meter 0).present 0 84).2 = true ∧
    (({ Factory.meter 0 with rate := 1, credit := 0 } : Meter).present 0 84).2 = false ∧
    (base.dom.entries[(1 : Fin 16)]).valid = true ∧ (base.dom.entries[(2 : Fin 16)]).valid = false :=
  ⟨by decide +kernel, fun a m r => ⟨rfl, rfl, nofun, nofun, nofun, nofun, nofun⟩, by decide +kernel⟩

/-- The factory domain 1 with tags at U. -/
def tagging : State := base.onDom fun x => { x with entries := x.entries.set 1 { x.entries[1] with tag := ⟨true, false, false⟩ } }

theorem witness_EgressJudged : base.judgeEgress .s 0 0 (frameTo 5 0x0800 []) = .notMember ∧
    (base.dom.entries[(1 : Fin 16)]).tag.has .u = false ∧ (tagging.dom.entries[(1 : Fin 16)]).tag.has .u = true ∧
    tagging.judgeEgress .u 1 0 ⟨0, 0, none, 0x0800, List.replicate 1501 0⟩ = .tagOversize ∧
    (⟨0, 0, none, 0x0800, List.replicate 1500 0⟩ : Frame).length + 4 = 1522 ∧
    (base.pcp[(2 : Fin 8)] = 1 ∧ ∀ j : Fin 8, j < 2 → base.pcp[j] ≠ 1) ∧
    (∀ j : Fin 8, ((base.setPcp 0 1).setPcp 1 1).pcp[j] ≠ 0) := by decide +kernel

/-- So many frames in class 0 of U, with a cell limit. -/
def queued (n limit free : Nat) : State :=
  (up.onEgress .u fun e => { e with queues := e.queues.set 0 { e.queues[0] with
    frames := List.replicate n (sized 64), cellLimit := limit } }).onPool fun p => { p with free := free }

theorem witness_ClassQueueAdmission : base.ports.link.get .u = none ∧ up.ports.link.get .s ≠ none ∧
    (up.setHoldS true).ports.holdS = true ∧
    256 ≤ (((queued 256 512 1).sched.port.get .u).queues[(0 : Fin 4)]).frames.length ∧
    (((queued 255 256 1).sched.port.get .u).queues[(0 : Fin 4)]).frames.length < 256 ∧
    queuedCells (((queued 255 256 1).sched.port.get .u).queues[(0 : Fin 4)]).frames + (sized 64).frame.cells = 256 ∧
    (queued 0 16 0).pool.free < 1 ∧ 1 ≤ (queued 0 16 1).pool.free := by decide +kernel

/-- The cells of frames at the bounds of one, two and twelve cells. -/
theorem test_frameCells : (sized 64).frame.cells = 1 ∧ (sized 128).frame.cells = 1 ∧ (sized 129).frame.cells = 2 ∧
    (sized 1522).frame.cells = 12 ∧ (sized 129).frame.length = 129 := by decide +kernel

theorem witness_MeterFirstUpdatesCredit : (Factory.meter 0).rate = 0 ∧
    (1542 * 1000 + 125000 - 1) / 125000 = 13 ∧ 1542 * 1000 ≤ min (1542 * 1000) (42000 + 12 * 125000) ∧
    min (1542 * 1000) (0 + 12 * 125000) < 1501 * 1000 := by decide

theorem witness_LinkFollowsPhy : base.phase = .running ∧ base.ports.link.get .u = none ∧ (base.setPhase .off).phase = .off ∧
    up.ports.link.get .u = some .mbit1000 ∧
    (((queued 1 16 9).setShaper .agent (.blocked (frameTo 0 0 []) 0 false 0)).outQueue .agent).shaper =
      .blocked (frameTo 0 0 []) 0 false 0 ∧
    (((queued 1 16 9).sched.port.get .u).queues[(0 : Fin 4)]).frames ≠ [] := by decide +kernel

/-- Port U sending a frame of 64 bytes, which lasts 672 ns. -/
def sending : State := up.onEgress .u fun e => { e with tx := some ⟨sized 64, 0, 672⟩ }

theorem witness_TransmissionCompletes : (up.sched.port.get .u).tx = none ∧ (sending.sched.port.get .u).tx = some ⟨sized 64, 0, 672⟩ ∧
    672 < ((sending.clock.now - 0).toNat + 1) * 1000 ∧ ((sending.clock.now - 0).toNat + 1) * 1000 ≤ 12304 ∧
    (up.sched.port.get .u).pick = none ∧ ((queued 1 16 9).sched.port.get .u).pick.isSome = true := by decide +kernel

theorem witness_StrictChoiceTakesHighestClass : ({ loaded with mode := .strict } : Egress).mode = .strict ∧
    (loaded.queues[(3 : Fin 4)]).frames = [sized 1000, sized 900] ∧ (∀ k : Fin 4, (Factory.egress.queues[k]).frames = []) ∧
    (∀ j : Fin 4, 3 < j → (loaded.queues[j]).frames = []) := by decide +kernel

theorem witness_WeightedChoiceIsVisitWalk : loaded.mode = .weighted ∧ loaded.visit = 3 ∧
    (∃ k : Fin 4, (loaded.queues[k]).frames ≠ []) ∧ (∀ k : Fin 4, 1 ≤ (loaded.queues[k]).weight) ∧
    (∀ k : Fin 4, ∀ f ∈ (loaded.queues[k]).frames, f.frame.length ≤ 1522) ∧
    (∀ k : Fin 4, (Factory.egress.queues[k]).frames = []) := by decide +kernel

/-- A frame of domain `d` at the head of the agent out-queue, and the rate and credit of the agent's meter. -/
def offering (d : Fin 16) (rate credit : Nat) (s : State) : State :=
  (s.setOutQueue .agent ⟨[⟨frameTo 5 0x88B5 [], d, .reply⟩], .idle⟩).setMeter 14 { Factory.meter 0 with
    rate := rate, credit := credit }

theorem witness_ShaperTestsHead : (base.outQueue .agent).frames = [] ∧
    ((offering 2 0 0 up).outQueue .agent).frames = [⟨frameTo 5 0x88B5 [], 2, .reply⟩] ∧
    (offering 2 0 0 up).judgeEgress .u 2 3 (frameTo 5 0x88B5 []) = .notMember ∧
    (offering 0 0 0 up).judgeEgress .u 0 3 (frameTo 5 0x88B5 []) = .form (frameTo 5 0x88B5 []) ∧
    tagging.judgeEgress .u 1 3 ⟨0, 0, none, 0x0800, List.replicate 1501 0⟩ = .tagOversize ∧
    (((offering 0 1 0 up).meters.bank[(14 : Fin 16)]).present 0 84).2 = false ∧
    (((offering 0 0 0 up).meters.bank[(14 : Fin 16)]).present 0 84).2 = true ∧
    ((offering 0 0 0 up).offerClass .u 3 0 (sized 64)).1 = .admitted ∧
    ((offering 0 0 0 base).offerClass .u 3 0 (sized 64)).1 = .linkDown ∧
    ((queued 256 512 9).offerClass .u 0 0 (sized 64)).1 = .queueFull ∧
    ((queued 0 512 0).offerClass .u 0 1 (sized 64)).1 = .poolFull ∧
    ((base.onMedia fun m => { m with table := m.table.set 2 ⟨4, some ⟨.fetch, 0, 0, 1, [], 1, none⟩⟩ }).media.table[(2 : Fin 16)]) =
      ⟨4, some ⟨.fetch, 0, 0, 1, [], 1, none⟩⟩ := by decide +kernel

/-- The agent shaper in a state. -/
def shaped (x : ShaperState) (s : State) : State := s.setShaper .agent x

theorem witness_ShaperWaitAndRetry : ((shaped (.waiting 0) up).outQueue .agent).shaper = .waiting 0 ∧
    (up.clock.now - 0).toNat < 2 ^ 47 ∧ 2 ^ 47 ≤ (up.clock.now - 5).toNat ∧
    ((shaped (.blocked (frameTo 5 0x88B5 []) 3 true 2) (offering 0 0 0 up)).outQueue .agent).shaper =
      .blocked (frameTo 5 0x88B5 []) 3 true (1 + 1) ∧
    ((shaped (.blocked (frameTo 5 0x88B5 []) 3 true 0) (offering 0 0 0 up)).outQueue .agent).shaper =
      .blocked (frameTo 5 0x88B5 []) 3 true 0 ∧
    ((shaped (.blocked (frameTo 5 0x88B5 []) 3 true 1) (offering 0 0 0 up)).outQueue .agent).frames =
      [⟨frameTo 5 0x88B5 [], 0, .reply⟩] ∧
    ((offering 0 0 0 up).moveHead .agent 3 (frameTo 5 0x88B5 []) ⟨frameTo 5 0x88B5 [], 0, .reply⟩ 0).1 = true ∧
    ((queued 256 512 9).moveHead .agent 0 (frameTo 5 0x88B5 []) ⟨frameTo 5 0x88B5 [], 0, .reply⟩ 0).1 = false := by decide +kernel

/-! ### The control agent -/

/-- The agent IDLE with one frame from the operator in its inbox. -/
def arrived (src : Mac) (payload : List Byte) : State :=
  base.onAgent fun a => { a with inbox := [builtFrame 0x024B48000001 src 0x88B5 payload] }

theorem witness_AgentTakesOldestFrame : base.agent.state = .idle ∧ base.agent.inbox = [] ∧
    (arrived 5 [1, 0, 1]).agent.inbox.length = 1 ∧ isGroup 0x010000000000 = true ∧ isGroup 0x020000000005 = false ∧
    (base.operators[(0 : Fin 8)]).wildcard = true ∧ (∀ j : Fin 8, j ≠ 0 → (base.operators[j]).valid = false) ∧
    (∀ i : Fin 8, (((base.setOperator 0 Factory.noOperator).operators[i]).valid) = false) ∧
    (builtFrame 0 0 0x88B5 [2, 0, 1]).payload.head? ≠ some 1 ∧
    (walkFrame ([1, 0, 1] ++ recordBytes 0x0001 7 0 0 [])).1 = [record 0x0001 []] ∧
    (walkFrame [1, 0, 0]).1 = [] := by decide +kernel

theorem witness_FrameWalkYieldsRecords : [record 0x0001 []] ≠ [] ∧ [record 0x0001 []].length ≤ 16 ∧
    (∀ r ∈ [record 0x0001 []], 8 + r.body.length ≤ 1400) ∧ [record 0x0001 []].length < (2 : Byte).toNat ∧
    (∀ r ∈ [record 0x0013 (List.replicate 1392 0)], 8 + r.body.length ≤ 1400) ∧
    ((1 ≤ 1 ∧ 1 ≤ 7) ∧ (1400 < 1401 ∧ 1401 < 65536) ∧ (8 + ([] : List Byte).length < 9)) := by decide +kernel

/-- Sixteen records under a count of 17, and what ends a walk: too few bytes, whatever they are, and a length of 0. -/
theorem witness_FrameWalkYieldsRecords_ends :
    let many := List.replicate 16 (record 0x0001 [])
    many.length = 16 ∧ 16 < (17 : Byte).toNat ∧ (∀ r ∈ many, 8 + r.body.length ≤ 1400) ∧
    ([9, 9, 9, 9, 9, 9, 9] : List Byte).length < 8 ∧ ([5, 5, 0, 0, 9, 9, 9, 9, 9] : List Byte) = [5, 5, 0, 0] ++ [9, 9, 9, 9, 9] ∧
    walkFrame [1, 0, 3, 9, 9, 9, 9, 9, 9, 9] = ([], some (0, 0)) ∧ walkFrame [1, 0, 1, 5, 5, 0, 0, 9, 9, 9, 9, 9] = ([], some (0, 0)) ∧
    recordBytes 0x0102 0x0304 5 1 [0xAA] = [1, 2, 0, 9, 3, 4, 5, 1, 0xAA] := by decide +kernel

theorem witness_RecordsRefusedAlike :
    (∀ r : Rec, Ready r.command r (probe r base)) ∧ (base.operators[(0 : Fin 8)]).valid = true ∧
    ((probe (record 0x0040 []) (base.setOperator 0 Factory.noOperator)).operators[(0 : Fin 8)]).valid = false ∧
    (record 0x00FF []).command = .recordUnknownType ∧ (record 0x0040 []).command ≠ .recordUnknownType ∧
    Factory.noPrivileges.grants (record 0x0040 []).need = false ∧ Factory.adminOnly.grants (record 0x0040 []).need = true ∧
    bodyLengthOk 0x0040 4 = false ∧ bodyLengthOk 0x0040 5 = true :=
  ⟨fun _ => ⟨rfl, rfl, rfl, rfl⟩, by decide +kernel⟩

theorem witness_RecordsRefusedAlike_commands :
    (record 0x0031 [0, 3]).command = .powerCancelRunning ∧ (record 0x0031 [1, 3]).command = .powerCancelQueued ∧
    (record 0x0003 [5, 16]).command = .tableWriteMeterSettings ∧ (record 0x0003 [5]).command = .tableWriteMeter ∧
    (flagged 0x0041 [9]).command = .statsReadClear ∧ (record 0x0041 [9]).command = .statsRead ∧
    (flagged 0x0041 [9]).flags.getLsbD 0 = true ∧ bodyLengthOk 0x0013 1392 = true ∧ bodyLengthOk 0x0013 1393 = false := by decide +kernel

theorem witness_RepliesPackedInOrder :
    8 + (List.replicate 1471 (0 : Byte)).length = 1479 ∧ 8 + (List.replicate 1472 (0 : Byte)).length = 1480 ∧
    (base.onAgent fun a => { a with openReplies := [⟨1, 7, .ok, []⟩] }).agent.openReplies ≠ [] := by decide +kernel

/-- `n` frames in the agent out-queue, a closed reply that waits, a push owed, and the kind placed last. -/
def contended (n : Nat) (closed : List OutFrame) (last : PlacedKind) (owes : Bool) : State :=
  ((base.setOutQueue .agent ⟨List.replicate n ⟨frameTo 5 0x88B5 [], 0, .reply⟩, .waiting 9⟩).onAgent fun a => { a with
    state := .waiting, closed := closed, lastPlaced := last, retries := 2 }).onHist fun h => { h with
      offerWaiting := owes, watchers := h.watchers.set 0 (some ⟨0, 5, false, true, 0, none, 0, false⟩)
      notices := if owes then [⟨.storeDone true, 0, none, [0]⟩] else [] }

theorem witness_OutQueueSharedByTurns :
    let f : OutFrame := ⟨frameTo 5 0x88B5 [], 0, .reply⟩
    ((contended 15 [f] .push true).outQueue .agent).frames.length < 16 ∧
    16 ≤ ((contended 16 [f] .push true).outQueue .agent).frames.length ∧
    (contended 15 [f] .push true).hist.nextPush.isSome = true ∧ (contended 15 [f] .push true).hist.offerWaiting = true ∧
    (contended 0 [] .push false).hist.offerWaiting = false ∧ (contended 15 [f] .push true).agent.lastPlaced = .push ∧
    (contended 15 [f] .push true).agent.retries = 1 + 1 ∧ base.agent.retries = 0 ∧ (contended 0 [] .push true).agent.closed = [] ∧
    ((contended 15 [f] .push false).placeOut .agent f).isSome = true ∧
    ((contended 16 [f] .push false).placeOut .agent f) = none := by decide +kernel

/-- The stages of `advance`: a closed reply placed or not, and with none closed each thing that comes next. -/
theorem witness_RepliesPackedInOrder_advance :
    let f : OutFrame := ⟨frameTo 5 0x88B5 [], 0, .reply⟩
    let idle := (contended 0 [] .push false).agent
    (contended 15 [f] .push false).agent.closed = [f] ∧ ((contended 15 [f] .push false).placeOut .agent f).isSome = true ∧
    ((contended 16 [f] .push false).placeOut .agent f) = none ∧ idle.closed = [] ∧ idle.state ≠ .restartPending ∧
    idle.restartAccepted = false ∧ idle.todo = [] ∧ idle.trailing = none ∧ idle.openReplies = [] ∧
    (base.onAgent fun a => { a with state := .restartPending }).agent.state = .restartPending ∧
    (base.onAgent fun a => { a with restartAccepted := true }).agent.restartAccepted = true ∧
    (probe (record 0x0001 []) base).agent.todo ≠ [] ∧
    (base.onAgent fun a => { a with trailing := some (7, 1) }).agent.trailing = some (7, 1) := by decide +kernel

/-! ### Records that read, and table writes -/

theorem witness_ReadingRecordsChangeNothing :
    let go (r : Rec) := executable r.command r (probe r base)
    go (record 0x0001 []) ∧ go (record 0x0032 []) ∧ go (record 0x0033 []) ∧ go (record 0x0023 [3]) ∧ go (record 0x0023 [4]) ∧
    go (record 0x0041 [9]) ∧ go (record 0x0041 [10]) ∧ go (record 0x001A []) ∧ go (record 0x001A (counterBytes 5)) ∧
    go (record 0x0019 (timeBytes 0 ++ natBytes 2 1024)) ∧ go (record 0x0002 []) ∧ go (record 0x0002 [0]) ∧ go (record 0x0002 [1]) ∧
    go (record 0x0002 [1, 16]) ∧ go (record 0x0002 [1, 17]) ∧ (base.entryBytes .domain 17) = none ∧
    (base.entryBytes .domain 16).isSome ∧ Group.ofCode 9 = some .power ∧ TableId.ofCode 0 = none ∧
    ((1 : Offset) - 0).toNat = 1 ∧ ((0 : Offset) - 1).toNat = 2 ^ 48 - 1 := by decide +kernel

theorem witness_TableWriteJudgedInOrder :
    let go (r : Rec) (s : State) := executable r.command r (probe r s)
    let storing := base.onLoader fun l => { l with store := .inProgress [] }
    go (record 0x0003 []) base ∧ go (record 0x0003 [18, 0]) base ∧ go (record 0x0003 [1]) base ∧ go (record 0x0003 [1, 16]) base ∧
    go (record 0x0003 [1, 17, 0]) base ∧ go (record 0x0003 [1, 0]) storing ∧ storing.loader.store ≠ .idle ∧
    base.loader.store = .idle ∧ (record 0x0003 [18, 0]).command = .tableWriteUnknown ∧
    (record 0x0003 [1, 0]).command = .tableWriteDomain ∧ TableId.ofCode 18 = none ∧ TableId.ofCode 1 = some .domain ∧
    TableId.domain.entryLength 16 ≠ 2 ∧ TableId.domain.entries = 17 ∧ (record 0x0003 [17, 255, 9]).tableIndex = 255 ∧
    (record 0x0003 [17]).tableIndex = 0 ∧ (record 0x0003 [17, 255, 9]).tableEntry = [9] := by decide +kernel

/-- A DOMAIN entry of the right form that its owner refuses, and one that it takes. -/
theorem witness_TableWriteJudgedInOrder_owner :
    let good (vid : Nat) : Domain := ⟨true, vid, ⟨true, true, true⟩, ⟨false, false, false⟩⟩
    TableId.domain.entryForm 2 (good 4095).bytes = true ∧ TableId.domain.entryForm 2 [0] = false ∧
    (match base.writeEntry .domain 2 (good 4095).bytes with | .error st => st == .range | .ok _ => false) = true ∧
    (match base.writeEntry .domain 2 (good 4094).bytes with
      | .error _ => false | .ok t => t.dom.entries[(2 : Fin 16)] == good 4094) = true := by
  decide +kernel

/-- A meter with RATE 125,000 and BURST 1,542, a step and a domain in the bytes of 11.3. -/
theorem test_entryBytes : ({ Factory.meter 0 with rate := 125000 } : Meter).bytes = [0, 1, 0xE8, 0x48, 0, 0, 6, 6, 0] ∧
    (⟨2, 5, 1, 500⟩ : Step).bytes = [2, 5, 0, 1, 1, 0xF4] ∧
    (⟨true, 4094, ⟨true, false, true⟩, ⟨true, false, false⟩⟩ : Domain).bytes = [1, 0x0F, 0xFE, 5, 1] := by decide +kernel

theorem witness_EntryBytesReadBack_tables : TableId.domain.entries ≤ 17 ∧ base.entryBytes .domain 17 = none ∧
    TableId.scriptStep.entries = 256 ∧ (base.entryBytes .scriptStep 255).isSome = true := by decide +kernel

theorem witness_EntryBytesReadBack : Factory.noDomain.tag.m = false ∧ Factory.steeringEntry.ingress.m = false ∧
    Factory.pattern.bytes.length = 16 ∧ 32 ≤ Factory.lineSettings.div ∧ Factory.regionConfig.holdMs < 2 ^ 16 := by decide

/-- A region of image domain 1, detached. -/
def served (st : RegionState) (sectors : Nat) : State :=
  base.onMedia fun m => { m with regions := m.regions.set 0 { m.regions[0] with
    cfg := { Factory.regionConfig with valid := true, server := 0x020000000099, domain := 1 }, state := st, sectors := sectors
    writable := true } }

theorem witness_DomainWritesKeepProtections :
    let good (vid : Nat) : Domain := ⟨true, vid, ⟨true, true, true⟩, ⟨false, false, false⟩⟩
    writes .tableWriteDomain .domain 2 (good 4094).bytes base ∧ writes .tableWriteDomain .domain 2 (good 4095).bytes base ∧
    writes .tableWriteDomain .domain 2 (good 0).bytes base ∧ writes .tableWriteDomain .domain 2 (good 2).bytes base ∧
    writes .tableWriteDomain .domain 0 (good 7).bytes base ∧ writes .tableWriteDomain .domain 1 Factory.noDomain.bytes (served .detached 0) ∧
    (good 4095).vid = 4095 ∧ readDomain (good 4094).bytes = good 4094 ∧ base.dom.mgmt = 0 ∧
    writes .tableWriteMgmtDomain .domain 16 [16] base ∧ writes .tableWriteMgmtDomain .domain 16 [1] base ∧
    writes .tableWriteMgmtDomain .domain 16 [0] base := by decide +kernel

theorem witness_SteeringPcpAndPortWrites :
    let e := entry 0 none none
    writes .tableWriteSteering .steering 63 Factory.steeringEntry.bytes base ∧ writes .tableWriteSteering .steering 0 e.bytes base ∧
    writes .tableWriteSteering .steering 0 { e with hasVid := true, vid := 4095 }.bytes base ∧
    writes .tableWriteSteering .steering 0 { e with meter := some 16 }.bytes base ∧
    writes .tableWriteSteering .steering 0 { e with rewrite := some 2 }.bytes base ∧
    writes .tableWriteSteering .steering 0 { e with rewrite := some 0 }.bytes base ∧
    (readSteering { e with rewrite := some 0 }.bytes).rewrite = some base.dom.mgmt.val ∧
    writes .tableWritePcpMap .pcpMap 7 [3] base ∧ writes .tableWritePcpMap .pcpMap 0 [4] base ∧
    writes .tableWritePort .port 0 (natBytes 2 4094 ++ [3]) base ∧ writes .tableWritePort .port 1 (natBytes 2 4095 ++ [4]) base ∧
    writes .tableWritePort .port 2 (macBytes 0x010000000000) base ∧ writes .tableWritePort .port 2 (macBytes 0x020000000001) base := by
  decide +kernel

theorem witness_MeterQueueAndPoolWrites :
    let sharing := base.onMeters fun x => { x with mediaMeter := 14 }
    writes .tableWriteMeter .meter 15 (natBytes 4 125001 ++ natBytes 4 1541 ++ [1]) base ∧
    writes .tableWriteMeter .meter 14 (natBytes 4 0 ++ natBytes 4 1048576 ++ [0]) sharing ∧
    writes .tableWriteMeter .meter 0 (natBytes 4 0 ++ natBytes 4 0 ++ [2]) base ∧ MeterMode.policeDemote.code = 1 ∧
    (base.meters.agentMeter = 14 ∧ base.meters.mediaMeter = 15) ∧ (sharing.meters.mediaMeter = 14) ∧
    writes .tableWriteMeterSettings .meter 16 [15, 0] base ∧ writes .tableWriteMeterSettings .meter 16 [16, 0] base ∧
    writes .tableWriteQueue .queue 7 (natBytes 2 15 ++ [16]) base ∧ writes .tableWriteQueue .queue 9 [1] base ∧
    writes .tableWriteQueue .queue 8 [2] base ∧ writes .tableWriteQueue .queue 10 [4, 3] base ∧
    (base.sched.port.get .u).mode = .weighted ∧ SchedMode.strict.code ≠ SchedMode.weighted.code ∧
    writes .tableWritePool .pool 0 (natBytes 2 4097 ++ natBytes 2 0) base := by decide +kernel

theorem witness_MeterQueueAndPoolWrites_followUps :
    let cached (cond : LineCond) : State := ((base.onMedia fun m => { m with
      lines := [⟨0, 5, .dirty, []⟩, ⟨0, 6, cond, []⟩, ⟨0, 7, .clean, []⟩] }).onPool fun p => { p with ceiling := 11 })
    ((base.setShaper .media (.waiting 9)).outQueue .media).shaper = .waiting 9 ∧ (∀ t, (base.outQueue .agent).shaper ≠ .waiting t) ∧
    (cached .clean).media.lines = [⟨0, 5, .dirty, []⟩] ++ ⟨0, 6, .clean, []⟩ :: [⟨0, 7, .clean, []⟩] ∧
    (cached .clean).media.held = [] ∧ (cached .clean).pool.ceiling < 4 * (cached .clean).media.lines.length ∧
    4 * base.media.lines.length ≤ base.pool.ceiling := by
  refine ⟨rfl, nofun, ?_⟩
  decide +kernel

theorem witness_OperatorWriteRemovesStanding :
    let admin : Operator := ⟨true, false, 0x020000000001, Factory.adminOnly, 0⟩
    let watched := base.onHist fun h => { h with watchers := h.watchers.set 2 (some ⟨3, 5, true, true, 0, none, 0, false⟩) }
    writes .tableWriteOperator .operator 1 { admin with addr := 0x010000000000 }.bytes base ∧
    writes .tableWriteOperator .operator 0 Factory.noOperator.bytes base ∧
    writes .tableWriteOperator .operator 3 admin.bytes (base.onLine fun l => { l with owner := some ⟨3, 0⟩ }) ∧
    (base.onLine fun l => { l with owner := some ⟨3, 0⟩ }).line.owner.map (·.op) = some 3 ∧ base.line.owner.map (·.op) ≠ some 3 ∧
    (∀ j : Fin 8, j ≠ 0 → (base.operators[j]).valid = false) ∧
    watched.hist.watchers[(2 : Fin 4)] = some ⟨3, 5, true, true, 0, none, 0, false⟩ ∧
    (∀ v : Fin 4, v < 2 → watched.hist.watchers[v] = none) ∧ (∀ w : Fin 4, base.hist.watchers[w] = none) := by decide +kernel

theorem witness_ConsoleTableWrites :
    let p : Pattern := { Factory.pattern with valid := true, len := 1, request := true, script := 15, prio := 8 }
    writes .tableWriteConsoleLine .console 0 ([7, 2, 2, 1] ++ natBytes 4 31 ++ natBytes 2 9) base ∧
    writes .tableWriteConsoleLine .console 0 ([8, 0, 1, 0] ++ natBytes 4 868 ++ natBytes 2 900) base ∧
    writes .tableWriteConsoleLine .console 0 ([9, 3, 0, 2] ++ natBytes 4 0 ++ natBytes 2 0) base ∧ Parity.odd.code = 2 ∧
    writes .tableWriteConsoleHistory .console 1 (natBytes 2 0 ++ natBytes 2 1001) base ∧
    writes .tableWritePattern .pattern 7 p.entryBytes base ∧ writes .tableWritePattern .pattern 0 Factory.pattern.entryBytes base ∧
    writes .tableWritePattern .pattern 0 { p with len := 17 }.entryBytes base ∧
    writes .tableWritePattern .pattern 0 { p with script := 16 }.entryBytes base := by decide +kernel

theorem witness_MediaTableWrites :
    let c : RegionConfig := { Factory.regionConfig with valid := true, domain := 1, holdMs := 2001 }
    writes .tableWriteRegion .region 3 c.bytes base ∧ writes .tableWriteRegion .region 0 Factory.regionConfig.bytes base ∧
    writes .tableWriteRegion .region 0 c.bytes (served .attached 9) ∧ ((served .attached 9).media.regions[(0 : Fin 4)]).state ≠ .detached ∧
    writes .tableWriteRegion .region 0 { c with prefetch := 3 }.bytes base ∧ writes .tableWriteRegion .region 0 { c with domain := 16 }.bytes base ∧
    writes .tableWriteRegion .region 0 { c with domain := 2 }.bytes base ∧
    writes .tableWriteRegion .region 0 c.bytes (base.onDom fun x => { x with entries := x.entries.set 1 { x.entries[1] with
      members := ⟨true, true, false⟩ } }) ∧
    writes .tableWriteMediaParams .mediaParams 0 (natBytes 2 19 ++ [4]) base := by decide +kernel

theorem witness_PowerAndScriptTableWrites :
    let t : Trigger := { Factory.trigger with valid := true, line := 3, edge := 2, script := 15, prio := 8 }
    writes .tableWriteLine .line 0 ([0, 1] ++ natBytes 2 0) base ∧ writes .tableWriteLine .line 0 ([1, 0] ++ natBytes 2 0) base ∧
    writes .tableWriteLine .line 2 ([1, 1] ++ natBytes 2 601) base ∧ writes .tableWriteLine .line 5 ([1, 2] ++ natBytes 2 0) base ∧
    writes .tableWriteLine .line 4 ([1, 0] ++ natBytes 2 0) base ∧ LineClass.latching.code = 1 ∧
    writes .tableWriteSense .sense 3 (natBytes 2 256) base ∧ writes .tableWriteSenseTrigger .senseTrigger 7 t.bytes base ∧
    writes .tableWriteSenseTrigger .senseTrigger 0 { t with line := 4 }.bytes base ∧
    writes .tableWriteSenseTrigger .senseTrigger 0 { t with script := 16 }.bytes base ∧
    writes .tableWriteSenseTrigger .senseTrigger 0 Factory.trigger.bytes base ∧
    writes .tableWriteScriptDir .scriptDir 15 ({ Factory.scriptDir with first := 256 } : ScriptDir).bytes base ∧
    writes .tableWriteScriptDir .scriptDir 0 ({ Factory.scriptDir with first := 255, prio := 8 } : ScriptDir).bytes base ∧
    writes .tableWriteScriptStep .scriptStep 255 (⟨4, 0, 0, 0⟩ : Step).bytes base ∧
    writes .tableWriteScriptStep .scriptStep 0 (⟨2, 6, 0, 0⟩ : Step).bytes base ∧
    writes .tableWriteScriptStep .scriptStep 0 (⟨12, 0, 0, 0⟩ : Step).bytes base := by decide +kernel

/-! ### The console line and the history -/

/-- An auto-baud measurement of `n` intervals, started at 0, in a low interval since `low`. -/
def measuring (n : Nat) (low : Option Time) (now : Time) : State :=
  (base.onLine fun l => { l with state := .measuring n (some 868) 0 low }).onClock fun c => { c with now := now }

theorem witness_BaudSetByRecordOrMeasured :
    let go (r : Rec) (s : State) := executable r.command r (probe r s)
    go (record 0x0010 (natBytes 4 0)) base ∧ go (record 0x0010 (natBytes 4 115200)) base ∧
    go (record 0x0010 (natBytes 4 115200)) (measuring 3 none 9) ∧ go (flagged 0x0010 (natBytes 4 0)) base ∧
    (flagged 0x0010 (natBytes 4 0)).command = .consoleBaudAuto ∧ (measuring 15 (some 0) 9).line.state = .measuring 15 (some 868) 0 (some 0) ∧
    ((measuring 3 none 9999999).clock.now - 0).toNat < 10000000 ∧ 10000000 ≤ ((measuring 3 none 10000000).clock.now - 0).toNat ∧
    (∃ x ∈ standardRates, distance 868 x.2 * 100 ≤ 3 * x.2) ∧ (∀ x ∈ standardRates, 3 * x.2 < distance 65535 x.2 * 100) ∧
    (65536 < ((655 : Time).toNat + 1) * 100 ∧ ((654 : Time).toNat + 1) * 100 ≤ 65536) ∧
    (868 < ((8 : Time).toNat + 1) * 100 ∧ (8 : Time).toNat * 100 < 868 + 101) ∧ ¬ 868 < ((7 : Time).toNat + 1) * 100 ∧
    ¬ (10 : Time).toNat * 100 < 868 + 101 ∧ (65536 < ((656 : Time).toNat + 1) * 100 ∧ (656 : Time).toNat * 100 < 65536 + 101) := by
  decide +kernel

/-- The console input owned since 0. -/
def ownedBy (op : Fin 8) (now : Time) : State :=
  (base.onLine fun l => { l with owner := some ⟨op, 0⟩ }).onClock fun c => { c with now := now }

theorem witness_ConsoleOwnership :
    let go (r : Rec) (s : State) := executable r.command r (probe r s)
    go (record 0x0011 []) base ∧ go (record 0x0011 []) (ownedBy 0 5) ∧ go (record 0x0011 []) (ownedBy 1 5) ∧
    go (flagged 0x0011 []) (ownedBy 0 5) ∧ go (flagged 0x0011 []) (ownedBy 1 5) ∧ go (record 0x0012 []) base ∧
    go (record 0x0012 []) (ownedBy 0 5) ∧ go (record 0x0012 []) (ownedBy 1 5) ∧
    (flagged 0x0011 []).command = .consoleClaimForce ∧ (ownedBy 1 0).line.set.idleLimit = 900 ∧
    ((ownedBy 1 899999999).clock.now - 0).toNat < 900 * 1000000 ∧ 900 * 1000000 ≤ ((ownedBy 1 900000000).clock.now - 0).toNat := by
  decide +kernel

theorem witness_ConsoleTableWrites_idle : base.line.owner = none ∧ (ownedBy 1 9000000).line.owner = some ⟨1, 0⟩ ∧
    (ownedBy 1 9000000).line.set.idleLimit ≠ 0 ∧
    ((ownedBy 1 9000000).clock.now - 0).toNat < (ownedBy 1 9000000).line.set.idleLimit * 1000000 ∧
    10 * 1000000 ≤ ((ownedBy 1 10000000).clock.now - 0).toNat := by decide +kernel

/-- So many bytes in the FIFO, with flow control and the transmitter as told. -/
def typed (n : Nat) (flow : Bool) (tx : Transmitter) (op : Fin 8) : State :=
  (ownedBy op 5).onLine fun l => { l with
    fifo := List.replicate n (.byte 0x41), set := { l.set with rtsCts := flow }, tx := tx }

/-- A forced claim leaves a wait for CTS as it is, so the item typed next counts no second one (4.7). -/
theorem test_forcedClaimKeepsWait :
    let waiting := (typed 1 true .idle 0).txNext
    let typedNext := (waiting.flushFifo.onLine fun l => { l with fifo := [.byte 0x42] }).txNext
    waiting.line.cnt.ctsWait = 1 ∧ typedNext.line.cnt.ctsWait = 1 ∧ typedNext.line.fifo = [.byte 0x42] := by decide +kernel

theorem witness_OwnerTypesIntoFifo :
    let go (r : Rec) (s : State) := executable r.command r (probe r s)
    go (record 0x0013 [0x41, 0x42]) (typed 255 true .idle 0) ∧ go (record 0x0013 [0x41]) (typed 0 false .idle 1) ∧
    go (record 0x0014 (natBytes 2 99)) (typed 255 false .idle 0) ∧ go (record 0x0014 (natBytes 2 2001)) (typed 256 false .idle 0) ∧
    go (record 0x0014 (natBytes 2 100)) (typed 0 false .idle 1) ∧ (typed 1 true .idle 0).line.fifo = [.byte 0x41] ∧
    (typed 1 true .idle 0).pins.cts = false ∧ (typed 1 true .idle 0).line.ctsCounted = false ∧
    ((typed 1 true .idle 0).onPins fun x => { x with cts := true }).pins.cts = true ∧
    (typed 1 false (.gap 8680 0) 0).line.tx ≠ .idle ∧ (typed 0 false .idle 0).line.fifo = [] := by decide +kernel

theorem witness_TransmitterSendsItems :
    (typed 0 false (.character 0x41 base.line.set.char 0) 0).line.tx = .character 0x41 base.line.set.char 0 ∧
    10 * 868 < ((86 : Time).toNat + 1) * 100 ∧ ((85 : Time).toNat + 1) * 100 ≤ 10 * 868 ∧
    (typed 0 false (.brk 100 base.line.set.char 0) 0).line.tx = .brk 100 base.line.set.char 0 ∧
    (wireBits base.line.set.char 0x41)[1]? = some true ∧ (1 * base.line.set.char.div ≤ 1000 ∧ 1000 < (1 + 1) * base.line.set.char.div) ∧
    ((100000 : Time) - (0 + BitVec.ofNat 48 (100 * 1000))).toNat < 2 ^ 47 ∧
    2 ^ 47 ≤ ((99999 : Time) - (0 + BitVec.ofNat 48 (100 * 1000))).toNat ∧ (typed 0 false (.gap 8680 0) 0).line.tx = .gap 8680 0 := by
  decide +kernel

/-- 0x53 with even parity: four high data bits, so a low parity bit (R62). -/
theorem test_evenParityOnTheWire : wireBits ⟨true, .even, false, 868⟩ 0x53 =
    [false, true, true, false, false, true, false, true, false, false, true] := by decide

theorem witness_CharacterOnTheWire : ((⟨true, .none, false, 868⟩ : CharSettings).parity = .none) ∧
    ((⟨false, .even, true, 868⟩ : CharSettings).parity = .even) ∧ ((⟨false, .odd, true, 868⟩ : CharSettings).parity = .odd) ∧
    (127 : Byte).toNat < 128 := by decide

/-- The receiver in a state at a time. -/
def receiving (rx : Receiver) (now : Time) : State :=
  (base.onLine fun l => { l with rx := rx }).onClock fun c => { c with now := now }

theorem witness_ReceiverTakesCharacters :
    let c := base.line.set.char
    State.reset.phase = .loading ∧ base.phase = .running ∧ base.line.state = .running ∧ base.line.rx = .ready ∧
    (receiving (.start c 0) 4).line.rx = .start c 0 ∧ c.div / 2 < ((4 : Time).toNat + 1) * 100 ∧
    ((3 : Time).toNat + 1) * 100 ≤ c.div / 2 ∧ (receiving (.character c 0) 82).line.rx = .character c 0 ∧
    (List.replicate 9 false).length = c.frameBits - 1 ∧ (c.frameBits - 1) * c.div + c.div / 2 < ((82 : Time).toNat + 1) * 100 ∧
    (∀ b ∈ List.replicate 9 false, b = false) ∧ true ∈ [false, true] ∧ (receiving (.lowWait c 0) 86).line.rx = .lowWait c 0 ∧
    (86 : Time).toNat * 100 < c.cycles + 100 ∧ c.cycles < ((86 : Time).toNat + 1) * 100 ∧ ((85 : Time).toNat + 1) * 100 ≤ c.cycles ∧
    (receiving .brk 99).line.rx = .brk := by decide +kernel

/-- R65's judgement of 0x53 with 7 data bits and EVEN parity, with its parity bit, with the other, and with a low stop bit; and of
0x80 with 8 data bits and no parity. -/
theorem witness_ReceiverTakesCharacters_judged :
    let seven : CharSettings := ⟨false, .even, false, 868⟩
    let eight : CharSettings := ⟨true, .none, true, 868⟩
    let bits := [true, true, false, false, true, false, true]
    (bits ++ [false, true]).length = seven.frameBits - 1 ∧ (List.replicate 7 false ++ [true, true, true]).length = eight.frameBits - 1 ∧
    judgeCharacter seven (bits ++ [false, true]) = (0x53, false, false) ∧ judgeCharacter seven (bits ++ [true, true]) = (0x53, false, true) ∧
    judgeCharacter seven (bits ++ [false, false]) = (0x53, true, false) ∧
    judgeCharacter eight (List.replicate 7 false ++ [true, true, false]) = (0x80, true, false) := by decide +kernel

/-- A watcher in every entry, of operators 1, 2, 3 and `last`. -/
def watched (last : Fin 8) : State :=
  let w (op : Fin 8) : Option Watcher := some ⟨op, 5, true, true, 0, none, 0, false⟩
  base.onHist fun h => { h with watchers := #v[w 1, w 2, w 3, w last] }

theorem witness_MarkArmAndWatchRecords :
    let go (r : Rec) (s : State) := executable r.command r (probe r s)
    let watch (a b start : Byte) : Rec := record 0x0017 ([a, b, start] ++ timeBytes 0)
    let armed := base.onHist fun h => { h with patterns := h.patterns.set 7 { h.patterns[7] with valid := true } }
    go (record 0x0015 (natBytes 2 5)) base ∧ go (record 0x0016 [8]) base ∧ go (record 0x0016 [7]) armed ∧
    (armed.hist.patterns[(7 : Fin 8)]).valid = true ∧ (base.hist.patterns[(7 : Fin 8)]).valid = false ∧
    go (watch 0 0 0) base ∧ go (watch 1 0 3) base ∧ go (watch 1 1 0) (watched 4) ∧ go (watch 1 1 1) (watched 0) ∧
    go (watch 1 0 2) base ∧ go (watch 0 1 2) base ∧ (watched 0).hist.watcherOf 0 = some 3 ∧ (watched 4).hist.watcherOf 0 = none ∧
    (∀ w : Fin 4, (watched 4).hist.watchers[w] ≠ none) ∧ base.hist.watchers[(0 : Fin 4)] = none ∧
    go (record 0x0018 []) base ∧ go (record 0x0018 []) (watched 0) ∧ base.hist.nextPush = none ∧
    (base.onHist fun h => { h with notices := [⟨.storeDone true, 0, none, [0]⟩], watchers := (watched 0).hist.watchers }).hist.nextPush ≠ none := by
  decide +kernel

theorem witness_MarksNoticesAndPushes :
    let mark : Mark := ⟨.operator, 0, 0, 0, none, 0⟩
    let note : NoticeEntry := ⟨.storeDone true, 0, none, [0, 1]⟩
    let full (n : Nat) : History := { (watched 0).hist with marks := List.replicate n mark, notices := List.replicate n note }
    let waits (t : Option Time) (due : Bool) : State := base.onHist fun h => { h with
      newest := 3, ring := [1, 2, 3], watchers := h.watchers.set 0 (some ⟨0, 5, true, true, 0, t, 0, due⟩) }
    (full 31).marks.length < 32 ∧ 32 ≤ (full 32).marks.length ∧ (full 15).notices.length < 16 ∧ 16 ≤ (full 16).notices.length ∧
    (full 16).notices = note :: List.replicate 15 note ∧ note.owed.Nodup ∧
    (List.finRange 4).filter (fun w => ((watched 0).hist.watchers[w]).any Watcher.wantsNotices) ≠ [] ∧
    (List.finRange 4).filter (fun w => (base.hist.watchers[w]).any Watcher.wantsNotices) = [] ∧
    base.hist.watchers[(0 : Fin 4)] = none ∧ (waits (some 0) false).hist.watchers[(0 : Fin 4)] = some ⟨0, 5, true, true, 0, some 0, 0, false⟩ ∧
    20 * 1000 ≤ ((20000 : Time) - 0).toNat ∧ ¬ 20 * 1000 ≤ ((19999 : Time) - 0).toNat := by decide +kernel

theorem witness_MarksNoticesAndPushes_next :
    let w (next : Offset) (due : Bool) : Option Watcher := some ⟨0, 5, true, true, next, none, 0, due⟩
    let h (served : Option (Fin 4)) : History := { base.hist with
      newest := 9, ring := [1, 2, 3], lastServed := served, watchers := #v[w 0 true, w 8 false, w 6 true, none] }
    let note : NoticeEntry := ⟨.storeDone true, 0, none, [2, 0]⟩
    (h none).nextPush = (h none).watchers[(0 : Fin 4)].map (.gap 0) ∧ (h (some 0)).nextPush = (h none).watchers[(2 : Fin 4)].map (.data 2) ∧
    ({ h none with notices := [note] } : History).nextPush = (h none).watchers[(2 : Fin 4)].map (.notice note 2) ∧
    (h none).notices = [] ∧ base.hist.nextPush = none ∧ base.hist.offerWaiting = false ∧
    (((contended 15 [] .push true).onHist fun h => { h with offerWaiting := false }).hist.nextPush.isSome = true) ∧
    (∀ p ∈ (contended 16 [] .push true).hist.nextPush, (contended 16 [] .push true).placePush p = none) ∧
    (∀ p ∈ (contended 15 [] .push true).hist.nextPush, ((contended 15 [] .push true).placePush p).isSome = true) := by decide +kernel

/-- A due watcher at the bounds: at OLDEST it gets data, one byte farther back a gap, and so at 2^47 bytes behind NEWEST (R83, R86). -/
theorem test_watcher_far_behind_gets_gap :
    let h (next : Offset) : History := { base.hist with
      newest := 9, ring := [1, 2, 3], watchers := #v[some ⟨0, 5, true, true, next, none, 0, true⟩, none, none, none] }
    (h 6).nextPush = (h 6).watchers[(0 : Fin 4)].map (.data 0) ∧ (h 5).nextPush = (h 5).watchers[(0 : Fin 4)].map (.gap 0) ∧
    (h (9 - 2 ^ 47)).nextPush = (h (9 - 2 ^ 47)).watchers[(0 : Fin 4)].map (.gap 0) ∧ (h 9).nextPush.isSome = true := by decide +kernel

theorem witness_MarksNoticesAndPushes_pump :
    let s := contended 15 [] .push true
    s.hist.ring.length ≤ 65536 ∧ 1 ≤ s.hist.threshold ∧ s.hist.notices.length ≤ 16 ∧ (∀ e ∈ s.hist.notices, e.owed.length ≤ 4) ∧
    (∀ p ∈ s.hist.nextPush, (s.placeOut .agent (s.pushFrame p)).isSome = true) ∧
    (∀ p ∈ s.hist.nextPush, (contended 16 [] .push true).placeOut .agent ((contended 16 [] .push true).pushFrame p) = none) := by
  decide +kernel

/-- The fold of R92 at the bounds of A to Z. -/
theorem test_foldByte : foldByte 0x40 = 0x40 ∧ foldByte 0x41 = 0x61 ∧ foldByte 0x5A = 0x7A ∧ foldByte 0x5B = 0x5B ∧
    foldByte 0x61 = 0x61 := by decide

theorem witness_ByteAppendedAndMatched :
    let p : Pattern := { Factory.pattern with
      valid := true, armed := true, len := 2, fold := true, window := [0x4F], bytes := [0x6F, 0x4B] ++ List.replicate 14 0 }
    let s := base.onHist fun h => { h with patterns := h.patterns.set 0 p }
    (base.hist.patterns[(0 : Fin 8)]).valid = false ∧ (s.hist.patterns[(0 : Fin 8)]).armed = true ∧ p.len ≤ p.bytes.length ∧
    foldByte 0x4F = foldByte 0x6F ∧ ((s.judgePattern 0x4B 0).hist.patterns[(0 : Fin 8)]).hits = 1 ∧
    ((s.judgePattern 0x21 0).hist.patterns[(0 : Fin 8)]).hits = 0 ∧ p.request = false ∧ ({ p with request := true } : Pattern).request = true := by
  decide +kernel

/-! ### Media -/

theorem witness_MediaRecordsMoveRegions :
    let go (r : Rec) (s : State) := executable r.command r (probe r s)
    let dirty := (served .attached 8).onMedia fun m => { m with lines := [⟨0, 3, .dirty, []⟩] }
    let busyTable := (served .attached 8).onMedia fun m => { m with
      table := Vector.replicate 16 ⟨0, some ⟨.fetch, 0, 0, 1, [], 1, none⟩⟩ }
    go (record 0x0020 [4]) base ∧ go (record 0x0020 [0]) base ∧ go (record 0x0020 [0]) (served .detached 0) ∧
    go (record 0x0020 [0]) (served .attached 8) ∧ go (record 0x0021 [0]) (served .detached 8) ∧
    go (record 0x0021 [0]) (served .attached 8) ∧ go (record 0x0021 [0]) dirty ∧ go (record 0x0021 [0]) (served .faulted 8) ∧
    go (flagged 0x0021 [0]) (served .detached 8) ∧ go (flagged 0x0021 [0]) dirty ∧ go (record 0x0022 [0]) (served .faulted 8) ∧
    go (record 0x0022 [0]) (served .attached 8) ∧ dirty.media.regionDirty 0 = 1 ∧ (served .attached 8).media.regionDirty 0 = 0 ∧
    (∀ e : Fin 16, (base.media.table[e]).use = none) ∧ (∀ e : Fin 16, (busyTable.media.table[e]).use ≠ none) := by decide +kernel

/-- What a detach leaves dirty, without and with discard; no line is evicted on the way. -/
theorem witness_MediaRecordsMoveRegions_detach :
    let dirty := (served .attached 8).onMedia fun m => { m with lines := [⟨0, 3, .dirty, []⟩, ⟨1, 3, .dirty, []⟩] }
    4 * dirty.media.lines.length ≤ dirty.pool.ceiling ∧ dirty.media.held = [] ∧
    ((dirty.detachRegion 0 false).media.regions[(0 : Fin 4)]).state = .detaching ∧ (dirty.detachRegion 0 false).media.lines.length = 2 ∧
    ((dirty.detachRegion 0 true).media.regions[(0 : Fin 4)]).state = .detached ∧
    (dirty.detachRegion 0 true).media.lines = [⟨1, 3, .dirty, []⟩] := by decide +kernel

/-- One line of each region and sector, one of them dirty, and a held SYNC of the region whose answer meets a ceiling of 0: the CLEAN
line goes, the dirty one outlasts it, and a discard counts it. -/
theorem witness_MediaRecordsMoveRegions_answered :
    let s := ((served .attached 8).onMedia fun m => { m with
      lines := [⟨0, 2, .clean, []⟩, ⟨0, 3, .dirty, []⟩], dirtyOrder := [(0, 3)]
      held := [⟨5, 1, 0, .sync, 9, 0, 0, 0, []⟩] }).onPool fun p => { p with ceiling := 0 }
    OneLineEach s.media ∧ s.media.regionDirty 0 = 1 ∧ executable .mediaDetach (record 0x0021 [0]) (probe (record 0x0021 [0]) s) ∧
    (s.detachRegion 0 false).media.lines = [⟨0, 3, .dirty, []⟩] ∧
    ((s.detachRegion 0 false).media.regions[(0 : Fin 4)]).state = .detaching ∧
    (s.detachRegion 0 true).media.blk.dirtyLost = 1 := by
  unfold OneLineEach
  decide +kernel

/-- A block request in the media inbox: unit, op, count, first sector, data. -/
def requested (src : Mac) (unit op count first : Nat) (data : List Byte) (s : State) : State :=
  s.onMedia fun m => { m with inbox := [⟨.s, 1, ⟨0x024B48000001, src, none, 0x88B6,
    natBytes 1 1 ++ natBytes 1 unit ++ natBytes 1 op ++ natBytes 1 count ++ natBytes 2 9 ++ natBytes 4 first ++ data⟩⟩] }

/-- The command that takes the media inbox's head, and the request it carries. -/
def asks (s : State) : List (Instr × List Nat) :=
  s.media.inbox.map fun m => (m.command, [m.request.unit, m.request.op, m.request.count, m.request.first, m.request.data.length])

/-- Region 0 attached with 8 sectors, with its configuration changed. -/
def guarded (f : RegionConfig → RegionConfig) : State :=
  (served .attached 8).onMedia fun m => { m with regions := m.regions.set 0 { m.regions[0] with cfg := f m.regions[0].cfg } }

/-- So many dirty lines of another region. -/
def dirtied (n : Nat) : State := (served .attached 8).onMedia fun m => { m with lines := List.replicate n ⟨1, 0, .dirty, []⟩ }

/-- So many held READs of sectors 6 and 7. -/
def holding (n : Nat) : State :=
  (served .attached 8).onMedia fun m => { m with held := List.replicate n ⟨5, 1, 0, .read, 9, 6, 2, 0, [6]⟩ }

/-- Both sectors 6 and 7 CLEAN. -/
def cachedPair : State :=
  (served .attached 8).onMedia fun m => { m with lines := [⟨0, 6, .clean, List.replicate 512 0⟩, ⟨0, 7, .clean, List.replicate 512 0⟩] }

theorem witness_BlockRequestsJudged : let on := served .attached 8
    asks (requested 5 0 0 2 6 [] on) = [(.blkRead, [0, 0, 2, 6, 0])] ∧ asks (requested 5 0 0 3 6 [] on) = [(.blkRead, [0, 0, 3, 6, 0])] ∧
    asks (requested 5 4 0 1 7 [] on) = [(.blkRead, [4, 0, 1, 7, 0])] ∧
    asks (requested 5 1 1 1 0 (List.replicate 512 0) on) = [(.blkWrite, [1, 1, 1, 0, 512])] ∧
    asks (requested 5 0 2 0 0 [] on) = [(.blkInquire, [0, 2, 0, 0, 0])] ∧ asks (requested 5 0 3 0 0 [] on) = [(.blkSync, [0, 3, 0, 0, 0])] ∧
    asks (requested 5 0 4 0 0 [] on) = [(.blkMalformed, [0, 4, 0, 0, 0])] ∧ isGroup 5 = false ∧ isGroup 0x010000000000 = true := by
  decide +kernel

theorem witness_BlockRequestsJudged_regions : let rg := (served .attached 8).media.regions[(0 : Fin 4)]
    (rg.sectors = 6 + 2 ∧ rg.sectors < 7 + 2) ∧ base.power.window = none ∧
    ((guarded fun c => { c with bootOnly := true }).media.regions[(0 : Fin 4)]).cfg.bootOnly = true ∧
    ((guarded fun c => { c with writeProtect := true }).media.regions[(0 : Fin 4)]).cfg.writeProtect = true ∧
    ((guarded fun c => { c with service := 1 }).media.regions[(0 : Fin 4)]).cfg.service = 1 ∧
    (holding 1).media.held = [⟨5, 1, 0, .read, 9, 6, 2, 0, [6]⟩] ∧ (holding 15).media.held.length < 16 ∧
    16 ≤ (holding 16).media.held.length := by decide +kernel

theorem witness_BlockRequestsJudged_lines : let on := served .attached 8
    (cachedPair.media.sectorReadable 0 6 = true ∧ cachedPair.media.sectorReadable 0 7 = true) ∧
    on.media.sectorReadable 0 6 = false ∧ cachedPair.media.regionDirty 0 = 0 ∧
    (dirtied 254).media.lines.countP (fun l => l.cond.isDirty) + 2 = 256 ∧
    (dirtied 255).media.lines.countP (fun l => l.cond.isDirty) + 2 = 257 ∧ (on.writeLines 0 [6, 7, 6, 7]).1.1 = true ∧
    ((on.onPool fun x => { x with free := 1027 }).writeLines 0 [6, 7, 6, 7]).1.1 = false := by decide +kernel

theorem witness_BlockRequestsJudged_bytes : let m := (requested 5 1 3 2 7 [8, 9] base).media.inbox
    m.map (fun x => (x.port, x.frame.payload)) = [(.s, [1, 1, 3, 2, 0, 9, 0, 0, 0, 7] ++ [8, 9])] ∧ [7, 6].Nodup ∧
    (cachedPair.touch 0 [7, 6]).media.lines.map (fun l => l.sector) = [7, 6] ∧ cachedPair.media.findLine 0 7 ≠ none ∧
    cachedPair.media.findLine 0 8 = none := by decide +kernel

/-- A transfer in entry 2 with generation 4, and an image answer in the media inbox. -/
def answered (kind : TransferKind) (attempts : Nat) (payload : List Byte) : State :=
  (served (if kind = .inquire then .attaching else .attached) 8).onMedia fun m => { m with
    table := m.table.set 2 ⟨4, some ⟨kind, 0, 6, 2, [7], attempts, some 9⟩⟩
    lines := [⟨0, 6, .filling 2, []⟩]
    inbox := [⟨.u, 1, ⟨0x024B48000001, 0x020000000099, none, 0x88B6, payload⟩⟩] }

/-- The command that takes the inbox's head, and whether its answer names the transfer of entry 2. -/
def names (s : State) : List (Instr × Bool) :=
  s.media.inbox.map fun m => (m.command, fieldAt 1 1 m.frame.payload == 2 &&
    (s.media.table[(2 : Fin 16)]).gen == BitVec.ofNat 8 (fieldAt 2 1 m.frame.payload) &&
    (s.media.regions[(0 : Fin 4)]).cfg.imageId == BitVec.ofNat 32 (fieldAt 3 4 m.frame.payload))

theorem witness_ImageAnswersEndTransfers :
    let head (ty idx gen : Byte) : List Byte := [ty, idx, gen, 0, 0, 0, 0]
    names (answered .inquire 1 (head 0x11 2 4 ++ [0, 1] ++ natBytes 4 (2 ^ 31))) = [(.imgInfo, true)] ∧
    names (answered .inquire 1 (head 0x11 2 4 ++ [0, 1] ++ natBytes 4 (2 ^ 31 + 1))) = [(.imgInfo, true)] ∧
    names (answered .inquire 1 (head 0x11 2 4 ++ [1, 1] ++ natBytes 4 0)) = [(.imgInfo, true)] ∧
    names (answered .fetch 1 (head 0x13 2 4 ++ [0, 1] ++ natBytes 4 6 ++ List.replicate 512 0)) = [(.imgData, true)] ∧
    names (answered .fetch 3 (head 0x13 2 4 ++ [1, 0])) = [(.imgData, true)] ∧
    names (answered .flush 1 (head 0x15 2 4 ++ [0])) = [(.imgWriteAck, true)] ∧
    names (answered .flush 1 (head 0x15 2 5 ++ [0])) = [(.imgWriteAck, false)] ∧
    names (answered .flush 1 (head 0x15 2 4)) = [(.imgMalformedAnswer, true)] ∧
    ((answered .fetch 2 []).media.table[(2 : Fin 16)]).use = some ⟨.fetch, 0, 6, 2, [7], 2, some 9⟩ ∧ base.media.retryCount = 2 ∧
    (answered .fetch 2 []).media.findLine 0 6 = some ⟨0, 6, .filling 2, []⟩ ∧ (answered .fetch 2 []).media.findLine 0 7 = none := by
  decide +kernel

theorem witness_ImageAnswersEndTransfers_bytes : let head : List Byte := [0, 0, 0, 0, 0, 0]
    let command (p : List Byte) : List (Port × Instr) := (answered .fetch 1 p).media.inbox.map fun m => (m.port, m.command)
    command (0x13 :: head) = [(.u, .imgMalformedAnswer)] ∧ head.length = 6 ∧
    command (0x13 :: (head ++ [0, 3] ++ List.replicate 1548 0)) = [(.u, .imgMalformedAnswer)] ∧
    command (0x13 :: (head ++ [0, 1] ++ List.replicate 515 0)) = [(.u, .imgMalformedAnswer)] ∧
    command (0x13 :: (head ++ [0, 1] ++ List.replicate 516 0)) = [(.u, .imgData)] ∧ command [0x14] = [(.u, .imgMalformedAnswer)] ∧
    (List.replicate 512 (0 : Byte)).length = 512 := by decide +kernel

/-- A FETCH with all its sectors received or one missing, and replies that port S takes or refuses. -/
theorem witness_ImageAnswersEndTransfers_completes :
    let fetching (received : List Nat) := base.setTransfer 2 ⟨.fetch, 0, 6, 2, received, 1, none⟩
    let offered (s : State) := (s.offerEgress .s 1 s.sched.mediaClass (frameTo 5 0x88B6 []) .blkReply).1
    (base.media.table[(2 : Fin 16)]).use = none ∧
    ((fetching [6, 7]).media.table[(2 : Fin 16)]).use = some ⟨.fetch, 0, 6, 2, [6, 7], 1, none⟩ ∧
    ((fetching [7]).media.table[(2 : Fin 16)]).use = some ⟨.fetch, 0, 6, 2, [7], 1, none⟩ ∧
    (6 ∈ [6, 7] ∧ 7 ∈ [6, 7] ∧ 6 ∉ [7]) ∧ offered up = true ∧ offered base = false := by decide +kernel

/-- One line of region 0 in a state, with a held SYNC, and the region in a state with so many failures. -/
def flushed (cond : LineCond) (st : RegionState) (failures : Nat) : State := (served st 8).onMedia fun m => { m with
  lines := [⟨0, 6, cond, []⟩]
  held := [⟨5, 1, 0, .sync, 9, 0, 0, 500000, []⟩]
  regions := m.regions.set 0 { m.regions[0] with failures := failures } }

theorem witness_ImageAnswersEndTransfers_ends :
    ((flushed .clean .attached 0).media.lines.filter fun l => l.cond.isDirty) = [] ∧
    ((flushed .dirty .attached 0).media.lines.filter fun l => l.cond.isDirty) ≠ [] ∧ BlkStatus.ok ≠ BlkStatus.busy ∧
    (flushed (.flushing 2) .attached 0).media.findLine 0 6 = some ⟨0, 6, .flushing 2, []⟩ ∧
    (flushed (.redirtied 2) .attached 0).media.findLine 0 6 = some ⟨0, 6, .redirtied 2, []⟩ ∧
    (flushed .dirty .attached 0).media.findLine 0 6 = some ⟨0, 6, .dirty, []⟩ ∧ (flushed .dirty .attached 0).media.findLine 0 7 = none ∧
    (((flushed .dirty .attached 2).media.regions[(0 : Fin 4)]).state = .attached ∧
      ((flushed .dirty .attached 2).media.regions[(0 : Fin 4)]).failures < 3) ∧
    3 ≤ ((flushed .dirty .attached 3).media.regions[(0 : Fin 4)]).failures ∧
    ((flushed .dirty .detaching 3).media.regions[(0 : Fin 4)]).state = .detaching ∧
    ((flushed .dirty .faulted 4).media.regions[(0 : Fin 4)]).state = .faulted ∧
    (flushed .clean .detaching 0).media.regionDirty 0 = 0 ∧ (flushed .dirty .detaching 0).media.regionDirty 0 ≠ 0 ∧
    (∃ l ∈ (flushed (.redirtied 2) .attached 2).media.lines, l.cond = .redirtied 2 ∧ l.coveredBy 2 = true) ∧
    (∀ l ∈ (flushed (.flushing 2) .attached 0).media.lines, l.cond ≠ .redirtied 2) ∧
    (∀ l ∈ (flushed .dirty .attached 0).media.lines, l.coveredBy 2 = false) := by decide +kernel

/-- A line rewritten since its write-back began is written back anew as that write-back is acknowledged (7.6, at 250), in an entry
that was free before; a failure that faults the region starts none (R103). -/
theorem test_rewrittenLineFlushedAgain :
    let t : Transfer := ⟨.flush, 0, 6, 1, [], 1, some 9⟩
    let s (failures : Nat) : State := (flushed (.redirtied 2) .attached failures).setTransfer 2 t
    let conds (s : State) := s.media.lines.map fun l => l.cond
    conds ((s 0).ackAnswered 2 t (List.replicate 8 0)) = [.flushing 0] ∧ conds ((s 2).failFlush 2 t) = [.flushing 0] ∧
    conds ((s 3).failFlush 2 t) = [.dirty] := by decide +kernel

/-- A line made CLEAN by an acknowledgement goes at once to a pending excess, before a detach frees it (R117). -/
theorem test_cleanLineGoesToExcess :
    let t : Transfer := ⟨.flush, 0, 6, 1, [], 1, some 9⟩
    let s : State := ((flushed (.flushing 2) .detaching 0).setTransfer 2 t).onPool fun p => { p with ceiling := 0 }
    (s.ackAnswered 2 t (List.replicate 8 0)).pool.ceilingEvict = 1 := by decide +kernel

theorem witness_TransfersIssuedAndTimed :
    let issuing (kind : TransferKind) (n : Nat) : State := ((answered kind 1 []).onMedia fun m => { m with issue := [2] }).setOutQueue
      .media ⟨List.replicate n ⟨frameTo 5 0x88B6 [], 1, .media 0 0⟩, .waiting 9⟩
    let held (now : Time) : State := ((served .attached 8).onMedia fun m => { m with
      held := [⟨5, 1, 0, .read, 9, 6, 1, 500000, [6]⟩] }).onClock fun c => { c with now := now }
    base.media.issue = [] ∧ (issuing .fetch 0).media.issue = [2] ∧ ((issuing .fetch 0).media.table[(2 : Fin 16)]).use ≠ none ∧
    ((issuing .fetch 0).media.regions[(0 : Fin 4)]).cfg.domain = (1 : Fin 16).val ∧
    ((issuing .inquire 15).placeOut .media ⟨frameTo 5 0x88B6 [], 1, .media 2 4⟩).isSome = true ∧
    (issuing .flush 16).placeOut .media ⟨frameTo 5 0x88B6 [], 1, .media 2 4⟩ = none ∧ (issuing .flush 16).media.issueWaiting = false ∧
    (base.media.table[(0 : Fin 16)]).use = none ∧ 2 ^ 47 ≤ ((8 : Time) - 9).toNat ∧ ((9 : Time) - 9).toNat < 2 ^ 47 ∧
    (held 500000).media.held.length = 1 ∧ 2 ^ 47 ≤ ((499999 : Time) - 500000).toNat ∧ ((500000 : Time) - 500000).toNat < 2 ^ 47 ∧
    base.media.rescans = 0 ∧ ({ base.media with rescans := 2 } : Media).rescans = 1 + 1 := by decide +kernel

theorem witness_TransfersIssuedAndTimed_scheduling :
    let t (attempts : Nat) (received : List Nat) : Transfer := ⟨.fetch, 0, 4, 4, received, attempts, none⟩
    let waiting := base.onMedia fun m => { m with waitingInquiries := [1] }
    let dirty (st : RegionState) : State := (served st 8).onMedia fun m => { m with
      lines := [⟨0, 6, .dirty, []⟩, ⟨0, 7, .dirty, []⟩, ⟨1, 0, .dirty, []⟩], dirtyOrder := [(1, 0), (0, 6), (0, 7)] }
    (t 1 [4]).asked = (4, 4) ∧ (t 2 [4]).asked = (5, 3) ∧ (t 2 [5, 7]).asked = (4, 3) ∧ waiting.media.waitingInquiries = 1 :: [] ∧
    (base.media.table[(0 : Fin 16)]).use = none ∧ base.media.waitingInquiries = [] ∧ base.media.fillWaiting = false ∧
    (dirty .attached).media.dirtyOrder = [(1, 0)] ++ (0, 6) :: [(0, 7)] ∧
    ((dirty .attached).media.regions[(1 : Fin 4)]).state = .detached ∧ ((dirty .attached).media.regions[(0 : Fin 4)]).state = .attached ∧
    (dirty .attached).media.findLine 0 7 = some ⟨0, 7, .dirty, []⟩ ∧ (dirty .attached).media.findLine 1 1 = none ∧
    (∀ d ∈ (dirty .faulted).media.dirtyOrder, ((dirty .faulted).media.regions[d.1]).state ≠ .attached ∧
      ((dirty .faulted).media.regions[d.1]).state ≠ .detaching) := by decide +kernel

theorem witness_CacheLineGrantedOrEvicted :
    let cached (n ceiling free : Nat) (cond : LineCond) : State := ((served .attached 8).onMedia fun m => { m with
      lines := List.replicate n ⟨0, 6, cond, []⟩ }).onPool fun p => { p with ceiling := ceiling, free := free }
    (4 * (cached 1 8 1028 .clean).media.lines.length + 4 ≤ 8 ∧ 1024 + 4 ≤ (cached 1 8 1028 .clean).pool.free) ∧
    ¬ 1024 + 4 ≤ (cached 1 8 1027 .clean).pool.free ∧ ¬ 4 * (cached 2 8 1028 .dirty).media.lines.length + 4 ≤ 8 ∧
    (cached 1 8 1027 .clean).media.lines = [] ++ ⟨0, 6, .clean, []⟩ :: [] ∧ (cached 1 8 1027 .clean).media.held = [] ∧
    (∀ l ∈ (cached 2 8 1028 .dirty).media.lines, l.cond ≠ .clean) := by decide +kernel

/-- A dirty and a filling line, each as the tables have it. -/
def cachedSoundly : State := (served .attached 8).onMedia fun m => { m with
  lines := [⟨0, 6, .dirty, []⟩, ⟨0, 7, .filling 2, []⟩], dirtyOrder := [(0, 6)]
  table := m.table.set 2 ⟨4, some ⟨.fetch, 0, 7, 1, [], 1, none⟩⟩ }

theorem witness_CacheLineGrantedOrEvicted_sound : CacheSound cachedSoundly.media where
  lines := by unfold OneLineEach; decide +kernel
  dirtyOnce := by decide +kernel
  dirtyListed g x := by
    show (g, x) ∈ [((0 : Fin 4), 6)] ↔ ∃ l ∈ ([⟨0, 6, .dirty, []⟩, ⟨0, 7, .filling 2, []⟩] : List CacheLine), _
    simp only [List.mem_cons, List.not_mem_nil, or_false, Prod.mk.injEq, exists_eq_or_imp, exists_eq_left, reduceCtorEq, and_false,
      and_true]
    exact ⟨fun h => ⟨h.1.symm, h.2.symm⟩, fun h => ⟨h.1.symm, h.2.symm⟩⟩
  dirtyLimit := by decide +kernel
  filling l h e he := by
    have : l = ⟨0, 6, .dirty, []⟩ ∨ l = ⟨0, 7, .filling 2, []⟩ := by
      have h' : l ∈ ([⟨0, 6, .dirty, []⟩, ⟨0, 7, .filling 2, []⟩] : List CacheLine) := h
      simpa using h'
    rcases this with rfl | rfl
    · exact absurd he nofun
    · cases he
      exact ⟨⟨.fetch, 0, 7, 1, [], 1, none⟩, rfl, rfl, ⟨rfl, Nat.le_refl _, by decide⟩, nofun⟩
  flushing l h e he := by
    have : l = ⟨0, 6, .dirty, []⟩ ∨ l = ⟨0, 7, .filling 2, []⟩ := by
      have h' : l ∈ ([⟨0, 6, .dirty, []⟩, ⟨0, 7, .filling 2, []⟩] : List CacheLine) := h
      simpa using h'
    rcases this with rfl | rfl <;> exact absurd he (by simp)
  lineRegions := by decide +kernel
  held := nofun
  fetches := by decide +kernel
  inquiries := by decide +kernel

theorem witness_CacheLineGrantedOrEvicted_fills :
    let s := (served .attached 8).onMedia fun m => { m with regions := m.regions.set 0 { m.regions[0] with
      cfg := { m.regions[0].cfg with prefetch := 4 } } }
    let busy := s.onMedia fun m => { m with table := Vector.replicate 16 ⟨0, some ⟨.flush, 0, 0, 1, [], 1, none⟩⟩ }
    let twelve := s.onMedia fun m => { m with table := Vector.ofFn fun e => if e.val < 12 then
      ⟨0, some ⟨.fetch, 0, 0, 1, [], 1, none⟩⟩ else ⟨0, none⟩ }
    s.media.findLine 0 5 = none ∧ cachedPair.media.findLine 0 6 ≠ none ∧ (∀ e : Fin 16, (busy.media.table[e]).use ≠ none) ∧
    (twelve.media.table[(12 : Fin 16)]).use = none ∧
    (List.finRange 16).countP (fun e => (twelve.media.table[e]).use.any fun t => t.kind == .fetch) = 12 ∧
    5 + 3 = min ((5 / 4 + 1) * 4) 8 ∧ (s.fillLines 0 0 [5, 6, 7]).1 = 5 :: [6, 7] ∧
    ((s.onPool fun p => { p with ceiling := 0 }).fillLines 0 0 [5, 6, 7]).1 = [] ∧ s.obtainLine.1 = true ∧
    (s.onPool fun p => { p with ceiling := 0 }).obtainLine.1 = false := by decide +kernel

/-! ### Power and scripts -/

/-- Script 1 running with priority `prio`, on step `step` with `wait`, and a queue; scripts 0 to 9 are valid. -/
def running (prio : Nat) (preemptible : Bool) (step : Step) (wait : Wait) (queue : List Request) : State :=
  base.onScript fun e => { e with
    dir := Vector.ofFn fun i => { e.dir[i] with valid := decide (i.val ≤ 9) }
    running := some ⟨1, .operator 0, prio, preemptible, 0, 4, step, [], wait⟩
    queue := queue }

/-- A request of script `k` at priority `prio` from trigger 0. -/
def request (k : Fin 16) (prio : Nat) (preempt : Bool) : Request := ⟨k, .trigger 0, prio, preempt, 0⟩

theorem witness_PowerRequestsJudged :
    let go (r : Rec) (s : State) := executable r.command r (probe r s)
    let e (p : Bool) (q : List Request) := running 3 p ⟨1, 0, 0, 0⟩ .acting q
    let eight : List Request := [request 2 5 false, request 3 5 false, request 4 4 false, request 5 4 false, request 6 4 false,
      request 7 3 false, request 8 2 false, request 9 2 false]
    ((base.present (request 1 0 false)).1 = .invalid) ∧ (((e true []).onScript fun x => { x with running := none }).present (request 2 0 false)).1 = .started ∧
    ((e true []).present (request 2 4 true)).1 = .preempted 1 ∧ ((e true []).present (request 2 3 true)).1 = .queued 0 ∧
    ((e false []).present (request 2 7 true)).1 = .queued 0 ∧ ((e true [request 2 1 false]).present (request 2 0 false)).1 = .coalesced 0 ∧
    ((e true eight).present (request 1 2 false)).1 = .full 2 ∧ ((e true eight).present (request 1 3 false)).1 = .displaced 6 (request 9 2 false) ∧
    eight.Pairwise (fun a b => b.prio ≤ a.prio) ∧ go (record 0x0030 [16]) base ∧ go (record 0x0030 [2]) (e true eight) ∧
    go (flagged 0x0030 [2, 8]) (e true []) ∧ go (record 0x0031 [0, 0]) (e true []) ∧ go (record 0x0031 [0, 0]) base ∧
    (record 0x0031 [0, 0]).command = .powerCancelRunning ∧ go (record 0x0031 [1, 15]) (e true eight) ∧ go (record 0x0031 [1, 16]) base ∧
    go (record 0x0031 [2, 0]) base := by decide +kernel

theorem witness_PowerRequestsJudged_sources :
    let e := running 3 true ⟨1, 0, 0, 0⟩ .acting
    let eight := List.replicate 8 (request 2 5 false)
    ((e []).script.dir[(2 : Fin 16)]).valid = true ∧ (base.script.dir[(2 : Fin 16)]).valid = false ∧ 15 < 16 ∧
    (base.present (request 2 0 false)).1 = .invalid ∧ ((e eight).present (request 3 0 false)).1 = .full 5 ∧
    ((e []).present (request 3 0 false)).1 = .queued 0 := by decide +kernel

theorem witness_ScriptStepsAct :
    let at' (op : Nat) := running 3 true ⟨op, 2, 1, 0⟩ .acting []
    ((at' 4).script.running.map fun c => (c.wait, c.step.op)) = some (.acting, 4) ∧ (at' 5).power.window = none ∧
    ((at' 5).onPower fun p => { p with window := some 7 }).power.window ≠ none ∧ ((at' 10).script.dir[(2 : Fin 16)]).valid = true ∧
    ((at' 10).script.dir[(10 : Fin 16)]).valid = false ∧ ([0, 1, 2] : List Nat).length < 4 ∧ 4 ≤ ([0, 1, 2, 3] : List Nat).length ∧
    ((running 3 true ⟨1, 0, 0, 5⟩ (.delaying 5000) []).script.running.map (·.wait)) = some (.delaying 5000) ∧
    ((running 3 true ⟨3, 0, 0, 5⟩ (.awaiting 5000) []).script.running.map (·.wait)) = some (.awaiting 5000) ∧
    ((running 3 true ⟨2, 2, 1, 0⟩ (.guardWait 5000) []).script.running.map (·.wait)) = some (.guardWait 5000) ∧
    ((5000 : Time) - 5000).toNat < 2 ^ 47 ∧ ¬ ((4999 : Time) - 5000).toNat < 2 ^ 47 ∧ 255 < 256 ∧
    (base.script.steps[(255 : Fin 256)]).op ≤ 11 ∧
    (let s := base.onPower fun p => { p with sense := p.sense.set 0 ⟨20, some true, .none⟩ }
     (s.power.sense[(0 : Fin 4)]).level = some true ∧ (s.power.sense[(1 : Fin 4)]).level = none) := by decide +kernel

/-- Port S with frames queued and without, and the boot window open and closed. -/
theorem witness_ScriptStepsAct_holdAndWindow :
    let loadedS := up.onEgress .s fun e => { e with queues := e.queues.set 2 { e.queues[2] with frames := [sized 64] } }
    let gone (e : Egress) := e.queues[0].frames ++ e.queues[1].frames ++ e.queues[2].frames ++ e.queues[3].frames
    gone up.sched.port.s = [] ∧ gone loadedS.sched.port.s = [sized 64] ∧ base.power.window = none ∧
    (base.onPower fun x => { x with window := some 5 }).power.window ≠ none := by decide +kernel

theorem witness_ScriptStepsAct_begins : (running 3 true ⟨1, 0, 0, 0⟩ .acting []).script.running.isSome = true ∧
    ((running 3 true ⟨1, 0, 0, 0⟩ .acting []).beginStep 257 4).2 = none ∧
    ((running 3 true ⟨1, 0, 0, 0⟩ .acting []).beginStep 257 256).2 = some (.fault, 255) := by decide +kernel

theorem witness_LinesDrivenAndReturned :
    let s := (running 3 true ⟨2, 2, 1, 0⟩ .acting []).onPower fun p => { p with guardRec := some ⟨0, 10⟩ }
    s.script.running.isSome = true ∧ (∀ c ∈ s.script.running, c.step.operand = (2 : Fin 6).val ∧ c.step.arg ≤ 1) ∧
    s.power.guardRec = some ⟨0, 10⟩ ∧ (s.clock.now - 0).toNat < 10 * 1000000 ∧ ¬ ((10000000 : Time) - 0).toNat < 10 * 1000000 ∧
    (base.power.lines[(2 : Fin 6)]).cls = .latching ∧ (base.power.lines[(0 : Fin 6)]).cls = .momentary ∧
    base.power.guardRec = none ∧ s.script.queue = [] := by decide +kernel

theorem witness_LinesDrivenAndReturned_next :
    (running 3 true ⟨1, 0, 0, 0⟩ .acting [request 2 5 false]).script.queue = request 2 5 false :: [] := by decide +kernel

theorem witness_SenseLinesDebounced :
    let line (ms : Nat) (level : Option Bool) (p : SensePending) (raw : Bool) : State := (base.onPower fun x => { x with
      sense := x.sense.set 0 ⟨ms, level, p⟩ }).onPins fun x => { x with raw := x.raw.set 0 raw }
    let s (ms : Nat) (level : Option Bool) (p : SensePending) := (line ms level p false).pins.raw[(0 : Fin 4)]
    s 20 none .none ≠ true ∧ State.reset.phase = .loading ∧ base.phase = .running ∧
    ((line 0 none .none false).power.sense[(0 : Fin 4)]) = ⟨0, none, .none⟩ ∧
    ((line 255 (some false) .none false).power.sense[(0 : Fin 4)]) = ⟨255, some (!true), .none⟩ ∧
    ((line 20 (some true) (.change 20000) false).power.sense[(0 : Fin 4)]) = ⟨20, some true, .change 20000⟩ ∧
    ((line 20 none (.establishing 20000) true).power.sense[(0 : Fin 4)]).pending = .establishing 20000 ∧
    ((20000 : Time) - 20000).toNat < 2 ^ 47 ∧ ¬ ((19999 : Time) - 20000).toNat < 2 ^ 47 ∧ base.power.state ≠ .on ∧
    ({ Factory.trigger with valid := true, edge := 2 } : Trigger).edge = 2 ∧ (base.power.triggers[(0 : Fin 8)]).valid = false ∧
    (base.onPower fun x => { x with window := some 5 }).power.window = some 5 ∧ base.power.window = none := by decide +kernel

theorem witness_SenseLinesDebounced_await :
    let s (level : Option Bool) (wait : Wait) : State := (running 3 true ⟨3, 0, 1, 5⟩ wait []).onPower fun x => { x with
      sense := x.sense.set 0 ⟨20, level, .none⟩ }
    base.script.running = none ∧ ((s (some true) (.awaiting 9)).script.running.map fun c => (c.wait, c.step.operand, c.step.arg)) =
      some (.awaiting 9, (0 : Fin 4).val, 1) ∧ ((s (some true) .acting).power.sense[(0 : Fin 4)]).level = some true ∧
    ((s none (.awaiting 9)).power.sense[(0 : Fin 4)]).level = none := by decide +kernel

/-! ### Time, statistics and the loader -/

/-- The epoch 7 set at 0, read at `now`. -/
def anchored (now : Time) : State := base.onClock fun _ => ⟨now, some ⟨7, 0⟩⟩

theorem witness_TimeAndStatistics :
    let go (r : Rec) := executable r.command r (probe r base)
    go (record 0x0040 (natBytes 5 (2 ^ 40 - 1))) ∧ go (flagged 0x0041 [0]) ∧ go (flagged 0x0041 [1]) ∧ go (flagged 0x0041 [9]) ∧
    go (flagged 0x0041 [10]) ∧ (flagged 0x0041 [9]).command = .statsReadClear ∧ Group.ofCode 9 = some .power ∧
    base.clock.anchor = none ∧ (anchored 0x3FFFFFFFFFFF).clock.anchor = some ⟨7, 0⟩ ∧
    ((anchored 0x3FFFFFFFFFFF).clock.now - 0).toNat < 2 ^ 46 ∧ 2 ^ 46 ≤ ((anchored 0x400000000000).clock.now - 0).toNat := by
  decide +kernel

/-- A STORE about to be executed, with one changed entry of POOL. -/
def storing : State := probe (record 0x0042 []) (base.onPool fun p => { p with reserve := 1025 })

/-- The same with a pattern longer than any write makes one, for no image of this part's tables exceeds its EEPROM. -/
def overlong : State := probe (record 0x0042 []) (base.onHist fun h => { h with
  patterns := h.patterns.set 0 { h.patterns[0] with bytes := List.replicate 8200 0 } })

/-- The tables but POOL stand at their factory content, so they make no record. -/
theorem storeRecord_storing (t : TableId) (h : t ≠ .pool) (i : Nat) : storing.popRecord.storeRecord t i = [] := by
  have same : storing.popRecord.entryBytes t i = factoryState.entryBytes t i := by cases t <;> first | rfl | exact absurd rfl h
  unfold State.storeRecord
  rw [same]
  cases factoryState.entryBytes t i <;> simp

/-- One changed entry makes one record. -/
theorem test_storedImage : storing.popRecord.imageBytes = [0, 8, 7, 0, 4, 1, 8, 0] := by
  have table (t : TableId) (h : t ≠ .pool) : ((storing.popRecord.storeIndexes t).map (storing.popRecord.storeRecord t)).flatten = [] := by
    rw [List.flatten_eq_nil_iff]
    intro l hl
    obtain ⟨i, _, rfl⟩ := List.mem_map.mp hl
    exact storeRecord_storing t h i
  have pool : ((storing.popRecord.storeIndexes .pool).map (storing.popRecord.storeRecord .pool)).flatten = [0, 8, 7, 0, 4, 1, 8, 0] := by
    decide +kernel
  simp [State.imageBytes, storeOrder, table, pool]

/-- The image is no shorter than one of its records. -/
theorem patternRecord_le_image (s : State) : (s.storeRecord .pattern 0).length ≤ s.imageBytes.length := by
  have table := (List.sublist_flatten_of_mem (List.mem_map.mpr ⟨0, List.mem_range.mpr (by decide), rfl⟩ :
    s.storeRecord .pattern 0 ∈ (s.storeIndexes .pattern).map (s.storeRecord .pattern))).length_le
  have image := (List.sublist_flatten_of_mem (List.mem_map.mpr ⟨.pattern, by decide, rfl⟩ :
    ((s.storeIndexes .pattern).map (s.storeRecord .pattern)).flatten ∈
      storeOrder.map fun t => ((s.storeIndexes t).map (s.storeRecord t)).flatten)).length_le
  exact Nat.le_trans table image

theorem witness_StoreBuildsAndEnds_tooLong : 8192 < 12 + overlong.popRecord.imageBytes.length := by
  have record : 8192 < (overlong.popRecord.storeRecord .pattern 0).length := by decide +kernel
  exact Nat.lt_of_lt_of_le record (Nat.le_trans (patternRecord_le_image _) (Nat.le_add_left _ _))

theorem witness_StoreBuildsAndEnds :
    executable .store (record 0x0042 []) storing ∧ executable .store (record 0x0042 []) overlong ∧
    executable .store (record 0x0042 []) (storing.onLoader fun l => { l with store := .inProgress [] }) ∧
    storing.loader.store = .idle ∧ storing.loader.straps.eeLarge = false ∧ 12 + ([0, 8, 7, 0, 4, 1, 8, 0] : List Byte).length ≤ 8192 := by
  decide +kernel

theorem witness_RestartJudgedClearedAndReloaded :
    let go (r : Rec) (s : State) := executable r.command r (probe r s)
    let dirty := base.onMedia fun m => { m with lines := [⟨0, 3, .redirtied 1, []⟩] }
    let gone := base.onAgent fun a => { a with state := .restartPending, restartForce := true, restartGone := true }
    let pending := base.onAgent fun a => { a with state := .restartPending, inbox := [frameTo 0 0x88B5 []] }
    go (record 0x0043 []) base ∧ go (record 0x0043 []) dirty ∧ dirty.media.dirtyCount = 1 ∧ base.media.dirtyCount = 0 ∧
    go (record 0x0043 []) (running 3 true ⟨1, 0, 0, 0⟩ .acting []) ∧ go (flagged 0x0043 []) dirty ∧
    (flagged 0x0043 []).command = .restartForce ∧ gone.phase = .running ∧ gone.agent.state = .restartPending ∧
    gone.agent.restartGone = true ∧ pending.agent.restartGone = false ∧ pending.agent.inbox = [frameTo 0 0x88B5 []] ∧
    base.phase ≠ .reloading ∧ (base.setPhase .reloading).phase = .reloading ∧
    (base.onLine fun l => { l with tx := .brk 100 l.set.char 0 }).line.tx = .brk 100 base.line.set.char 0 := by decide +kernel

theorem witness_RestartJudgedClearedAndReloaded_accepted :
    let f : OutFrame := ⟨frameTo 5 0x88B5 [], 0, .reply⟩
    let accepted (s : State) := s.onAgent fun a => { a with todo := [], trailing := none, restartForce := true, restartAccepted := true }
    base.agent.closed = [] ∧ base.agent.state ≠ .restartPending ∧ (contended 16 [f] .push false).agent.closed = [f] ∧
    (contended 16 [f] .push false).agent.state ≠ .restartPending ∧
    (accepted (contended 16 [f] .push false)).placeOut .agent f = none ∧
    ((accepted (contended 15 [f] .push false)).placeOut .agent f).isSome = true := by decide +kernel

/-- The reply of a RESTART that overflows the open frame waits, with the inbox frame kept, until the frame before is placed; with
room the inbox frame leaves at once (R51, R52, R55). -/
theorem test_restartReplyWaitsForEarlierFrame :
    let about (n : Nat) : State := (contended n [] .push false).onAgent fun a => { a with
      state := .executing, todo := [flagged 0x0043 []], inbox := [frameTo 0 0x88B5 []]
      openReplies := [⟨1, 7, .ok, List.replicate 1470 0⟩] }
    let after (n : Nat) := ((about n).runRestart .restartForce true).agent
    ((after 16).state = .waiting ∧ (after 16).inbox.length = 1 ∧ (after 16).closed.length = 1 ∧ (after 16).restartAccepted = true ∧
      (after 16).openReplies.length = 1) ∧
    ((after 14).state = .restartPending ∧ (after 14).inbox = [] ∧ (after 14).closed = [] ∧ (after 14).lastPlaced = .reply) ∧
    ((after 15).state = .restartPending ∧ (after 15).inbox = [] ∧ (after 15).closed.length = 1) := by decide +kernel

/-- An EEPROM with the record of a changed POOL entry. -/
def stored (magic : Option (BitVec 32)) (sum : BitVec 32) : State :=
  State.reset.onLoader fun l => { l with eeprom := ⟨magic, 8, sum, [0, 8, 7, 0, 4, 1, 8, 0]⟩ }

theorem witness_PowerOnAndLoading : State.reset.phase = .loading ∧ base.phase ≠ .loading ∧
    byteSum [0, 8, 7, 0, 4, 1, 8, 0] = 28 ∧ ((stored (some 0x4B485449) 28).loadTables .complete).loader.image.source = .image ∧
    ((stored (some 0x4B485449) 28).loadTables .complete).pool.reserve = 1025 ∧
    ((stored none 28).loadTables .complete).loader.image.source = .invalid ∧
    ((stored (some 0x4B485449) 29).loadTables .complete).loader.image.source = .invalid ∧
    ((stored (some 0x4B485449) 28).loadTables .absent).loader.image.source = .noEeprom ∧
    State.reset.loader.straps.loaderOff = false ∧ TableId.ofCode 7 = some .pool ∧ TableId.pool.entryForm 0 [4, 1, 8, 0] = true ∧
    TableId.pool.entryForm 0 [4] = false ∧ TableId.ofCode 18 = none ∧ State.reset.ports.link = ⟨none, none⟩ ∧
    (∀ g : Fin 4, (State.reset.media.regions[g]).cfg.valid = false) ∧
    (∀ k : Fin 4, (State.reset.power.sense[k]).debounce ≠ 0) ∧ base.pins.phy.get .u = none ∧
    (base.onPins fun x => { x with phy := ⟨some .mbit100, none⟩ }).pins.phy.get .u = some .mbit100 := by decide +kernel

/-- A DOMAIN record of the image. -/
def domainRecord (i : Nat) (entry : List Byte) : ImageRecord := ⟨1, i, entry⟩

theorem witness_PowerOnAndLoading_records :
    let good : Domain := ⟨true, 7, ⟨true, false, true⟩, ⟨false, false, false⟩⟩
    let l : Load := ⟨0, 0, false, base⟩
    let group := [domainRecord 0 good.bytes, domainRecord 16 [0]]
    imageWalk 9 [0, 8, 7, 0, 4, 1, 8, 0] = ([⟨7, 0, [4, 1, 8, 0]⟩], 0) ∧ imageWalk 9 [0, 8, 7, 0, 4, 1, 8, 0, 3] = ([⟨7, 0, [4, 1, 8, 0]⟩], 1) ∧
    imageWalk 9 [0, 8, 7, 0, 4, 1, 8, 0, 0, 9] = ([⟨7, 0, [4, 1, 8, 0]⟩], 1) ∧
    ((l.step group (domainRecord 0 good.bytes)).applied, (l.step group (domainRecord 0 good.bytes)).skipped) = (2, 0) ∧
    ((l.step group (domainRecord 0 good.bytes)).state.dom.entries[(0 : Fin 16)]) = good ∧
    (l.step [domainRecord 16 [16]] (domainRecord 16 [16])).skipped = 1 ∧ (l.step [] (domainRecord 17 [0])).skipped = 1 ∧
    (l.step [domainRecord 16 [1]] (domainRecord 16 [1])).skipped = 1 := by decide +kernel

/-- The protections hold over the factory tables, which a group of DOMAIN records is judged against. -/
theorem witness_PowerOnAndLoading_sound : DomainsSound base :=
  ⟨Sound.factoryDomains.1, Sound.factoryDomains.2, witness_StepKeepsDomainProtections.1, witness_StepKeepsDomainProtections.2⟩

/-- The load ends, and the part is in service. -/
theorem test_loaderDone_inService : ∃ t, exec (.loaderDone .absent) State.reset = .next t ∧ t.phase = .running ∧ t.line.rts = true :=
  ⟨_, rfl, by decide +kernel, by decide +kernel⟩

end Sys2Proof.Tests
end

section
/-! The frame path's two checks: an arriving frame by its length and FCS (R5, R6), and a frame offered to a port by the domain and by
its egress form (R19, R20). -/

namespace Sys2Proof.Machine

/-! ### The first index that passes a test -/

theorem firstIdx_eq_some_iff {n : Nat} {test : Fin n → Bool} {i : Fin n} :
    firstIdx n test = some i ↔ test i = true ∧ ∀ j < i, test j = false := by
  rw [firstIdx, List.find?_eq_some_iff_getElem]
  refine and_congr_right fun _ => ⟨fun ⟨a, bound, at_a, before⟩ j hj => ?_, fun before => ?_⟩
  · have place : a = i.val := congrArg Fin.val ((List.getElem_finRange bound).symm.trans at_a)
    have miss := before j (place ▸ hj)
    rwa [List.getElem_finRange, Bool.not_eq_true'] at miss
  · refine ⟨i, (List.length_finRange (n := n)).symm ▸ i.isLt, List.getElem_finRange _, fun j hj => ?_⟩
    rw [List.getElem_finRange, Bool.not_eq_true']
    exact before _ hj

theorem firstIdx_eq_none_iff {n : Nat} {test : Fin n → Bool} : firstIdx n test = none ↔ ∀ i, test i = false := by
  simp only [firstIdx, List.find?_eq_none, List.mem_finRange, Bool.not_eq_true, forall_const]

/-! ### The arrival of a frame (R5, R6) -/

theorem exec_frameArrival_of_up {s : State} {p : Port} {v : Speed} (up : s.ports.link.get p = some v) (bytes : List Byte)
    (fcsGood : Bool) : exec (.frameArrival p bytes fcsGood) s = .next (s.ingress p bytes fcsGood) := by
  have arrives : s.frameArrival p bytes fcsGood = s.ingress p bytes fcsGood := by
    simp only [State.frameArrival, up]
  exact congrArg Host.Outcome.next arrives

/-- The state once a frame of this length has passed both checks (R5). -/
def State.countArrival (s : State) (p : Port) (len : Nat) : State :=
  s.onCnt p fun c => { c with rxFrames := c.rxFrames + 1, rxBytes := c.rxBytes + BitVec.ofNat 32 len }

section
variable (s : State) (p : Port) {bytes : List Byte}

theorem ingress_of_short (short : bytes.length + 4 < 64) (fcsGood : Bool) :
    s.ingress p bytes fcsGood = s.onCnt p fun c => { c with runt := c.runt + 1 } := by
  simp only [State.ingress, Config.minFrame, short, if_true]

theorem ingress_of_long (long : 1522 < bytes.length + 4) (fcsGood : Bool) :
    s.ingress p bytes fcsGood = s.onCnt p fun c => { c with oversize := c.oversize + 1 } := by
  have notShort : ¬ bytes.length + 4 < 64 := by omega
  simp only [State.ingress, Config.minFrame, Config.maxFrame, if_neg notShort, if_pos long]

theorem ingress_of_badFcs (least : 64 ≤ bytes.length + 4) (most : bytes.length + 4 ≤ 1522) :
    s.ingress p bytes false = s.onCnt p fun c => { c with fcsErr := c.fcsErr + 1 } := by
  simp only [State.ingress, Config.minFrame, Config.maxFrame, Nat.not_lt.mpr least, Nat.not_lt.mpr most, Bool.not_false, if_true,
    if_false]

theorem ingress_of_unresolved (least : 64 ≤ bytes.length + 4) (most : bytes.length + 4 ≤ 1522)
    (miss : (s.countArrival p (bytes.length + 4)).resolve p (parseFrame bytes) = none) :
    s.ingress p bytes true =
      (s.countArrival p (bytes.length + 4)).onCnt p fun c => { c with domainMiss := c.domainMiss + 1 } := by
  unfold State.countArrival at *
  simp only [State.ingress, Config.minFrame, Config.maxFrame, Nat.not_lt.mpr least, Nat.not_lt.mpr most, miss, Bool.not_true,
    Bool.false_eq_true, if_false]

theorem ingress_of_resolved (least : 64 ≤ bytes.length + 4) (most : bytes.length + 4 ≤ 1522) {d : Fin 16} {vid : Nat}
    (hit : (s.countArrival p (bytes.length + 4)).resolve p (parseFrame bytes) = some (d, vid)) :
    s.ingress p bytes true = (s.countArrival p (bytes.length + 4)).classify p d vid (parseFrame bytes) := by
  unfold State.countArrival at *
  simp only [State.ingress, Config.minFrame, Config.maxFrame, Nat.not_lt.mpr least, Nat.not_lt.mpr most, hit, Bool.not_true,
    Bool.false_eq_true, if_false]

end

/-! ### The egress form (R20) -/

theorem addedPcp_eq_lowest {map : Vector (Fin 4) 8} {k : Fin 4} {i : Fin 8} (mapped : map[i] = k)
    (lowest : ∀ j < i, map[j] ≠ k) : addedPcp map k = i := by
  have found : firstIdx 8 (fun j => map[j] == k) = some i :=
    firstIdx_eq_some_iff.mpr ⟨beq_iff_eq.mpr mapped, fun j hj => beq_eq_false_iff_ne.mpr (lowest j hj)⟩
  rw [addedPcp, found, Option.getD_some]

theorem addedPcp_eq_zero {map : Vector (Fin 4) 8} {k : Fin 4} (unmapped : ∀ j : Fin 8, map[j] ≠ k) : addedPcp map k = 0 := by
  have missing : firstIdx 8 (fun j => map[j] == k) = none :=
    firstIdx_eq_none_iff.mpr fun j => beq_eq_false_iff_ne.mpr (unmapped j)
  rw [addedPcp, missing, Option.getD_none]

section
variable (vid : Nat) (pcp : Fin 8) {f : Frame}

theorem egressForm_outsideTagSet : egressForm false vid pcp f = some { f with
    tag := none, payload := f.payload ++ List.replicate (64 - (18 + f.payload.length)) 0 } := rfl

theorem egressForm_of_tagged {t : Tag} (tagged : f.tag = some t) :
    egressForm true vid pcp f = some { f with tag := some ⟨t.pcp, vid⟩ } := by
  simp only [egressForm, tagged, if_true]

/-- A tag adds four bytes to an untagged frame. -/
theorem Frame.length_addTag (untagged : f.tag = none) (t : Tag) : ({ f with tag := some t } : Frame).length = f.length + 4 := by
  simp only [Frame.length, untagged, Option.isSome_some, Option.isSome_none, if_true, Bool.false_eq_true, if_false]
  omega

theorem egressForm_of_tooLong (untagged : f.tag = none) (long : 1522 < f.length + 4) : egressForm true vid pcp f = none := by
  simp only [egressForm, untagged, Config.maxFrame, Frame.length_addTag untagged, long, if_true]

theorem egressForm_of_untagged (untagged : f.tag = none) (fits : f.length + 4 ≤ 1522) :
    egressForm true vid pcp f = some { f with tag := some ⟨pcp, vid⟩ } := by
  simp only [egressForm, untagged, Config.maxFrame, Frame.length_addTag untagged, Nat.not_lt.mpr fits, if_true, if_false]

end

/-! ### The egress judgement and what follows it (R19, R21) -/

section
variable {s : State} {p : Port} {d : Fin 16} {k : Fin 4} {f : Frame}

theorem judgeEgress_of_outside (outside : (s.dom.entries[d]).valid = false ∨ (s.dom.entries[d]).members.has p = false) :
    s.judgeEgress p d k f = .notMember := by
  obtain invalid | lacks := outside
  · simp only [State.judgeEgress, invalid, Bool.false_and, Bool.false_eq_true, if_false]
  · simp only [State.judgeEgress, lacks, Bool.and_false, Bool.false_eq_true, if_false]

theorem judgeEgress_of_noForm (valid : (s.dom.entries[d]).valid = true) (member : (s.dom.entries[d]).members.has p = true)
    (noForm : egressForm ((s.dom.entries[d]).tag.has p) (s.dom.entries[d]).vid (addedPcp s.pcp k) f = none) :
    s.judgeEgress p d k f = .tagOversize := by
  simp only [State.judgeEgress, valid, member, noForm, Bool.and_self, if_true]

theorem judgeEgress_of_form (valid : (s.dom.entries[d]).valid = true) (member : (s.dom.entries[d]).members.has p = true) {g : Frame}
    (form : egressForm ((s.dom.entries[d]).tag.has p) (s.dom.entries[d]).vid (addedPcp s.pcp k) f = some g) :
    s.judgeEgress p d k f = .form g := by
  simp only [State.judgeEgress, valid, member, form, Bool.and_self, if_true]

theorem offerEgress_of_notMember (judged : s.judgeEgress p d k f = .notMember) (o : Origin) :
    s.offerEgress p d k f o = (false, s.onCnt p fun c => { c with egressNotMember := c.egressNotMember + 1 }) := by
  simp only [State.offerEgress, judged]

theorem offerEgress_of_tagOversize (judged : s.judgeEgress p d k f = .tagOversize) (o : Origin) :
    s.offerEgress p d k f o = (false, s.onCnt p fun c => { c with tagOversize := c.tagOversize + 1 }) := by
  simp only [State.offerEgress, judged]

theorem offerEgress_of_form {g : Frame} (judged : s.judgeEgress p d k f = .form g) (o : Origin) :
    s.offerEgress p d k f o =
      ((s.offerClass p k g.cells ⟨g, o⟩).1 == .admitted, (s.offerClass p k g.cells ⟨g, o⟩).2) := by
  simp only [State.offerEgress, judged]

end

/-! ### The obligations -/

/-- Settles O11: an UP port runs the ingress pass, whose five outcomes are told apart by length, FCS and domain. -/
theorem frameCheckedByLengthAndFcs : Obligations.FrameCheckedByLengthAndFcs := by
  intro s p v bytes fcsGood up
  rw [exec_frameArrival_of_up up]
  refine ⟨fun short => ?_, fun long => ?_, fun least most bad => ?_, fun least most good => ⟨fun miss => ?_, fun d vid hit => ?_⟩⟩
  · rw [ingress_of_short s p short]
  · rw [ingress_of_long s p long]
  · rw [bad, ingress_of_badFcs s p least most]
  · rw [good, ingress_of_unresolved s p least most miss]; rfl
  · rw [good, ingress_of_resolved s p least most hit]; rfl

/-- Settles O15: in a valid domain that has the port the judgement is that of the egress form, and the added PCP is the first index of the
map with the class. -/
theorem egressJudged : Obligations.EgressJudged := by
  intro s p d k f
  refine ⟨judgeEgress_of_outside, fun valid member => ⟨fun untagging => ?_, fun tagging t tagged => ?_,
    fun tagging untagged long => ?_, fun tagging untagged fits => ⟨fun i mapped lowest => ?_, fun unmapped => ?_⟩⟩,
    fun o => ⟨fun judged => offerEgress_of_notMember judged o, fun judged => offerEgress_of_tagOversize judged o,
    fun g judged => ?_⟩⟩
  · exact judgeEgress_of_form valid member (by rw [untagging]; exact egressForm_outsideTagSet ..)
  · exact judgeEgress_of_form valid member (by rw [tagging]; exact egressForm_of_tagged _ _ tagged)
  · exact judgeEgress_of_noForm valid member (by rw [tagging]; exact egressForm_of_tooLong _ _ untagged long)
  · exact judgeEgress_of_form valid member (by
      rw [tagging, addedPcp_eq_lowest mapped lowest]; exact egressForm_of_untagged _ _ untagged fits)
  · exact judgeEgress_of_form valid member (by
      rw [tagging, addedPcp_eq_zero unmapped]; exact egressForm_of_untagged _ _ untagged fits)
  · rw [offerEgress_of_form judged o]
    exact ⟨rfl, beq_iff_eq⟩

end Sys2Proof.Machine
end

section
/-! The choice of a port in STRICT mode (R37). -/

namespace Sys2Proof.Machine

section
variable {e : Egress}

theorem Egress.empty_iff : e.empty = true ↔ ∀ k : Fin 4, e.queues[k].frames = [] := by
  simp only [Egress.empty, List.all_eq_true, Vector.mem_toList_iff, List.isEmpty_iff]
  refine ⟨fun all k => all _ (Vector.getElem_mem k.isLt), fun each q member => ?_⟩
  obtain ⟨i, bound, rfl⟩ := Vector.getElem_of_mem member
  exact each ⟨i, bound⟩

/-- In the order of the search the classes before `k` are higher than `k`. -/
theorem searchOrder_before (k : Fin 4) :
    ∃ before after : List (Fin 4), [3, 2, 1, 0] = before ++ k :: after ∧ ∀ j ∈ before, k < j :=
  match k with
  | 3 => ⟨[], [2, 1, 0], rfl, by decide⟩
  | 2 => ⟨[3], [1, 0], rfl, by decide⟩
  | 1 => ⟨[3, 2], [0], rfl, by decide⟩
  | 0 => ⟨[3, 2, 1], [], rfl, by decide⟩

theorem Egress.strictClass_of_highest {k : Fin 4} (waiting : e.queues[k].frames ≠ [])
    (above : ∀ j : Fin 4, k < j → e.queues[j].frames = []) : e.strictClass = some k := by
  obtain ⟨before, after, order, higher⟩ := searchOrder_before k
  rw [Egress.strictClass, List.find?_eq_some_iff_append]
  refine ⟨?_, before, after, order, fun j hj => ?_⟩
  · rw [Bool.not_eq_true', List.isEmpty_eq_false_iff]; exact waiting
  · rw [above j (higher j hj)]; rfl

theorem Egress.strictPick_of_class {k : Fin 4} {f : QFrame} {rest : List QFrame} (chosen : e.strictClass = some k)
    (head : e.queues[k].frames = f :: rest) : e.strictPick = some (f, k, e.withFrames k rest e.queues[k].deficit) := by
  simp only [Egress.strictPick, chosen, head]

theorem Egress.pick_of_empty (empty : e.empty = true) : e.pick = none := by
  rw [Egress.pick, if_pos empty]

theorem Egress.pick_of_strict (nonempty : ¬ e.empty = true) (strict : e.mode = .strict) : e.pick = e.strictPick := by
  rw [Egress.pick, if_neg nonempty, strict]

end

/-- Settles O20: the search from class 3 down stops at the highest non-empty class, and its queue is written back with its own
deficit. -/
theorem strictChoiceTakesHighestClass : Obligations.StrictChoiceTakesHighestClass := by
  intro e strict
  refine ⟨fun allEmpty => Egress.pick_of_empty (Egress.empty_iff.mpr allEmpty), fun k f rest head above => ?_⟩
  have waiting : e.queues[k].frames ≠ [] := head ▸ List.cons_ne_nil f rest
  have nonempty : ¬ e.empty = true := fun empty => waiting (Egress.empty_iff.mp empty k)
  have chosen : e.strictClass = some k := Egress.strictClass_of_highest waiting above
  calc e.pick = e.strictPick := Egress.pick_of_strict nonempty strict
    _ = some (f, k, e.withFrames k rest e.queues[k].deficit) := Egress.strictPick_of_class chosen head

end Sys2Proof.Machine
end

section
/-! A character on the wire: its length, its parity bit, and its reception (R62, R65). -/

namespace Sys2Proof.Machine

/-! ### The parity bit (R62) -/

theorem succ_mod_two_beq_one (n : Nat) : ((n + 1) % 2 == 1) = !(n % 2 == 1) := by
  rcases Nat.mod_two_eq_zero_or_one n with even | odd
  · have next : (n + 1) % 2 = 1 := by omega
    rw [even, next]; rfl
  · have next : (n + 1) % 2 = 0 := by omega
    rw [odd, next]; rfl

theorem foldl_bne_eq (start : Bool) (bits : List Bool) :
    bits.foldl (fun a b => a != b) start = (start != ((bits.filter id).length % 2 == 1)) := by
  induction bits generalizing start with
  | nil => cases start <;> rfl
  | cons bit rest ih =>
    rw [List.foldl_cons, ih]
    cases bit with
    | false => rw [Bool.bne_false, List.filter_cons_of_neg (by decide)]
    | true =>
      rw [List.filter_cons_of_pos rfl, List.length_cons, succ_mod_two_beq_one, Bool.bne_assoc, Bool.true_bne]

theorem oddOnes_eq (bits : List Bool) : oddOnes bits = ((bits.filter id).length % 2 == 1) := by
  rw [oddOnes, foldl_bne_eq, Bool.false_bne]

theorem not_oddOnes_eq (bits : List Bool) : (!oddOnes bits) = ((bits.filter id).length % 2 == 0) := by
  rw [oddOnes_eq]
  rcases Nat.mod_two_eq_zero_or_one (bits.filter id).length with even | odd
  · rw [even]; rfl
  · rw [odd]; rfl

theorem parityBitOf_even (data : List Bool) : parityBitOf .even data = [(data.filter id).length % 2 == 1] := by
  rw [parityBitOf, oddOnes_eq]

theorem parityBitOf_odd (data : List Bool) : parityBitOf .odd data = [(data.filter id).length % 2 == 0] := by
  rw [parityBitOf, not_oddOnes_eq]

/-! ### The bits of a character and their number (R62) -/

section
variable (c : CharSettings) (b : Byte)

@[simp] theorem dataBitsOf_length : (dataBitsOf c b).length = c.dataBits := by
  rw [dataBitsOf, List.length_map, List.length_range]

@[simp] theorem parityBitOf_length (data : List Bool) : (parityBitOf c.parity data).length = c.parityBits := by
  rw [CharSettings.parityBits]
  cases c.parity <;> rfl

/-- What follows the start bit on the wire. -/
theorem wireBits_drop_one : (wireBits c b).drop 1 =
    dataBitsOf c b ++ parityBitOf c.parity (dataBitsOf c b) ++ List.replicate c.stopBits true := rfl

variable {c b} in
theorem wireBits_eq_of_parityBitOf {par : List Bool} (parity : parityBitOf c.parity (dataBitsOf c b) = par) :
    wireBits c b = [false] ++ dataBitsOf c b ++ par ++ List.replicate c.stopBits true := by
  rw [← parity]; rfl

theorem wireBits_length : (wireBits c b).length = c.frameBits := by
  simp only [wireBits, CharSettings.frameBits, List.length_append, List.length_cons, List.length_replicate, dataBitsOf_length,
    parityBitOf_length]
  omega

end

/-! ### The value of the data bits (R65) -/

section
variable (a : Nat) (bit : Bool)

theorem boolNat_lt_two : boolNat bit < 2 := by cases bit <;> decide

theorem testBit_double_add_boolNat_zero : (2 * a + boolNat bit).testBit 0 = bit := by
  have remainder : (2 * a + boolNat bit) % 2 = boolNat bit := by have := boolNat_lt_two bit; omega
  rw [Nat.testBit_zero, remainder]
  cases bit <;> rfl

theorem testBit_double_add_boolNat_succ (k : Nat) : (2 * a + boolNat bit).testBit (k + 1) = a.testBit k := by
  have half : (2 * a + boolNat bit) / 2 = a := by have := boolNat_lt_two bit; omega
  rw [Nat.testBit_add_one, half]

end

theorem testBit_foldr_bits (bits : List Bool) (i : Nat) :
    (bits.foldr (fun b a => 2 * a + boolNat b) 0).testBit i = bits.getD i false := by
  induction bits generalizing i with
  | nil => exact Nat.zero_testBit i
  | cons bit rest ih =>
    rw [List.foldr_cons]
    cases i with
    | zero => rw [testBit_double_add_boolNat_zero, List.getD_cons_zero]
    | succ k => rw [testBit_double_add_boolNat_succ, ih, List.getD_cons_succ]

theorem dataValue_getLsbD (bits : List Bool) (i : Nat) :
    (dataValue bits).getLsbD i = (decide (i < 8) && bits.getD i false) := by
  rw [dataValue, BitVec.getLsbD_ofNat, testBit_foldr_bits]

theorem dataBitsOf_getD (c : CharSettings) (b : Byte) (i : Nat) :
    (dataBitsOf c b).getD i false = (decide (i < c.dataBits) && b.getLsbD i) := by
  rw [dataBitsOf, List.getD_eq_getElem?_getD, List.getElem?_map]
  by_cases inside : i < c.dataBits <;> simp [inside]

/-- The bits the setting does not send are low in a byte that fits it. -/
theorem getLsbD_eq_false_of_fits {c : CharSettings} {b : Byte} (fits : b.toNat < 128 ∨ c.eight = true) {i : Nat}
    (beyond : ¬ i < c.dataBits) : b.getLsbD i = false := by
  rw [CharSettings.dataBits] at beyond
  by_cases eight : c.eight = true
  · rw [if_pos eight] at beyond
    exact BitVec.getLsbD_of_ge b i (Nat.le_of_not_lt beyond)
  · rw [if_neg eight] at beyond
    have small : b.toNat < 2 ^ i :=
      calc b.toNat < 2 ^ 7 := fits.resolve_right eight
        _ ≤ 2 ^ i := Nat.pow_le_pow_right Nat.two_pos (Nat.le_of_not_lt beyond)
    exact Nat.testBit_lt_two_pow small

theorem dataValue_dataBitsOf {c : CharSettings} {b : Byte} (fits : b.toNat < 128 ∨ c.eight = true) :
    dataValue (dataBitsOf c b) = b := by
  refine BitVec.eq_of_getLsbD_eq fun i bound => ?_
  rw [dataValue_getLsbD, dataBitsOf_getD, decide_eq_true bound, Bool.true_and]
  by_cases inside : i < c.dataBits
  · rw [decide_eq_true inside, Bool.true_and]
  · rw [decide_eq_false inside, Bool.false_and, getLsbD_eq_false_of_fits fits inside]

/-! ### Reception (R65) -/

/-- The receiver cuts the samples where the sender joined them. -/
theorem judgeCharacter_append {c : CharSettings} {data par : List Bool} (stop : List Bool) (dataLength : data.length = c.dataBits)
    (parLength : par.length = c.parityBits) : judgeCharacter c (data ++ par ++ stop) =
      (dataValue data, stop.any (fun b => !b), par != parityBitOf c.parity data) := by
  have takeData : (data ++ par ++ stop).take c.dataBits = data := by
    rw [List.append_assoc, List.take_left' dataLength]
  have takePar : ((data ++ par ++ stop).drop c.dataBits).take c.parityBits = par := by
    rw [List.append_assoc, List.drop_left' dataLength, List.take_left' parLength]
  have dropBoth : (data ++ par ++ stop).drop (c.dataBits + c.parityBits) = stop :=
    List.drop_left' (by rw [List.length_append, dataLength, parLength])
  simp only [judgeCharacter, takeData, takePar, dropBoth]

theorem judgeCharacter_wireBits {c : CharSettings} {b : Byte} (fits : b.toNat < 128 ∨ c.eight = true) :
    judgeCharacter c ((wireBits c b).drop 1) = (b, false, false) := by
  have stopHigh : (List.replicate c.stopBits true).any (fun b => !b) = false :=
    List.any_eq_false.mpr fun bit member => by rw [List.eq_of_mem_replicate member]; decide
  rw [wireBits_drop_one, judgeCharacter_append _ (dataBitsOf_length c b) (parityBitOf_length c _), dataValue_dataBitsOf fits,
    stopHigh, bne_self_eq_false]

/-! ### The obligation -/

/-- Settles O43: the parity bit by counting the high data bits, the length by parts, and reception because the receiver cuts the
samples where the sender joined them. -/
theorem characterOnTheWire : Obligations.CharacterOnTheWire := by
  intro c b data ones
  refine ⟨fun absent => ?_, fun even => ?_, fun odd => ?_, judgeCharacter_wireBits, (wireBits_length c b).symm, ?_⟩
  · have noBit : parityBitOf c.parity data = [] := absent ▸ rfl
    rw [wireBits_eq_of_parityBitOf noBit, List.append_nil]; rfl
  · exact wireBits_eq_of_parityBitOf (even ▸ parityBitOf_even data)
  · exact wireBits_eq_of_parityBitOf (odd ▸ parityBitOf_odd data)
  · rw [CharSettings.cycles, wireBits_length]

end Sys2Proof.Machine
end

section
/-! Facts about `if`s and lists that core Lean does not have: the files of the package import no library. -/

namespace Sys2Proof.Machine

section
variable {α β : Type} {p q : Prop} [Decidable p] [Decidable q]

theorem if_congr {x y u v : α} (test : p ↔ q) (first : x = u) (second : y = v) : (if p then x else y) = if q then u else v :=
  ite_congr (propext test) (fun _ => first) fun _ => second

theorem ite_or {x y : α} : (if p ∨ q then x else y) = if p then x else if q then x else y := by
  by_cases first : p
  · rw [if_pos (.inl first), if_pos first]
  · rw [if_neg first]
    exact if_congr (or_iff_right first) rfl rfl

/-- Induction on a list from its end. -/
theorem snoc_induction {motive : List α → Prop} (nil : motive []) (snoc : ∀ xs x, motive xs → motive (xs ++ [x])) (xs : List α) :
    motive xs := by
  rw [← List.reverse_reverse (as := xs)]
  induction xs.reverse with
  | nil => exact nil
  | cons x xs ih =>
    rw [List.reverse_cons]
    exact snoc _ x ih

/-- A function that tells the elements of a list apart is injective on it. -/
theorem eq_of_nodup_map {f : α → β} {xs : List α} (once : (xs.map f).Nodup) {x y : α} (memberX : x ∈ xs) (memberY : y ∈ xs)
    (same : f x = f y) : x = y := by
  induction xs with
  | nil => exact nomatch memberX
  | cons z zs ih =>
    obtain ⟨other, once⟩ := List.nodup_cons.mp (List.map_cons ▸ once)
    rcases List.mem_cons.mp memberX with rfl | restX <;> rcases List.mem_cons.mp memberY with rfl | restY
    · rfl
    · exact absurd (same ▸ List.mem_map_of_mem restY) other
    · exact absurd (same ▸ List.mem_map_of_mem restX) other
    · exact ih once restX restY

theorem nodup_of_nodup_map {f : α → β} {xs : List α} (once : (xs.map f).Nodup) : xs.Nodup :=
  (List.pairwise_map.mp once).imp fun other same => other (congrArg f same)

end

end Sys2Proof.Machine
end

section
/-! What a command keeps of the properties of Safety, and the statements on every step that rest on it. -/

namespace Sys2Proof.Machine

/-- Every command answers a next state, and that state keeps the properties of Safety: the one case split over the commands. -/
theorem exec_sound (c : Instr) (s : State) : ∃ t, exec c s = .next t ∧ Sound s t := by
  cases c with
  | powerOn straps => exact ⟨_, rfl, Sound.powerUp straps s⟩
  | loaderDone ack => exact ⟨_, rfl, Sound.loaderDone ack s⟩
  | linkUp p speed => exact ⟨_, rfl, (Sound.linkUp p speed s).sound⟩
  | linkDown p => exact ⟨_, rfl, (Sound.linkDown p s).sound⟩
  | frameArrival p bytes fcsGood => exact ⟨_, rfl, Sound.frameArrival p bytes fcsGood s⟩
  | transmissionComplete p => exact ⟨_, rfl, (Sound.transmissionComplete p s).sound⟩
  | shaperWaitExpiry sh => exact ⟨_, rfl, (Sound.shaperWaitExpiry sh s).sound⟩
  | shaperBlockedRetry sh => exact ⟨_, rfl, (Sound.shaperBlockedRetry sh s).sound⟩
  | agentTakeFrame => exact ⟨_, rfl, Sound.agentTakeFrame s⟩
  | outQueueRetry => exact ⟨_, rfl, (Sound.outQueueRetry s).sound⟩
  | identify => exact ⟨_, rfl, Sound.runKeeps s _ _ fun _ t => .refl t⟩
  | tableRead => exact ⟨_, rfl, Sound.runKeeps s _ _ Sound.tableRead⟩
  | tableWriteUnknown => exact ⟨_, rfl, Sound.runKeeps s _ _ fun _ t => .refl t⟩
  | tableWriteDomain => exact ⟨_, rfl, Sound.runWrite s _ _⟩
  | tableWriteMgmtDomain => exact ⟨_, rfl, Sound.runWrite s _ _⟩
  | tableWriteSteering => exact ⟨_, rfl, Sound.runWrite s _ _⟩
  | tableWritePcpMap => exact ⟨_, rfl, Sound.runWrite s _ _⟩
  | tableWritePort => exact ⟨_, rfl, Sound.runWrite s _ _⟩
  | tableWriteMeter => exact ⟨_, rfl, Sound.runWrite s _ _⟩
  | tableWriteMeterSettings => exact ⟨_, rfl, Sound.runWrite s _ _⟩
  | tableWriteQueue => exact ⟨_, rfl, Sound.runWrite s _ _⟩
  | tableWritePool => exact ⟨_, rfl, Sound.runWrite s _ _⟩
  | tableWriteOperator => exact ⟨_, rfl, Sound.runWrite s _ _⟩
  | tableWriteConsoleLine => exact ⟨_, rfl, Sound.runWrite s _ _⟩
  | tableWriteConsoleHistory => exact ⟨_, rfl, Sound.runWrite s _ _⟩
  | tableWritePattern => exact ⟨_, rfl, Sound.runWrite s _ _⟩
  | tableWriteRegion => exact ⟨_, rfl, Sound.runWrite s _ _⟩
  | tableWriteMediaParams => exact ⟨_, rfl, Sound.runWrite s _ _⟩
  | tableWriteLine => exact ⟨_, rfl, Sound.runWrite s _ _⟩
  | tableWriteSense => exact ⟨_, rfl, Sound.runWrite s _ _⟩
  | tableWriteSenseTrigger => exact ⟨_, rfl, Sound.runWrite s _ _⟩
  | tableWriteScriptDir => exact ⟨_, rfl, Sound.runWrite s _ _⟩
  | tableWriteScriptStep => exact ⟨_, rfl, Sound.runWrite s _ _⟩
  | recordUnknownType => exact ⟨_, rfl, Sound.recordUnknown s⟩
  | consoleBaud => exact ⟨_, rfl, Sound.runKeeps s _ _ Sound.consoleBaud⟩
  | consoleBaudAuto => exact ⟨_, rfl, Sound.runKeeps s _ _ Sound.consoleBaudAuto⟩
  | consoleClaim => exact ⟨_, rfl, Sound.runKeeps s _ _ fun _ t => Sound.claim _ t⟩
  | consoleClaimForce => exact ⟨_, rfl, Sound.runKeeps s _ _ fun _ t => Sound.claim _ t⟩
  | consoleRelease => exact ⟨_, rfl, Sound.runKeeps s _ _ Sound.consoleRelease⟩
  | consoleType => exact ⟨_, rfl, Sound.runKeeps s _ _ Sound.consoleType⟩
  | consoleBreak => exact ⟨_, rfl, Sound.runKeeps s _ _ Sound.consoleBreak⟩
  | consoleMark => exact ⟨_, rfl, Sound.runKeeps s _ _ Sound.consoleMark⟩
  | consoleMarks => exact ⟨_, rfl, Sound.runKeeps s _ _ Sound.consoleMarks⟩
  | consoleArm => exact ⟨_, rfl, Sound.runKeeps s _ _ Sound.consoleArm⟩
  | consoleWatch => exact ⟨_, rfl, Sound.runKeeps s _ _ Sound.consoleWatch⟩
  | consoleUnwatch => exact ⟨_, rfl, Sound.runKeeps s _ _ Sound.consoleUnwatch⟩
  | consoleFetch => exact ⟨_, rfl, Sound.runKeeps s _ _ Sound.consoleFetch⟩
  | mediaAttach => exact ⟨_, rfl, Sound.runKeeps s _ _ Sound.mediaAttach⟩
  | mediaDetach => exact ⟨_, rfl, Sound.runKeeps s _ _ (Sound.detach _)⟩
  | mediaDetachDiscard => exact ⟨_, rfl, Sound.runKeeps s _ _ (Sound.detach _)⟩
  | mediaResume => exact ⟨_, rfl, Sound.runKeeps s _ _ Sound.mediaResume⟩
  | mediaStatus => exact ⟨_, rfl, Sound.runKeeps s _ _ Sound.mediaStatus⟩
  | powerRequest => exact ⟨_, rfl, Sound.runKeeps s _ _ Sound.powerRequest⟩
  | powerCancelRunning => exact ⟨_, rfl, Sound.runKeeps s _ _ Sound.cancelRunning⟩
  | powerCancelQueued => exact ⟨_, rfl, Sound.runKeeps s _ _ Sound.cancelQueued⟩
  | powerStatus => exact ⟨_, rfl, Sound.runKeeps s _ _ fun _ t => .refl t⟩
  | lineStatus => exact ⟨_, rfl, Sound.runKeeps s _ _ fun _ t => .refl t⟩
  | timeSet => exact ⟨_, rfl, Sound.runKeeps s _ _ Sound.timeSet⟩
  | statsRead => exact ⟨_, rfl, Sound.runRecord s _ _ fun r t => Sound.statsRead _ r t⟩
  | statsReadClear => exact ⟨_, rfl, Sound.runRecord s _ _ fun r t => Sound.statsRead _ r t⟩
  | store => exact ⟨_, rfl, Sound.runKeeps s _ _ Sound.storeImage⟩
  | storeComplete agreed => exact ⟨_, rfl, (Sound.storeComplete agreed s).sound⟩
  | restart => exact ⟨_, rfl, (Sound.runRestart s _ _).sound⟩
  | restartForce => exact ⟨_, rfl, (Sound.runRestart s _ _).sound⟩
  | restartBegin => exact ⟨_, rfl, Sound.restartBegin s⟩
  | restartReloadDone ack => exact ⟨_, rfl, Sound.restartReloadDone ack s⟩
  | rxCharacter samples rose => exact ⟨_, rfl, (Sound.rxCharacter samples rose s).sound⟩
  | breakDetected => exact ⟨_, rfl, (Sound.breakDetected s).sound⟩
  | breakInEnd => exact ⟨_, rfl, (Sound.breakInEnd s).sound⟩
  | autobaudInterval cycles => exact ⟨_, rfl, (Sound.autobaudInterval cycles s).sound⟩
  | autobaudOverflow => exact ⟨_, rfl, (Sound.autobaudOverflow s).sound⟩
  | autobaudTimeout => exact ⟨_, rfl, (Sound.autobaudTimeout s).sound⟩
  | txCharacterDone => exact ⟨_, rfl, (Sound.txCharacterDone s).sound⟩
  | breakOutEnd => exact ⟨_, rfl, (Sound.breakOutEnd s).sound⟩
  | breakGapEnd => exact ⟨_, rfl, (Sound.breakGapEnd s).sound⟩
  | ctsAssert => exact ⟨_, rfl, (Sound.ctsAssert s).sound⟩
  | consoleIdleExpiry => exact ⟨_, rfl, (Keeps.releaseIfIdle s).sound⟩
  | pushDelayExpiry w => exact ⟨_, rfl, (Sound.pushDelayExpiry w s).sound⟩
  | epochAnchorAdvance => exact ⟨_, rfl, (Sound.epochAnchorAdvance s).sound⟩
  | blkRead => exact ⟨_, rfl, (Sound.blkRead s).sound⟩
  | blkWrite => exact ⟨_, rfl, (Sound.blkWrite s).sound⟩
  | blkInquire => exact ⟨_, rfl, (Sound.blkInquire s).sound⟩
  | blkSync => exact ⟨_, rfl, (Sound.blkSync s).sound⟩
  | blkMalformed => exact ⟨_, rfl, (Sound.blkMalformed s).sound⟩
  | imgInfo => exact ⟨_, rfl, (Sound.imgInfo s).sound⟩
  | imgData => exact ⟨_, rfl, (Sound.imgData s).sound⟩
  | imgWriteAck => exact ⟨_, rfl, (Sound.imgWriteAck s).sound⟩
  | imgMalformedAnswer => exact ⟨_, rfl, (Sound.imgMalformedAnswer s).sound⟩
  | transferIssue => exact ⟨_, rfl, (Sound.transferIssue s).sound⟩
  | transferDeadline e => exact ⟨_, rfl, (Sound.transferDeadline e s).sound⟩
  | resourceRescan => exact ⟨_, rfl, (Sound.resourceRescan s).sound⟩
  | heldDeadline k => exact ⟨_, rfl, (Sound.heldDeadline k s).sound⟩
  | scriptDelayExpiry => exact ⟨_, rfl, (Sound.scriptDelayExpiry s).sound⟩
  | stepPause => exact ⟨_, rfl, (Sound.stepPause s).sound⟩
  | stepBootOpen => exact ⟨_, rfl, (Sound.stepBootOpen s).sound⟩
  | stepBootClose => exact ⟨_, rfl, (Sound.stepBootClose s).sound⟩
  | stepHoldS => exact ⟨_, rfl, (Sound.stepHoldS s).sound⟩
  | stepReleaseS => exact ⟨_, rfl, (Sound.stepReleaseS s).sound⟩
  | stepMark => exact ⟨_, rfl, (Sound.stepMark s).sound⟩
  | stepNotify => exact ⟨_, rfl, (Sound.stepNotify s).sound⟩
  | stepFail => exact ⟨_, rfl, (Sound.stepFail s).sound⟩
  | stepDrive => exact ⟨_, rfl, (Sound.stepDrive s).sound⟩
  | stepCall => exact ⟨_, rfl, (Sound.stepCall s).sound⟩
  | stepEnd => exact ⟨_, rfl, (Sound.stepEnd s).sound⟩
  | awaitTimeout => exact ⟨_, rfl, (Sound.awaitTimeout s).sound⟩
  | guardWaitExpiry => exact ⟨_, rfl, (Sound.guardWaitExpiry s).sound⟩
  | bootWindowExpiry => exact ⟨_, rfl, (Sound.bootWindowExpiry s).sound⟩
  | senseRawChange k level => exact ⟨_, rfl, (Sound.senseRawChange k level s).sound⟩
  | senseChangeDue k => exact ⟨_, rfl, (Sound.senseChangeDue k s).sound⟩
  | senseEstablishmentDue k => exact ⟨_, rfl, (Sound.senseEstablishmentDue k s).sound⟩
  | rxdFallingEdge => exact ⟨_, rfl, (Sound.rxdFallingEdge s).sound⟩
  | falseStart => exact ⟨_, rfl, (Sound.falseStart s).sound⟩
  | ctsDeassert => exact ⟨_, rfl, (Sound.ctsDeassert s).sound⟩
  | powerLoss => exact ⟨_, rfl, Sound.powerOn ..⟩

theorem Keeps.startSampled (s : State) : Keeps s s.startSampled := by
  unfold State.startSampled
  split
  · split
    · exact Keeps.setRx ..
    · exact .refl s
  · exact .refl s

theorem Keeps.tick (s : State) : Keeps s s.tick := by
  unfold State.tick
  split
  · exact .refl s
  · exact (Keeps.onClock ..).trans (Keeps.startSampled _)

theorem step_of_nil {s : State} (empty : s.pending = []) : step s = .next s.tick := by
  rw [step, empty]

theorem step_of_cons {s : State} {c : Instr} {rest : List Instr} (front : s.pending = c :: rest) :
    step s = exec c (s.withPending rest) := by
  rw [step, front]

/-- A step is the tick, or a command on the state without the queue's front. -/
theorem step_cases {s t : State} (h : step s = .next t) :
    (s.pending = [] ∧ t = s.tick) ∨ ∃ c rest, s.pending = c :: rest ∧ exec c (s.withPending rest) = .next t := by
  cases front : s.pending with
  | nil => exact .inl ⟨rfl, by rw [step_of_nil front] at h; exact (Host.Outcome.next.inj h).symm⟩
  | cons c rest => exact .inr ⟨c, rest, rfl, by rw [← step_of_cons front]; exact h⟩

/-- A property that the tick and every command keep, and that does not speak of the queue, is kept by every step. -/
theorem step_keeps {P : State → Prop} (ofQueue : ∀ s rest, P s → P (s.withPending rest)) (ofTick : ∀ s, P s → P s.tick)
    (ofExec : ∀ c s t, P s → exec c s = .next t → P t) {s t : State} (holds : P s) (h : step s = .next t) : P t := by
  obtain ⟨-, rfl⟩ | ⟨c, rest, -, ran⟩ := step_cases h
  · exact ofTick s holds
  · exact ofExec c _ t (ofQueue s rest holds) ran

theorem sound_of_exec {c : Instr} {s t : State} (h : exec c s = .next t) : Sound s t := by
  obtain ⟨u, ran, kept⟩ := exec_sound c s
  rw [h] at ran
  cases ran
  exact kept

/-! ### The obligations on every step -/

/-- Settles O4, from the case split over the commands. -/
theorem everyCommandKeepsQueue : Obligations.EveryCommandKeepsQueue := fun c s =>
  let ⟨t, ran, kept⟩ := exec_sound c s
  ⟨t, ran, kept.pending⟩

/-- Settles O6: the tick and every command keep the ranges of the meters. -/
theorem stepKeepsMetersInRange : Obligations.StepKeepsMetersInRange := fun _ _ =>
  step_keeps (fun _ _ h => h) (fun s => (Keeps.tick s).meters) fun _ _ _ h ran => (sound_of_exec ran).meters h

/-- Settles O7: the tick and every command leave an operator with ADMIN. -/
theorem stepKeepsSomeAdmin : Obligations.StepKeepsSomeAdmin := fun _ _ =>
  step_keeps (fun _ _ h => h) (fun s => (Keeps.tick s).sound.admin) fun _ _ _ h ran => (sound_of_exec ran).admin h

/-- Settles O9: the tick and every command keep the protections of the domain table. -/
theorem stepKeepsDomainProtections : Obligations.StepKeepsDomainProtections := fun _ _ =>
  step_keeps (fun _ _ h => { h with }) (fun s => (Keeps.tick s).sound.domains) fun _ _ _ h ran => (sound_of_exec ran).domains h

/-- Settles O10: the tick and every command keep the settings in their ranges. -/
theorem stepKeepsSettingsInRange : Obligations.StepKeepsSettingsInRange := fun _ _ =>
  step_keeps (fun _ _ h => { h with }) (fun s => (Keeps.tick s).settings) fun _ _ _ h ran => (sound_of_exec ran).settings h

/-- Settles O1: the front of the queue is what a step runs. -/
theorem stepRunsFrontCommand : Obligations.StepRunsFrontCommand := fun _ _ _ => step_of_cons

end Sys2Proof.Machine
end

section
/-! A step on an empty queue, and the state at reset. -/

namespace Sys2Proof.Machine

/-! ### The tick (R167, R64) -/

theorem surelyPassed_startSample (now since : Time) (c : CharSettings) :
    surelyPassed now since (c.samplePoint 0) = decide (c.div / 2 + 100 ≤ (now - since).toNat * 100) := by
  simp only [surelyPassed, elapsed, CharSettings.samplePoint, Config.coreCyclesPerUs, Nat.zero_mul, Nat.zero_add]

theorem startSampled_of_notStart {s : State} (other : ∀ c t, s.line.rx ≠ .start c t) : s.startSampled = s := by
  unfold State.startSampled
  split
  · exact absurd ‹_› (other _ _)
  · rfl

theorem startSampled_of_start {s : State} {c : CharSettings} {t : Time} (start : s.line.rx = .start c t) :
    s.startSampled = if c.div / 2 + 100 ≤ (s.clock.now - t).toNat * 100 then s.setRx (.character c t) else s := by
  simp only [State.startSampled, start, surelyPassed_startSample, decide_eq_true_eq]

theorem tick_of_off {s : State} (off : s.phase = .off) : s.tick = s := by rw [State.tick, if_pos off]

theorem tick_of_supplied {s : State} (supplied : s.phase ≠ .off) :
    s.tick = (s.onClock fun c => { c with now := c.now + 1 }).startSampled := by rw [State.tick, if_neg supplied]

/-- Settles O2: by the supply, and by whether the receiver waits for its start sample. -/
theorem idleStepIsOneMicrosecond : Obligations.IdleStepIsOneMicrosecond := by
  intro s empty
  rw [step_of_nil empty]
  refine ⟨fun off => ?_, fun supplied other => ?_, fun supplied c t start => ?_⟩
  · rw [tick_of_off off]
  · rw [tick_of_supplied supplied, startSampled_of_notStart (s := s.onClock _) other]; rfl
  · rw [tick_of_supplied supplied, startSampled_of_start (s := s.onClock _) start]
    by_cases sampled : c.div / 2 + 100 ≤ (s.clock.now + 1 - t).toNat * 100
    · rw [if_pos sampled]
      exact congrArg Host.Outcome.next (if_pos sampled)
    · rw [if_neg sampled, ← start]
      exact congrArg Host.Outcome.next (if_neg sampled)

/-! ### The state at reset (R170) -/

theorem reset_capacities : Capacities State.reset where
  agentInbox := Nat.zero_le _
  mediaInbox := Nat.zero_le _
  agentOut := Nat.zero_le _
  mediaOut := Nat.zero_le _
  classQueue p k := by cases p <;> exact Sound.factoryEgress.1 k
  ring := Nat.zero_le _
  marks := Nat.zero_le _
  notices := Nat.zero_le _
  fifo := Nat.zero_le _
  held := Nat.zero_le _
  requests := Nat.zero_le _
  stack _ running := nomatch running

theorem reset_metersInRange : MetersInRange State.reset := Sound.factoryMeters 0

theorem reset_someAdmin : SomeAdmin State.reset := ⟨0, Sound.factoryOperator⟩

theorem reset_holdBelongsToScript : HoldBelongsToScript State.reset := fun held => nomatch held

theorem reset_steering_invalid (k : Fin 64) : (State.reset.steer[k]).valid = false := by
  show ((Vector.replicate 64 Factory.steeringEntry)[k.val]).valid = false
  rw [Vector.getElem_replicate]; rfl

theorem reset_region (g : Fin 4) : State.reset.media.regions[g] = Factory.region := Vector.getElem_replicate ..

theorem reset_domainsSound : DomainsSound State.reset where
  vids := Sound.factoryDomains.1
  management := Sound.factoryDomains.2
  rewrites k _ valid := absurd (reset_steering_invalid k ▸ valid) Bool.false_ne_true
  images g valid := by rw [reset_region] at valid; exact nomatch valid

theorem reset_settingsInRange : SettingsInRange State.reset where
  pvid p := by cases p <;> decide
  pool := by decide
  queues p k := by cases p <;> exact Sound.factoryEgress.2 k
  div := by decide
  idle := by decide
  push := by decide
  transfers := by decide
  guard := by decide
  debounce := by decide
  dir := by decide

theorem reset_cellsSound : CellsSound State.reset where
  total := by unfold CellsAddUp; decide
  lines := List.nodup_nil
  built _ member := nomatch member
  blocked sh _ _ _ _ _ _ _ head := by cases sh <;> exact nomatch head

theorem reset_table (e : Fin 16) : State.reset.media.table[e] = ⟨0, none⟩ := Vector.getElem_replicate ..

theorem reset_cacheSound : CacheSound State.reset.media where
  lines := List.nodup_nil
  dirtyOnce := List.nodup_nil
  dirtyListed _ _ := ⟨fun listed => (nomatch listed), fun ⟨_, held, _⟩ => nomatch held⟩
  dirtyLimit := Nat.zero_le _
  filling _ held := nomatch held
  flushing _ held := nomatch held
  lineRegions _ held := nomatch held
  held _ waiting := nomatch waiting
  fetches := by decide
  inquiries := by decide

/-- Settles O3: each value by evaluating the state at reset, and the invariants by the factory content of the tables. -/
theorem resetHoldsPowerOnValues : Obligations.ResetHoldsPowerOnValues := by
  unfold Obligations.ResetHoldsPowerOnValues
  refine ⟨rfl, rfl, rfl, rfl, rfl, rfl, rfl, rfl, rfl, rfl, rfl, by decide, reset_steering_invalid, rfl, rfl, rfl, rfl, rfl, rfl, rfl,
    by decide, rfl, rfl, fun p => by cases p <;> decide, fun p => by cases p <;> decide, rfl, rfl, rfl, rfl, rfl, rfl, by decide,
    rfl, rfl, rfl, rfl, rfl, rfl, rfl, rfl, rfl, rfl, rfl, by decide, rfl, rfl, by decide, reset_region, rfl, rfl, rfl, reset_table,
    rfl, rfl, by decide, rfl, by decide, rfl, rfl, rfl, rfl, by decide, rfl, rfl, rfl, by decide, fun i => Vector.getElem_replicate ..,
    rfl, rfl, reset_capacities, reset_metersInRange, reset_someAdmin, reset_holdBelongsToScript, reset_domainsSound,
    reset_settingsInRange, reset_cellsSound, reset_cacheSound, List.Pairwise.nil⟩

end Sys2Proof.Machine
end

section
/-! Bytes and numbers: what a run of bytes spells, and what reading a field of a longer run yields (11.1). -/

namespace Sys2Proof.Machine

@[simp] theorem beNat_nil : beNat [] = 0 := rfl

theorem beNat_append_singleton (xs : List Byte) (b : Byte) : beNat (xs ++ [b]) = beNat xs * 256 + b.toNat := by
  rw [beNat, List.foldl_append]; rfl

theorem beNat_append (xs ys : List Byte) : beNat (xs ++ ys) = beNat xs * 256 ^ ys.length + beNat ys := by
  induction ys using snoc_induction with
  | nil => simp
  | snoc ys b ih =>
    rw [← List.append_assoc, beNat_append_singleton, ih, beNat_append_singleton, List.length_append, List.length_singleton, Nat.pow_succ,
      Nat.add_mul, Nat.mul_assoc, Nat.add_assoc]

theorem beNat_singleton (b : Byte) : beNat [b] = b.toNat := by simp [beNat]

theorem beNat_cons (b : Byte) (xs : List Byte) : beNat (b :: xs) = b.toNat * 256 ^ xs.length + beNat xs := by
  rw [← List.singleton_append, beNat_append, beNat_singleton]

theorem beNat_lt (xs : List Byte) : beNat xs < 256 ^ xs.length := by
  induction xs using snoc_induction with
  | nil => simp
  | snoc xs b ih =>
    have digit : b.toNat < 256 := b.isLt
    rw [beNat_append_singleton, List.length_append, List.length_singleton, Nat.pow_succ]
    omega

@[simp] theorem natBytes_length (n v : Nat) : (natBytes n v).length = n := by
  induction n generalizing v with
  | zero => rfl
  | succ n ih => rw [natBytes, List.length_append, ih]; rfl

theorem beNat_natBytes (n v : Nat) : beNat (natBytes n v) = v % 256 ^ n := by
  induction n generalizing v with
  | zero => rw [natBytes, beNat_nil, Nat.pow_zero, Nat.mod_one]
  | succ n ih =>
    have digits : 256 ^ (n + 1) = 256 * 256 ^ n := by rw [Nat.pow_succ, Nat.mul_comm]
    rw [natBytes, beNat_append_singleton, ih, BitVec.toNat_ofNat, digits, Nat.mod_mul]
    omega

theorem beNat_natBytes_of_lt {n v : Nat} (fits : v < 256 ^ n) : beNat (natBytes n v) = v := by
  rw [beNat_natBytes, Nat.mod_eq_of_lt fits]

/-- The bytes of a number it spells are the bytes themselves. -/
theorem natBytes_beNat (xs : List Byte) : natBytes xs.length (beNat xs) = xs := by
  induction xs using snoc_induction with
  | nil => rfl
  | snoc xs b ih =>
    have digit : b.toNat < 256 := b.isLt
    have high : (beNat xs * 256 + b.toNat) / 256 = beNat xs := by omega
    have low : BitVec.ofNat 8 (beNat xs * 256 + b.toNat) = b := by
      apply BitVec.eq_of_toNat_eq
      rw [BitVec.toNat_ofNat]
      omega
    rw [List.length_append, List.length_singleton, natBytes, beNat_append_singleton, high, ih, low]

@[simp] theorem natBytes_one (v : Nat) : natBytes 1 v = [BitVec.ofNat 8 v] := rfl

/-! ### Fields -/

section
variable {xs ys zs : List Byte} {off n : Nat}

/-- The field that stands after so many bytes. -/
theorem fieldAt_middle (before : xs.length = off) (length : ys.length = n) : fieldAt off n (xs ++ (ys ++ zs)) = beNat ys := by
  rw [fieldAt, List.drop_left' before, List.take_left' length]

theorem fieldAt_end (before : xs.length = off) (length : ys.length = n) : fieldAt off n (xs ++ ys) = beNat ys := by
  rw [fieldAt, List.drop_left' before, List.take_of_length_le (Nat.le_of_eq length)]

theorem fieldAt_start (length : xs.length = n) : fieldAt 0 n (xs ++ ys) = beNat xs := by
  rw [fieldAt, List.drop_zero, List.take_left' length]

/-- What stands before a field counts off its offset. -/
theorem fieldAt_append_right (before : xs.length ≤ off) : fieldAt off n (xs ++ ys) = fieldAt (off - xs.length) n ys := by
  rw [fieldAt, fieldAt, List.drop_append, List.drop_eq_nil_of_le before, List.nil_append]

end

theorem fieldAt_lt (off n : Nat) (bs : List Byte) : fieldAt off n bs < 256 ^ n :=
  calc fieldAt off n bs < 256 ^ ((bs.drop off).take n).length := beNat_lt _
    _ ≤ 256 ^ n := Nat.pow_le_pow_right (by decide) (by rw [List.length_take]; exact Nat.min_le_left ..)

@[simp] theorem beNat_flagByte (b : Bool) : beNat (flagByte b) = boolNat b := by cases b <;> rfl

@[simp] theorem flagByte_length (b : Bool) : (flagByte b).length = 1 := rfl

theorem toNat_append_byte {w : Nat} (x : BitVec w) (b : Byte) : (x ++ b).toNat = x.toNat * 256 + b.toNat := by
  rw [BitVec.toNat_append, ← Nat.shiftLeft_add_eq_or_of_lt b.isLt, Nat.shiftLeft_eq]

end Sys2Proof.Machine
end

section
/-! Frames read and resolved, and the places an arriving frame goes to (R6 to R18). -/

namespace Sys2Proof.Machine

/-! ### Reading a frame (R6) -/

theorem parseFrame_addresses (dst src rest : List Byte) (dstLength : dst.length = 6) (srcLength : src.length = 6) :
    (parseFrame (dst ++ src ++ rest)).dst = BitVec.ofNat 48 (beNat dst) ∧
      (parseFrame (dst ++ src ++ rest)).src = BitVec.ofNat 48 (beNat src) := by
  have first : macAt 0 (dst ++ src ++ rest) = BitVec.ofNat 48 (beNat dst) := by
    rw [macAt, List.append_assoc, fieldAt_start dstLength]
  have second : macAt 6 (dst ++ src ++ rest) = BitVec.ofNat 48 (beNat src) := by
    rw [macAt, List.append_assoc, fieldAt_middle dstLength srcLength]
  simp only [parseFrame, first, second]
  split <;> exact ⟨rfl, rfl⟩

/-- Six bytes as one word. -/
theorem ofNat_beNat_six (a b c d e f : Byte) : BitVec.ofNat 48 (beNat [a, b, c, d, e, f]) = a ++ b ++ c ++ d ++ e ++ f := by
  apply BitVec.eq_of_toNat_eq
  have bound : beNat [a, b, c, d, e, f] < 2 ^ 48 := lt_of_lt_of_eq (beNat_lt [a, b, c, d, e, f]) (by simp)
  rw [BitVec.toNat_ofNat, Nat.mod_eq_of_lt bound]
  simp only [toNat_append_byte, beNat_cons, beNat_nil, List.length_cons, List.length_nil]
  omega

theorem ofNat_beNat_two (a b : Byte) : BitVec.ofNat 16 (beNat [a, b]) = a ++ b := by
  apply BitVec.eq_of_toNat_eq
  have bound : beNat [a, b] < 2 ^ 16 := lt_of_lt_of_eq (beNat_lt [a, b]) (by simp)
  rw [BitVec.toNat_ofNat, Nat.mod_eq_of_lt bound]
  simp only [toNat_append_byte, beNat_cons, beNat_nil, List.length_cons, List.length_nil]
  omega

theorem isGroup_append (a b c d e f : Byte) : isGroup (a ++ b ++ c ++ d ++ e ++ f) = a.getLsbD 0 := by
  simp only [isGroup, BitVec.getLsbD_append]
  rfl

theorem append_eq_tag_iff (a b : Byte) : a ++ b = Config.etherTypeTag ↔ (a, b) = (0x81, 0x00) := by
  refine ⟨fun same => ?_, fun same => ?_⟩
  · have value := congrArg BitVec.toNat same
    have high : a.toNat < 256 := a.isLt
    have low : b.toNat < 256 := b.isLt
    rw [toNat_append_byte, show (Config.etherTypeTag).toNat = 0x81 * 256 from rfl] at value
    exact Prod.ext (BitVec.eq_of_toNat_eq (show a.toNat = 0x81 by omega)) (BitVec.eq_of_toNat_eq (show b.toNat = 0 by omega))
  · obtain ⟨rfl, rfl⟩ := Prod.mk.inj same
    rfl

section
variable {macs : List Byte} (rest : List Byte) (macsLength : macs.length = 12)
include macsLength

theorem etherType_field (a b : Byte) : BitVec.ofNat 16 (fieldAt 12 2 (macs ++ [a, b] ++ rest)) = a ++ b := by
  rw [List.append_assoc, fieldAt_middle (ys := [a, b]) (n := 2) macsLength rfl, ofNat_beNat_two]

theorem parseFrame_untagged {a b : Byte} (untagged : (a, b) ≠ (0x81, 0x00)) :
    (parseFrame (macs ++ [a, b] ++ rest)).tag = none ∧ (parseFrame (macs ++ [a, b] ++ rest)).etherType = a ++ b ∧
      (parseFrame (macs ++ [a, b] ++ rest)).payload = rest := by
  have payload : (macs ++ [a, b] ++ rest).drop 14 = rest := List.drop_left' (by rw [List.length_append, macsLength]; rfl)
  have other : ¬ a ++ b = Config.etherTypeTag := fun same => untagged ((append_eq_tag_iff a b).mp same)
  simp only [parseFrame, etherType_field rest macsLength, if_neg other]
  exact ⟨trivial, trivial, payload⟩

theorem parseFrame_tagged (hi lo a b : Byte) :
    let f := parseFrame (macs ++ [0x81, 0x00, hi, lo, a, b] ++ rest)
    f.tag = some ⟨⟨(hi.toNat * 256 + lo.toNat) / 8192 % 8, Nat.mod_lt _ (by decide)⟩, (hi.toNat * 256 + lo.toNat) % 4096⟩ ∧
      f.etherType = a ++ b ∧ f.payload = rest := by
  have split : macs ++ [0x81, 0x00, hi, lo, a, b] ++ rest = macs ++ [0x81, 0x00] ++ ([hi, lo] ++ ([a, b] ++ rest)) := by
    simp
  have head : (macs ++ [0x81, 0x00] : List Byte).length = 14 := by rw [List.length_append, macsLength]; rfl
  have tag : fieldAt 14 2 (macs ++ [0x81, 0x00] ++ ([hi, lo] ++ ([a, b] ++ rest))) = hi.toNat * 256 + lo.toNat := by
    rw [fieldAt_middle (ys := [hi, lo]) (n := 2) head rfl, beNat_cons, beNat_singleton]; rfl
  have type : BitVec.ofNat 16 (fieldAt 16 2 (macs ++ [0x81, 0x00] ++ ([hi, lo] ++ ([a, b] ++ rest)))) = a ++ b := by
    rw [← List.append_assoc, fieldAt_middle (ys := [a, b]) (n := 2) (by rw [List.length_append, head]; rfl) rfl, ofNat_beNat_two]
  have payload : (macs ++ [0x81, 0x00] ++ ([hi, lo] ++ ([a, b] ++ rest))).drop 18 = rest := by
    rw [← List.append_assoc, ← List.append_assoc]
    exact List.drop_left' (by simp [macsLength])
  dsimp only
  rw [split, parseFrame]
  simp only [etherType_field _ macsLength, tag, type, payload, show (0x81 : Byte) ++ (0x00 : Byte) = Config.etherTypeTag from rfl,
    if_true]
  exact ⟨trivial, trivial, trivial⟩

end

theorem toNat_tci (pcp : BitVec 3) (dei : BitVec 1) (vid : BitVec 12) :
    (pcp ++ dei ++ vid : BitVec 16).toNat = pcp.toNat * 8192 + dei.toNat * 4096 + vid.toNat := by
  rw [BitVec.toNat_append, ← Nat.shiftLeft_add_eq_or_of_lt vid.isLt, Nat.shiftLeft_eq, BitVec.toNat_append,
    ← Nat.shiftLeft_add_eq_or_of_lt dei.isLt, Nat.shiftLeft_eq]
  omega

/-! ### The domain of a frame (R6) -/

theorem resolveVid_eq_some_iff {pvid vid : Nat} {f : Frame} : resolveVid pvid f = some vid ↔
    (f.tag = none ∧ vid = pvid) ∨ (∃ t, f.tag = some t ∧ t.vid = 0 ∧ vid = pvid) ∨
      (∃ t, f.tag = some t ∧ t.vid ≠ 0 ∧ t.vid ≠ 4095 ∧ vid = t.vid) := by
  cases tag : f.tag with
  | none => simp [resolveVid, tag, eq_comm]
  | some t =>
    by_cases zero : t.vid = 0
    · simp [resolveVid, tag, zero, eq_comm]
    · by_cases last : t.vid = 4095
      · simp [resolveVid, tag, last]
      · simp [resolveVid, tag, zero, last, eq_comm]

theorem find_eq_some_iff {d : Domains} (vids : DomainVids d) {vid : Nat} {i : Fin 16} :
    d.find vid = some i ↔ (d.entries[i]).valid = true ∧ (d.entries[i]).vid = vid := by
  rw [Domains.find, firstIdx_eq_some_iff, Bool.and_eq_true, beq_iff_eq]
  refine ⟨And.left, fun hit => ⟨hit, fun j before => ?_⟩⟩
  rw [Bool.and_eq_false_iff, beq_eq_false_iff_ne]
  by_cases valid : (d.entries[j]).valid = true
  · exact .inr fun same => vids.2 j i (Fin.ne_of_lt before) valid hit.1 (same.trans hit.2.symm)
  · exact .inl (Bool.eq_false_iff.mpr valid)

theorem resolve_eq_some_iff {s : State} {p : Port} {f : Frame} {d : Fin 16} {vid : Nat} (vids : DomainVids s.dom) :
    s.resolve p f = some (d, vid) ↔ resolveVid (s.ports.set.get p).pvid f = some vid ∧ (s.dom.entries[d]).valid = true ∧
      (s.dom.entries[d]).vid = vid ∧ (s.dom.entries[d]).members.has p = true := by
  cases resolved : resolveVid (s.ports.set.get p).pvid f with
  | none => simp [State.resolve, resolved]
  | some v =>
    simp only [State.resolve, resolved, Option.map_eq_some_iff, Option.filter_eq_some_iff, find_eq_some_iff vids, Prod.mk.injEq,
      Option.some.injEq]
    exact ⟨fun ⟨_, ⟨⟨valid, same⟩, member⟩, here, vidHere⟩ => by subst here vidHere; exact ⟨rfl, valid, same, member⟩,
      fun ⟨vidHere, valid, same, member⟩ => ⟨d, ⟨⟨valid, same.trans vidHere.symm⟩, member⟩, rfl, vidHere⟩⟩

/-- Settles O12: the fields by their offsets, and the resolved domain because no two valid domains share a VID. -/
theorem resolvedDomainFollowsTag : Obligations.ResolvedDomainFollowsTag := by
  refine ⟨fun a b c d e f u v w x y z rest => ?_, fun m => ⟨rfl, rfl⟩, fun macs rest a b macsLength untagged =>
    parseFrame_untagged rest macsLength untagged, fun macs rest pcp dei vid a b macsLength => ?_,
    fun s p f d vid vids => ?_⟩
  · have addresses := parseFrame_addresses [a, b, c, d, e, f] [u, v, w, x, y, z] rest rfl rfl
    rw [ofNat_beNat_six, ofNat_beNat_six] at addresses
    exact ⟨addresses.1, addresses.2, by rw [isGroup_append]⟩
  · intro tci f
    obtain ⟨tag, type, payload⟩ := parseFrame_tagged rest macsLength (BitVec.ofNat 8 (tci.toNat / 256)) (BitVec.ofNat 8 tci.toNat) a b
    refine ⟨tag.trans ?_, type, payload⟩
    have value : tci.toNat = pcp.toNat * 8192 + dei.toNat * 4096 + vid.toNat := toNat_tci pcp dei vid
    have pcpBound := pcp.isLt
    have deiBound := dei.isLt
    have vidBound := vid.isLt
    have spelt : (BitVec.ofNat 8 (tci.toNat / 256)).toNat * 256 + (BitVec.ofNat 8 tci.toNat).toNat = tci.toNat := by
      rw [BitVec.toNat_ofNat, BitVec.toNat_ofNat]
      have := tci.isLt
      omega
    simp only [spelt, Option.some.injEq, Tag.mk.injEq, Fin.mk.injEq]
    omega
  · rw [resolve_eq_some_iff vids, resolveVid_eq_some_iff]

end Sys2Proof.Machine
end

section
/-! The places an arriving frame goes to, its steering, the meters and the class queues (R7 to R18, R21 to R34). -/

namespace Sys2Proof.Machine

/-! ### The places an arriving frame goes to (R7 to R9) -/

section
variable {s : State} {p : Port} {d : Fin 16} {vid : Nat} {f : Frame}

theorem forAgent_iff : s.forAgent p d f = true ↔ GoesToAgent s p d f := by
  simp only [State.forAgent, GoesToAgent, Config.etherTypeControl, Config.broadcast, Bool.and_eq_true, Bool.or_eq_true, beq_iff_eq,
    decide_eq_true_eq, and_assoc]

theorem forMedia_iff : s.forMedia p d f = true ↔ GoesToMedia s p d f := by
  cases p with
  | u => simp [State.forMedia, GoesToMedia, Config.etherTypeMedia, and_assoc]
  | s =>
    simp only [State.forMedia, GoesToMedia, Config.etherTypeMedia, Config.broadcast, Bool.and_eq_true, Bool.or_eq_true, beq_iff_eq,
      bne_iff_ne, and_assoc, true_and, reduceCtorEq, false_and, or_false]
    exact and_congr .rfl (and_congr .rfl and_comm)

theorem classify_of_held (atS : p = .s) (hold : s.ports.holdS = true) :
    s.classify p d vid f = s.onCnt p fun c => { c with held := c.held + 1 } := by
  rw [State.classify, if_pos ⟨atS, hold⟩]

/-- A frame that the hold lets pass and that is no control frame of the server. -/
theorem classify_of_passed (passes : p = .s → s.ports.holdS = false) (noControl : p = .s → f.etherType ≠ 0x88B5) :
    s.classify p d vid f = if s.forAgent p d f then s.admitAgent f
      else if s.forMedia p d f then s.admitMedia p d f else s.steerFrame p d vid f := by
  have free : ¬ (p = .s ∧ s.ports.holdS = true) := fun ⟨atS, hold⟩ => by rw [passes atS] at hold; exact Bool.false_ne_true hold
  have other : ¬ (p = .s ∧ f.etherType = Config.etherTypeControl) := fun ⟨atS, control⟩ => noControl atS control
  rw [State.classify, if_neg free, if_neg other]

theorem admitAgent_of_room (short : s.agent.inbox.length < 32) (fits : f.cells ≤ s.pool.free) :
    s.admitAgent f = (s.takeCells f.cells).onAgent fun a => { a with inbox := a.inbox ++ [f] } := by
  rw [State.admitAgent]; exact if_pos ⟨short, fits⟩

theorem admitAgent_of_full (full : 32 ≤ s.agent.inbox.length ∨ s.pool.free < f.cells) :
    s.admitAgent f = s.onCnt .u fun c => { c with agentFull := c.agentFull + 1 } := by
  rw [State.admitAgent, if_neg]
  rintro ⟨short, fits⟩
  exact full.elim (Nat.not_le.mpr short) (Nat.not_lt.mpr fits)

theorem admitMedia_of_room (short : s.media.inbox.length < 16) (fits : f.cells ≤ s.pool.free) :
    s.admitMedia p d f = (s.takeCells f.cells).onMedia fun m => { m with inbox := m.inbox ++ [⟨p, d, f⟩] } := by
  rw [State.admitMedia]; exact if_pos ⟨short, fits⟩

theorem admitMedia_of_full (full : 16 ≤ s.media.inbox.length ∨ s.pool.free < f.cells) :
    s.admitMedia p d f = s.onCnt p fun c => { c with mediaFull := c.mediaFull + 1 } := by
  rw [State.admitMedia, if_neg]
  rintro ⟨short, fits⟩
  exact full.elim (Nat.not_le.mpr short) (Nat.not_lt.mpr fits)

theorem classify_of_agent (goes : GoesToAgent s p d f) : s.classify p d vid f = s.admitAgent f := by
  have notS : p ≠ .s := by rw [goes.1]; decide
  rw [classify_of_passed (absurd · notS) (absurd · notS), if_pos (forAgent_iff.mpr goes)]

theorem classify_of_media (goes : GoesToMedia s p d f) (passes : p = .s → s.ports.holdS = false) :
    s.classify p d vid f = s.admitMedia p d f := by
  have noControl : f.etherType ≠ 0x88B5 := by rw [goes.1]; decide
  have noAgent : ¬ s.forAgent p d f = true := fun forAgent => noControl (forAgent_iff.mp forAgent).2.1
  rw [classify_of_passed passes fun _ => noControl, if_neg noAgent, if_pos (forMedia_iff.mpr goes)]

end

/-- Settles O13: the tests of the pass in their order. -/
theorem arrivalGoesToItsPlace : Obligations.ArrivalGoesToItsPlace := by
  intro s p d vid f
  refine ⟨fun atS hold => ?_, fun atS passes control => ?_, fun goes => ?_, fun goes passes => ?_, fun passes noAgent noMedia => ?_⟩
  · rw [classify_of_held atS hold, atS]
  · have free : ¬ (p = .s ∧ s.ports.holdS = true) := fun held => by rw [passes] at held; exact Bool.false_ne_true held.2
    rw [State.classify, if_neg free, if_pos ⟨atS, control⟩, atS]
  · rw [classify_of_agent goes]
    exact ⟨admitAgent_of_room, admitAgent_of_full⟩
  · rw [classify_of_media goes passes]
    exact ⟨admitMedia_of_room, admitMedia_of_full⟩
  · rw [classify_of_passed (fun atS => (passes atS).1) fun atS => (passes atS).2, if_neg (mt forAgent_iff.mp noAgent),
      if_neg (mt forMedia_iff.mp noMedia)]

/-! ### Steering (R14 to R18) -/

theorem matches_iff {e : Steering} {p : Port} {vid : Nat} {f : Frame} : e.matches p vid f = true ↔ MatchesFrame e p vid f := by
  have pcp : (!e.hasPcp || (match f.tag with | none => false | some t => e.pcp == t.pcp.val)) = true ↔
      (e.hasPcp = true → ∃ t, f.tag = some t ∧ e.pcp = t.pcp.val) := by
    cases e.hasPcp <;> cases f.tag <;> simp
  have implies (a b : Bool) : (!a || b) = true ↔ (a = true → b = true) := by cases a <;> simp
  unfold Steering.matches MatchesFrame
  simp only [Bool.and_eq_true, implies, beq_iff_eq, and_assoc]
  exact and_congr .rfl (and_congr .rfl (and_congr .rfl (and_congr .rfl (and_congr .rfl (and_congr .rfl ((implies _ _).symm.trans pcp))))))

section
variable {s : State} {p : Port} {d : Fin 16} {vid : Nat} {f : Frame}

theorem steeringMatch_eq_none (miss : ∀ k : Fin 64, ¬ MatchesFrame s.steer[k] p vid f) : steeringMatch s.steer p vid f = none :=
  firstIdx_eq_none_iff.mpr fun k => Bool.eq_false_iff.mpr (mt matches_iff.mp (miss k))

theorem steeringMatch_eq_some {k : Fin 64} (hit : MatchesFrame s.steer[k] p vid f)
    (before : ∀ j : Fin 64, j < k → ¬ MatchesFrame s.steer[j] p vid f) : steeringMatch s.steer p vid f = some k :=
  firstIdx_eq_some_iff.mpr ⟨matches_iff.mpr hit, fun j hj => Bool.eq_false_iff.mpr (mt matches_iff.mp (before j hj))⟩

/-- The state once entry `k` has matched: its hit counter has grown. -/
def State.steeringHit (s : State) (k : Fin 64) : State := s.setSteering k { s.steer[k] with hits := s.steer[k].hits + 1 }

theorem steerFrame_of_drop {k : Fin 64} (hit : steeringMatch s.steer p vid f = some k) (drop : (s.steer[k]).action = 1) :
    s.steerFrame p d vid f = (s.steeringHit k).onCnt p fun c => { c with steerDrop := c.steerDrop + 1 } := by
  have noForward : ¬ (s.steer[k]).action = 0 := by rw [drop]; decide
  simp only [State.steerFrame, hit, if_neg noForward]; rfl

theorem steerFrame_of_forward {k : Fin 64} (hit : steeringMatch s.steer p vid f = some k) (forward : (s.steer[k]).action = 0) :
    s.steerFrame p d vid f = (s.steeringHit k).police p d
      (frameClass (s.steer[k]).override s.pcp (s.ports.set.get p).defaultClass f) (s.steer[k]) f := by
  simp only [State.steerFrame, hit, if_pos forward]; rfl

theorem idx?_val {n : Nat} (i : Fin n) : idx? n i.val = some i := by rw [idx?, dif_pos i.isLt]

theorem police_of_noMeter {k : Fin 4} {e : Steering} (noMeter : e.meter = none) :
    s.police p d k e f = s.rewriteForward p d k e.rewrite f := by
  simp only [State.police, noMeter, Option.bind_none]

theorem police_of_meter {k : Fin 4} {e : Steering} {m : Fin 16} (meter : e.meter = some m.val) :
    s.police p d k e f =
      if ((s.meters.bank[m]).present s.clock.now (f.length + 20)).2
      then (s.setMeter m ((s.meters.bank[m]).present s.clock.now (f.length + 20)).1).rewriteForward p d k e.rewrite f
      else match (s.meters.bank[m]).mode with
        | .policeDrop => (s.setMeter m ((s.meters.bank[m]).present s.clock.now (f.length + 20)).1).onCnt p fun c =>
            { c with meterDrop := c.meterDrop + 1 }
        | .policeDemote => (s.setMeter m ((s.meters.bank[m]).present s.clock.now (f.length + 20)).1).rewriteForward p d 0 e.rewrite f := by
  simp only [State.police, meter, Option.bind_some, idx?_val]; rfl

end

/-- Settles O14: the first match by the order of the search, and then the branches of the entry. -/
theorem steeringDecidesFrame : Obligations.SteeringDecidesFrame := by
  refine ⟨fun s p d vid f => ⟨fun miss => ?_, fun k hit before => ?_⟩, fun o map dflt f le => ?_, fun map dflt f t tag => ?_,
    fun map dflt f untagged => ?_, fun s p d k f => ⟨rfl, fun r valid => ?_, fun r invalid => ?_, rfl, rfl⟩⟩
  · simp only [State.steerFrame, steeringMatch_eq_none miss]
  · have first := steeringMatch_eq_some hit before
    refine ⟨fun drop => steerFrame_of_drop first drop, fun forward noMeter => ?_, fun forward m meter => ?_⟩
    · rw [steerFrame_of_forward first forward, police_of_noMeter noMeter]; rfl
    · rw [steerFrame_of_forward first forward, police_of_meter meter]
      refine ⟨fun conforms => if_pos conforms, fun exceeds drop => ?_, fun exceeds demote => ?_⟩
      · refine (if_neg (Bool.eq_false_iff.mp exceeds)).trans ?_
        rw [show ((s.steeringHit k).meters.bank[m]).mode = .policeDrop from drop]; rfl
      · refine (if_neg (Bool.eq_false_iff.mp exceeds)).trans ?_
        rw [show ((s.steeringHit k).meters.bank[m]).mode = .policeDemote from demote]; rfl
  · exact Nat.min_eq_left le
  · simp only [frameClass, tag]
  · simp only [frameClass, untagged]
  · simp only [State.rewriteForward, State.rewriteDomain, idx?_val, Option.filter_some, valid, if_true]
  · simp only [State.rewriteForward, State.rewriteDomain, idx?_val, Option.filter_some, invalid, Bool.false_eq_true, if_false]

/-! ### Meters (R28, R29) -/

theorem elapsed_eq (now since : Time) : elapsed now since = (now.toNat + 2 ^ 48 - since.toNat) % 2 ^ 48 := by
  rw [elapsed, BitVec.toNat_sub]
  congr 1
  have := since.isLt
  omega

theorem creditAt_eq {m : Meter} {now : Time} {c : Nat}
    (full : (m.burst * 1000 + m.rate - 1) / m.rate ≤ elapsed now m.last → c = m.burst * 1000)
    (growing : elapsed now m.last < (m.burst * 1000 + m.rate - 1) / m.rate →
      c = min (m.burst * 1000) (m.credit + elapsed now m.last * m.rate)) : m.creditAt now = c := by
  simp only [Meter.creditAt]
  split
  · exact (full ‹_›).symm
  · exact (growing (Nat.lt_of_not_le ‹_›)).symm

/-- Settles O17: the updated credit is named first, then the charge is tested against it. -/
theorem meterFirstUpdatesCredit : Obligations.MeterFirstUpdatesCredit := by
  intro m n q
  refine ⟨fun free => if_pos free, fun metered => ?_⟩
  intro e c full growing
  have credit : m.creditAt n = c := creditAt_eq (by rw [elapsed_eq]; exact full) (by rw [elapsed_eq]; exact growing)
  rw [Meter.present, if_neg metered]
  simp only [credit]
  exact ⟨fun fits => if_pos fits, fun exceeds => if_neg (Nat.not_le.mpr exceeds)⟩

/-! ### Class queues (R21, R22, R34) -/

theorem length_le_cells (f : Frame) : f.length ≤ 128 * f.cells ∧ 128 * f.cells < f.length + 128 := by
  simp only [Frame.cells, cellsOf, Config.cellBytes]
  omega

/-- The queue's own limits refuse so many further cells (R34). -/
def ClassQueue.Full (q : ClassQueue) (cells : Nat) : Prop :=
  256 ≤ q.frames.length ∨ q.cellLimit < queuedCells q.frames + cells

theorem room_iff {q : ClassQueue} {cells : Nat} : q.room cells = true ↔ ¬ q.Full cells := by
  rw [ClassQueue.room, ClassQueue.Full, Bool.and_eq_true, decide_eq_true_eq, decide_eq_true_eq, not_or, Nat.not_le, Nat.not_lt]
  rfl

section
variable {s : State} {p : Port} {k : Fin 4} {need : Nat} {q : QFrame}

theorem offerClass_of_down (down : s.ports.link.get p = none) :
    s.offerClass p k need q = (.linkDown, s.onCnt p fun c => { c with linkDown := c.linkDown + 1 }) := by
  rw [State.offerClass, if_pos (by rw [down]; rfl)]

theorem offerClass_of_held (up : s.ports.link.get p ≠ none) (atS : p = .s) (hold : s.ports.holdS = true) :
    s.offerClass p k need q = (.held, s.onCnt p fun c => { c with held := c.held + 1 }) := by
  rw [State.offerClass, if_neg (mt Option.isNone_iff_eq_none.mp up), if_pos ⟨atS, hold⟩]

/-- Past link and hold, the queue's limits and the pool decide. -/
theorem offerClass_of_passed (up : s.ports.link.get p ≠ none) (passes : p = .s → s.ports.holdS = false) :
    s.offerClass p k need q =
      if ¬ ((s.sched.port.get p).queues[k]).room q.frame.cells = true then
        (.queueFull, s.onCnt p fun c => { c with queueFull := c.queueFull + 1 })
      else if s.pool.free < need then (.poolFull, s.onCnt p fun c => { c with poolFull := c.poolFull + 1 })
      else (.admitted, ((s.takeCells need).joinClass p k q).choose p) := by
  have free : ¬ (p = .s ∧ s.ports.holdS = true) := fun ⟨atS, hold⟩ => by rw [passes atS] at hold; exact Bool.false_ne_true hold
  rw [State.offerClass, if_neg (mt Option.isNone_iff_eq_none.mp up), if_neg free]
  simp only [Bool.not_eq_true, Bool.not_eq_true']

theorem choose_of_sending (sending : (s.sched.port.get p).tx ≠ none) : s.choose p = s := by
  rw [State.choose]
  split
  · exact absurd ‹_› sending
  · rfl

end

/-- Settles O16: the four tests in their order; a transmitter that sends makes no choice. -/
theorem classQueueAdmission : Obligations.ClassQueueAdmission := by
  refine ⟨fun f => ⟨?_, length_le_cells f⟩, fun _ => rfl, fun _ _ => rfl, fun s p k need q => ?_⟩
  · rw [Frame.length]; cases f.tag <;> rfl
  intro queue full
  refine ⟨offerClass_of_down, offerClass_of_held, fun up passes => ⟨fun isFull => ?_, fun notFull lacks => ?_, fun notFull has => ?_⟩⟩
  · rw [offerClass_of_passed up passes, if_pos (fun room => room_iff.mp room isFull)]
  · rw [offerClass_of_passed up passes, if_neg (not_not_intro (room_iff.mpr notFull)), if_pos lacks]
  · intro joined
    have joins : (s.takeCells need).joinClass p k q = joined := rfl
    refine ⟨?_, fun sending => choose_of_sending ?_⟩
    · rw [offerClass_of_passed up passes, if_neg (not_not_intro (room_iff.mpr notFull)), if_neg (Nat.not_lt.mpr has), joins]
    · rw [← joins, State.joinClass, State.onEgress_sched_port, PerPort.get_set]
      exact sending

end Sys2Proof.Machine
end

section
/-! Links and transmissions, the walk of the visit pointer, and the shapers (R1, R2, R31 to R39). -/

namespace Sys2Proof.Machine

/-! ### Links (R1, R2, R39) -/

theorem Egress.discarded_eq (e : Egress) :
    e.discarded = (e.queues.toList.map fun q => q.frames).flatten ++ (e.tx.map (·.q)).toList := by
  rw [Egress.discarded]
  cases e.tx <;> rfl

theorem Egress.flushed_eq (e : Egress) : e.flushed =
    { e with queues := e.queues.map fun q => { q with frames := [], deficit := 0 }, visit := 3, granted := false } := by
  have queues : (Vector.ofFn fun k : Fin 4 => { e.queues[k] with frames := [], deficit := 0 }) =
      e.queues.map fun q => { q with frames := [], deficit := 0 } := by
    ext1 i bound
    rw [Vector.getElem_ofFn, Vector.getElem_map]; rfl
  rw [Egress.flushed, queues]

theorem linkUp_of_inService {s : State} {p : Port} (inService : s.phase = .running ∨ s.phase = .reloading)
    (down : s.ports.link.get p = none) (v : Speed) : s.linkUp p v =
      ((s.setPhy p (some v)).setLink p (some v)).onCnt p fun c => { c with linkChanges := c.linkChanges + 1 } := by
  rw [State.linkUp]; exact if_pos ⟨inService, down⟩

theorem linkUp_of_not {s : State} {p : Port} (not : ¬ ((s.phase = .running ∨ s.phase = .reloading) ∧ s.ports.link.get p = none))
    (v : Speed) : s.linkUp p v = s.setPhy p (some v) := by
  rw [State.linkUp]; exact if_neg not

theorem linkDown_of_down {s : State} {p : Port} (down : s.ports.link.get p = none) : s.linkDown p = s.setPhy p none := by
  simp only [State.linkDown, down]

theorem linkDown_of_up {s : State} {p : Port} {v : Speed} (up : s.ports.link.get p = some v) : s.linkDown p =
    (((s.setPhy p none).setLink p none).onCnt p fun c => { c with linkChanges := c.linkChanges + 1 }).flushLink p := by
  simp only [State.linkDown, up]

theorem frameArrival_of_down {s : State} {p : Port} (down : s.ports.link.get p = none) (bytes : List Byte) (fcsGood : Bool) :
    s.frameArrival p bytes fcsGood = s := by
  simp only [State.frameArrival, down]

theorem noteGone_eq (s : State) (os : List Origin) :
    s.noteGone os = s.onAgent fun a => { a with restartGone := a.restartGone || os.contains .restartReply } := by
  cases gone : os.contains .restartReply with
  | true => simp only [State.noteGone, gone, if_true, Bool.or_true]
  | false => simp only [State.noteGone, gone, Bool.false_eq_true, if_false, Bool.or_false]; rfl

/-- Settles O18: each report by phase and link, and the flush of a lost link field by field. -/
theorem linkFollowsPhy : Obligations.LinkFollowsPhy := by
  refine ⟨fun s p v => ?_, fun s p v up => ?_⟩
  · intro up cnt
    refine ⟨fun inService down => congrArg Host.Outcome.next ?_, fun out => congrArg Host.Outcome.next ?_,
      fun isUp => congrArg Host.Outcome.next ?_, fun down => congrArg Host.Outcome.next ?_,
      fun down bytes good => congrArg Host.Outcome.next (frameArrival_of_down down bytes good)⟩
    · rw [linkUp_of_inService inService down]; rfl
    · rw [linkUp_of_not (by rintro ⟨inService, -⟩; rcases out with h | h <;> rw [h] at inService <;> simp at inService)]; rfl
    · rw [linkUp_of_not fun both => isUp both.2]; rfl
    · rw [linkDown_of_down down]; rfl
  · intro e gone cnt one room cell
    refine congrArg Host.Outcome.next ?_
    have lost : e.discarded = gone := e.discarded_eq
    rw [linkDown_of_up up, State.flushLink]
    have here : ((((s.setPhy p none).setLink p none).onCnt p fun c => { c with linkChanges := c.linkChanges + 1 }).sched.port.get p) =
        e := rfl
    simp only [here, lost, noteGone_eq, Egress.flushed_eq]
    clear_value gone
    by_cases nothing : gone = []
    · simp only [nothing, List.isEmpty_nil, if_true, one, cell]
      cases p <;> rfl
    · have notEmpty : ¬ gone.isEmpty = true := by rw [List.isEmpty_iff]; exact nothing
      simp only [if_neg notEmpty, one, cell, if_neg nothing]
      cases p with
      | u =>
        simp only [State.returnCells, State.announceRoom, State.mapShapers, State.onCnt, State.onEgress, State.onAgent, State.onPool,
          State.oweRetry, State.onMedia, State.onPorts, State.onSched, State.setLink, State.setPhy, State.onPins]
        rfl
      | s => rfl

/-! ### Transmissions (R24, R36) -/

theorem transmissionNs_eq (v : Speed) (f : Frame) : ∃ bitNs : Nat, (v = .mbit10 → bitNs = 100) ∧ (v = .mbit100 → bitNs = 10) ∧
    (v = .mbit1000 → bitNs = 1) ∧ transmissionNs v f = (f.length + 20) * 8 * bitNs := by
  simp only [transmissionNs, Config.chargeExtra, Nat.mul_assoc]
  cases v with
  | mbit10 => exact ⟨100, fun _ => rfl, nofun, nofun, rfl⟩
  | mbit100 => exact ⟨10, nofun, fun _ => rfl, nofun, rfl⟩
  | mbit1000 => exact ⟨1, nofun, nofun, fun _ => rfl, rfl⟩

theorem mayHavePassedNs_iff {now since : Time} {ns : Nat} :
    mayHavePassedNs now since ns = true ↔ ns < ((now - since).toNat + 1) * 1000 := decide_eq_true_iff

theorem choose_of_noPick {s : State} {p : Port} (noPick : (s.sched.port.get p).pick = none) : s.choose p = s := by
  rw [State.choose, noPick]
  split
  · exact absurd ‹_› (by simp)
  · rfl

theorem choose_of_pick {s : State} {p : Port} {v : Speed} {f : QFrame} {k : Fin 4} {e : Egress} (up : s.ports.link.get p = some v)
    (idle : (s.sched.port.get p).tx = none) (pick : (s.sched.port.get p).pick = some (f, k, e)) : s.choose p =
      (s.onEgress p fun _ => { e with tx := some ⟨f, s.clock.now, transmissionNs v f.frame⟩ }).announceRoom p (· == k) := by
  simp only [State.choose, up, idle, pick]

/-- Settles O19: a completion by the time since the sending began, and a choice by the speed of the port. -/
theorem transmissionCompletes : Obligations.TransmissionCompletes := by
  intro s p
  refine ⟨fun idle => congrArg Host.Outcome.next ?_, fun x sending => ?_, choose_of_noPick, fun v f k e up idle pick => ?_⟩
  · simp only [State.transmissionComplete, idle]
  · refine ⟨fun ended => congrArg Host.Outcome.next ?_, fun early => congrArg Host.Outcome.next ?_⟩
    · simp only [State.transmissionComplete, sending, if_pos (mayHavePassedNs_iff.mpr ended)]; rfl
    · simp only [State.transmissionComplete, sending, if_neg (mt mayHavePassedNs_iff.mp (Nat.not_lt.mpr early))]
  · obtain ⟨bitNs, slow, middle, fast, lasts⟩ := transmissionNs_eq v f.frame
    exact ⟨bitNs, slow, middle, fast, by rw [choose_of_pick up idle pick, lasts]⟩

/-! ### The walk of the visit pointer (R38) -/

/-- The side once a visit has ended with deficit `d` and no choice: the pointer has moved on. -/
def Egress.visited (e : Egress) (d : Nat) : Egress :=
  { e with queues := e.queues.set e.visit { e.queues[e.visit] with deficit := d }, visit := e.visit - 1, granted := false }

/-- The deficit a visit tests with: granted once for each visit. -/
def Egress.visitDeficit (e : Egress) : Nat :=
  if e.granted = true then e.queues[e.visit].deficit else e.queues[e.visit].deficit + e.queues[e.visit].weight * 256

section
variable {e : Egress} (n : Nat) {f : QFrame} {rest : List QFrame}

theorem Egress.weightedPick_of_empty (empty : e.queues[e.visit].frames = []) :
    e.weightedPick (n + 1) = (e.visited 0).weightedPick n := by
  have same : (e.withFrames e.visit [] 0).moveOn = e.visited 0 := by
    simp only [Egress.withFrames, Egress.moveOn, Egress.visited, ← empty]
  simp only [Egress.weightedPick, empty, same]

theorem Egress.weightedPick_of_long (head : e.queues[e.visit].frames = f :: rest) (long : e.visitDeficit < f.frame.length) :
    e.weightedPick (n + 1) = (e.visited e.visitDeficit).weightedPick n := by
  rw [Egress.visitDeficit] at *
  simp only [Egress.weightedPick, head, if_neg (Nat.not_le.mpr long)]
  rw [← head]; rfl

theorem Egress.weightedPick_of_last (head : e.queues[e.visit].frames = [f]) (fits : f.frame.length ≤ e.visitDeficit) :
    e.weightedPick (n + 1) = some (f, e.visit, (e.withFrames e.visit [] 0).moveOn) := by
  rw [Egress.visitDeficit] at fits
  simp only [Egress.weightedPick, head, if_pos fits, List.isEmpty_nil, if_true]

theorem Egress.weightedPick_of_more (head : e.queues[e.visit].frames = f :: rest) (more : rest ≠ [])
    (fits : f.frame.length ≤ e.visitDeficit) : e.weightedPick (n + 1) = some (f, e.visit,
      { e.withFrames e.visit rest (e.visitDeficit - f.frame.length) with granted := true }) := by
  rw [Egress.visitDeficit] at *
  simp only [Egress.weightedPick, head, if_pos fits, if_neg (mt List.isEmpty_iff.mp more)]

/-- One visit chooses a frame or moves on. -/
theorem Egress.weightedPick_succ : (∃ r, e.weightedPick (n + 1) = some r) ∨
    (∃ d, e.weightedPick (n + 1) = (e.visited d).weightedPick n ∧
      (e.queues[e.visit].frames ≠ [] → d = e.visitDeficit ∧ ∀ f rest, e.queues[e.visit].frames = f :: rest → d < f.frame.length)) := by
  cases head : e.queues[e.visit].frames with
  | nil => exact .inr ⟨0, Egress.weightedPick_of_empty n head, fun waiting => absurd rfl waiting⟩
  | cons f rest =>
    by_cases fits : f.frame.length ≤ e.visitDeficit
    · by_cases more : rest = []
      · subst more; exact .inl ⟨_, Egress.weightedPick_of_last n head fits⟩
      · exact .inl ⟨_, Egress.weightedPick_of_more n head more fits⟩
    · refine .inr ⟨_, Egress.weightedPick_of_long n head (Nat.lt_of_not_le fits), fun _ => ⟨rfl, fun g more same => ?_⟩⟩
      obtain ⟨rfl, rfl⟩ := List.cons.inj same
      exact Nat.lt_of_not_le fits

end

theorem Egress.visited_queue (e : Egress) (d : Nat) (k : Fin 4) :
    (e.visited d).queues[k] = if e.visit = k then { e.queues[e.visit] with deficit := d } else e.queues[k] := by
  rw [Egress.visited]; exact getElem_set_if ..

/-- How many visits lie before the pointer's visit to class `k`. -/
def Egress.visitsTo (e : Egress) (k : Fin 4) : Nat := (e.visit - k).val

theorem visitsTo_step (v k : Fin 4) : (v ≠ k → (v - 1 - k).val + 1 = (v - k).val) ∧ (v = k → (v - 1 - k).val = 3) := by
  revert v k; decide

/-- A waiting head of at most 1,522 bytes that lacks `m + 1` grants of 256 is chosen, or another frame is, within the visits that
these grants take: the pointer comes by every fourth visit. -/
theorem Egress.weightedPick_isSome {k : Fin 4} {f : QFrame} {rest : List QFrame} (short : f.frame.length ≤ 1522) {fuel : Nat} :
    ∀ {e : Egress} {m : Nat}, e.queues[k].frames = f :: rest → 1 ≤ e.queues[k].weight →
      (e.visit = k → e.granted = false) → 1522 ≤ e.queues[k].deficit + (m + 1) * 256 → e.visitsTo k + 4 * m + 1 ≤ fuel →
      ∃ r, e.weightedPick fuel = some r := by
  induction fuel with
  | zero => intro e m _ _ _ _ enough; omega
  | succ n ih =>
    intro e m head weight fresh grants enough
    obtain chosen | ⟨d, onward, kept⟩ := Egress.weightedPick_succ (e := e) n
    · exact chosen
    rw [onward]
    unfold Egress.visitsTo at *
    by_cases here : e.visit = k
    · subst here
      obtain ⟨rfl, long⟩ := kept (head ▸ List.cons_ne_nil f rest)
      have lacks := long f rest head
      rw [Egress.visitDeficit, fresh rfl, if_neg Bool.false_ne_true] at lacks
      cases m with
      | zero => omega
      | succ m =>
        refine ih (m := m) ?_ ?_ (fun _ => rfl) ?_ ?_
        · rw [Egress.visited_queue, if_pos rfl]; exact head
        · rw [Egress.visited_queue, if_pos rfl]; exact weight
        · rw [Egress.visited_queue, if_pos rfl, Egress.visitDeficit, fresh rfl, if_neg Bool.false_ne_true]
          show 1522 ≤ e.queues[e.visit].deficit + e.queues[e.visit].weight * 256 + _
          omega
        · have again : ((e.visited e.visitDeficit).visit - e.visit).val = 3 := (visitsTo_step e.visit e.visit).2 rfl
          omega
    · have nearer : ((e.visited d).visit - k).val + 1 = (e.visit - k).val := (visitsTo_step e.visit k).1 here
      refine ih (m := m) ?_ ?_ (fun _ => rfl) ?_ (by omega)
      · rw [Egress.visited_queue, if_neg here]; exact head
      · rw [Egress.visited_queue, if_neg here]; exact weight
      · rw [Egress.visited_queue, if_neg here]; exact grants

/-- The first visit may have been granted before the walk began; every later one is granted when it comes. -/
theorem Egress.weightedPick_32_isSome {e : Egress} {k : Fin 4} {f : QFrame} {rest : List QFrame}
    (head : e.queues[k].frames = f :: rest) (short : f.frame.length ≤ 1522) (weight : 1 ≤ e.queues[k].weight) :
    ∃ r, e.weightedPick 32 = some r := by
  have near : (e.visit - k).val < 4 := (e.visit - k).isLt
  by_cases granted : e.visit = k ∧ e.granted = true
  · obtain ⟨rfl, -⟩ := granted
    obtain chosen | ⟨d, onward, -⟩ := Egress.weightedPick_succ (e := e) 31
    · exact chosen
    · rw [onward]
      refine Egress.weightedPick_isSome short (k := e.visit) (m := 5) (rest := rest) ?_ ?_ (fun _ => rfl) (by omega) ?_
      · rw [Egress.visited_queue, if_pos rfl]; exact head
      · rw [Egress.visited_queue, if_pos rfl]; exact weight
      · have := ((e.visited d).visit - e.visit).isLt
        unfold Egress.visitsTo
        omega
  · refine Egress.weightedPick_isSome short (m := 5) head weight (fun here => ?_) (by omega) (by unfold Egress.visitsTo; omega)
    exact Bool.eq_false_iff.mpr fun isGranted => granted ⟨here, isGranted⟩

theorem Egress.pick_of_weighted {e : Egress} (waiting : ∃ k : Fin 4, e.queues[k].frames ≠ []) (weighted : e.mode = .weighted) :
    e.pick = e.weightedPick 32 := by
  have nonempty : ¬ e.empty = true := fun empty => waiting.elim fun k head => head (Egress.empty_iff.mp empty k)
  rw [Egress.pick, if_neg nonempty, weighted]; rfl

/-- Settles O21: the four outcomes of a visit, and the bound by counting the grants a waiting head still lacks. -/
theorem weightedChoiceIsVisitWalk : Obligations.WeightedChoiceIsVisitWalk := by
  refine ⟨fun n e => ⟨Egress.weightedPick_of_empty n, fun f rest head => ⟨Egress.weightedPick_of_long n head, fun fits last => ?_,
    fun fits more => Egress.weightedPick_of_more n head more fits⟩⟩, fun e weighted => ⟨fun allEmpty =>
    Egress.pick_of_empty (Egress.empty_iff.mpr allEmpty), fun waiting => Egress.pick_of_weighted waiting weighted,
    fun waiting short weights => ?_⟩⟩
  · subst last
    exact Egress.weightedPick_of_last n head fits
  · obtain ⟨k, head⟩ := id waiting
    obtain ⟨f, rest, split⟩ := List.exists_cons_of_ne_nil head
    rw [Egress.pick_of_weighted waiting weighted]
    exact Egress.weightedPick_32_isSome split (short k f (split ▸ List.mem_cons_self)) (weights k)

end Sys2Proof.Machine
end

section
/-! The shapers at the heads of the out-queues (R24, R31 to R33). -/

namespace Sys2Proof.Machine

/-! ### What leaves the frames of the out-queues as they are -/

/-- The frames of both out-queues are as they were. -/
def SameFrames (s t : State) : Prop := ∀ sh, (t.outQueue sh).frames = (s.outQueue sh).frames

namespace SameFrames

variable {s t u : State}

theorem refl (s : State) : SameFrames s s := fun _ => rfl

theorem trans (a : SameFrames s t) (b : SameFrames t u) : SameFrames s u := fun sh => (b sh).trans (a sh)

theorem of_eq (agentOut : t.agentOut.frames = s.agentOut.frames) (mediaOut : t.mediaOut.frames = s.mediaOut.frames) :
    SameFrames s t
  | .agent => agentOut
  | .media => mediaOut

theorem announceRoom (s : State) (p : Port) (r : Fin 4 → Bool) : SameFrames s (s.announceRoom p r) := by
  cases p <;> exact of_eq rfl rfl

theorem choose (s : State) (p : Port) : SameFrames s (s.choose p) := by
  unfold State.choose
  split
  · exact trans (of_eq rfl rfl) (announceRoom _ _ _)
  · exact refl s

theorem offerClass (s : State) (p : Port) (k : Fin 4) (n : Nat) (q : QFrame) : SameFrames s (s.offerClass p k n q).2 := by
  unfold State.offerClass
  split
  · exact of_eq rfl rfl
  split
  · exact of_eq rfl rfl
  split
  · exact of_eq rfl rfl
  split
  · exact of_eq rfl rfl
  · exact trans (of_eq rfl rfl) (choose _ _)

theorem noteGone (s : State) (os : List Origin) : SameFrames s (s.noteGone os) := by
  rw [noteGone_eq]; exact of_eq rfl rfl

theorem departed (s : State) (o : Origin) : SameFrames s (s.departed o) := by
  unfold State.departed
  split
  · dsimp only
    split
    · exact refl s
    · split <;> exact of_eq rfl rfl
  · exact refl s

theorem leftHead (s : State) (sh : Shaper) : SameFrames s (s.leftHead sh) := by cases sh <;> exact of_eq rfl rfl

theorem returnCells (s : State) (n : Nat) : SameFrames s (s.returnCells n) := of_eq rfl rfl

theorem onCnt (s : State) (p : Port) (f : PortCounters → PortCounters) : SameFrames s (s.onCnt p f) := of_eq rfl rfl

theorem setMeter (s : State) (i : Fin 16) (m : Meter) : SameFrames s (s.setMeter i m) := of_eq rfl rfl

end SameFrames

section
variable {s : State} {sh : Shaper} {h : OutFrame} {rest : List OutFrame}

theorem popHead_of_cons (head : (s.outQueue sh).frames = h :: rest) : s.popHead sh =
    ((s.setOutQueue sh { s.outQueue sh with frames := rest }).leftHead sh).departed h.origin := by
  simp only [State.popHead, head]

theorem popHead_frames (head : (s.outQueue sh).frames = h :: rest) : ((s.popHead sh).outQueue sh).frames = rest := by
  rw [popHead_of_cons head, SameFrames.departed, SameFrames.leftHead, State.setOutQueue_same]

theorem dropHead_of_cons (head : (s.outQueue sh).frames = h :: rest) :
    s.dropHead sh = ((s.popHead sh).noteGone [h.origin]).returnCells h.frame.cells := by
  simp only [State.dropHead, head]

theorem dropHead_frames (head : (s.outQueue sh).frames = h :: rest) : ((s.dropHead sh).outQueue sh).frames = rest := by
  rw [dropHead_of_cons head, SameFrames.returnCells, SameFrames.noteGone, popHead_frames head]

end

/-! ### The move of a head (R24, R33) -/

section
variable {s : State} {sh : Shaper} {k : Fin 4} {g : Frame} {h : OutFrame} {n : Nat}

/-- What the class queue of U makes of the form of a head. -/
def State.headOffer (s : State) (k : Fin 4) (g : Frame) (h : OutFrame) : Offer × State :=
  s.offerClass .u k (g.cells - h.frame.cells) ⟨g, h.origin⟩

theorem moveHead_of_admitted {t : State} (offer : s.headOffer k g h = (.admitted, t)) :
    s.moveHead sh k g h n = (true, t.popHead sh) := by
  rw [State.headOffer] at offer
  simp only [State.moveHead, offer]

theorem moveHead_of_queueFull {t : State} (offer : s.headOffer k g h = (.queueFull, t)) :
    s.moveHead sh k g h n = (false, t.setShaper sh (.blocked g k false n)) := by
  rw [State.headOffer] at offer
  simp only [State.moveHead, offer]

theorem moveHead_of_poolFull {t : State} (offer : s.headOffer k g h = (.poolFull, t)) :
    s.moveHead sh k g h n = (false, t.setShaper sh (.blocked g k true n)) := by
  rw [State.headOffer] at offer
  simp only [State.moveHead, offer]

theorem moveHead_of_linkDown {t : State} (offer : s.headOffer k g h = (.linkDown, t)) :
    s.moveHead sh k g h n = (true, t.dropHead sh) := by
  rw [State.headOffer] at offer
  simp only [State.moveHead, offer]

theorem moveHead_of_held {t : State} (offer : s.headOffer k g h = (.held, t)) :
    s.moveHead sh k g h n = (true, t.dropHead sh) := by
  rw [State.headOffer] at offer
  simp only [State.moveHead, offer]

theorem headOffer_frames (s : State) (k : Fin 4) (g : Frame) (h : OutFrame) : SameFrames s (s.headOffer k g h).2 :=
  SameFrames.offerClass _ _ _ _ _

/-- A head that has moved or was dropped has left the out-queue. -/
theorem moveHead_frames {rest : List OutFrame} (head : (s.outQueue sh).frames = h :: rest)
    (moved : (s.moveHead sh k g h n).1 = true) : (((s.moveHead sh k g h n).2).outQueue sh).frames = rest := by
  obtain ⟨offer, t, same⟩ : ∃ o t, s.headOffer k g h = (o, t) := ⟨_, _, rfl⟩
  have still : (t.outQueue sh).frames = h :: rest := by
    rw [← head, ← headOffer_frames s k g h sh, same]
  cases offer with
  | admitted => rw [moveHead_of_admitted same]; exact popHead_frames still
  | linkDown => rw [moveHead_of_linkDown same]; exact dropHead_frames still
  | held => rw [moveHead_of_held same]; exact dropHead_frames still
  | queueFull => rw [moveHead_of_queueFull same] at moved; exact absurd moved Bool.false_ne_true
  | poolFull => rw [moveHead_of_poolFull same] at moved; exact absurd moved Bool.false_ne_true

end

/-! ### The test of a head (R31) -/

section
variable {s : State} {sh : Shaper} {h : OutFrame} {rest : List OutFrame}

theorem runShaper_of_empty (empty : (s.outQueue sh).frames = []) : s.runShaper sh = s.setShaper sh .idle := by
  rw [State.runShaper, empty]; rfl

theorem testHead_eq_runShaper {t : State} {n : Nat} (frames : (t.outQueue sh).frames.length = n) :
    t.testHead sh n = t.runShaper sh := by
  rw [State.runShaper, frames]

theorem runShaper_of_notMember (head : (s.outQueue sh).frames = h :: rest)
    (judged : s.judgeEgress .u h.domain (s.shaperClass sh) h.frame = .notMember) : s.runShaper sh =
      ((s.onCnt .u fun c => { c with egressNotMember := c.egressNotMember + 1 }).dropHead sh).runShaper sh := by
  have left := dropHead_frames (s := s.onCnt .u fun c => { c with egressNotMember := c.egressNotMember + 1 })
    ((SameFrames.onCnt s _ _ sh).trans head)
  rw [State.runShaper, head, List.length_cons, ← testHead_eq_runShaper (congrArg List.length left)]
  simp only [State.testHead, head, judged]

theorem runShaper_of_tagOversize (head : (s.outQueue sh).frames = h :: rest)
    (judged : s.judgeEgress .u h.domain (s.shaperClass sh) h.frame = .tagOversize) : s.runShaper sh =
      ((s.onCnt .u fun c => { c with tagOversize := c.tagOversize + 1 }).dropHead sh).runShaper sh := by
  have left := dropHead_frames (s := s.onCnt .u fun c => { c with tagOversize := c.tagOversize + 1 })
    ((SameFrames.onCnt s _ _ sh).trans head)
  rw [State.runShaper, head, List.length_cons, ← testHead_eq_runShaper (congrArg List.length left)]
  simp only [State.testHead, head, judged]

/-- The meter of a shaper once a form has been presented to it, and whether it conforms. -/
def State.shaperPresents (s : State) (sh : Shaper) (g : Frame) : Meter × Bool :=
  (s.meters.bank[s.shaperMeter sh]).present s.clock.now (g.length + 20)

/-- The state once a form has been presented to the shaper's meter. -/
def State.shaperTested (s : State) (sh : Shaper) (g : Frame) : State := s.setMeter (s.shaperMeter sh) (s.shaperPresents sh g).1

variable {g : Frame}

theorem runShaper_of_exceeding (head : (s.outQueue sh).frames = h :: rest)
    (judged : s.judgeEgress .u h.domain (s.shaperClass sh) h.frame = .form g) (exceeds : (s.shaperPresents sh g).2 = false) :
    s.runShaper sh = (s.shaperTested sh g).setShaper sh
      (.waiting (afterUs s.clock.now ((s.shaperPresents sh g).1.waitUs (g.length + 20)))) := by
  unfold State.shaperTested State.shaperPresents at *
  rw [State.runShaper, head, List.length_cons]
  simp only [State.testHead, head, judged, chargeOf, Config.chargeExtra, exceeds, Bool.false_eq_true, if_false]

theorem runShaper_of_conforming (head : (s.outQueue sh).frames = h :: rest)
    (judged : s.judgeEgress .u h.domain (s.shaperClass sh) h.frame = .form g) (conforms : (s.shaperPresents sh g).2 = true) :
    s.runShaper sh = if ((s.shaperTested sh g).moveHead sh (s.shaperClass sh) g h 0).1
      then (((s.shaperTested sh g).moveHead sh (s.shaperClass sh) g h 0).2).testHead sh rest.length
      else ((s.shaperTested sh g).moveHead sh (s.shaperClass sh) g h 0).2 := by
  unfold State.shaperTested State.shaperPresents at *
  rw [State.runShaper, head, List.length_cons]
  simp only [State.testHead, head, judged, chargeOf, Config.chargeExtra, conforms, if_true]
  split <;> rename_i moved <;> rw [moved] <;> rfl

end

/-! ### What a departure tells (R52, R123) -/

theorem departed_of_awaiting {s : State} {o : Origin} {i : Fin 16} {gen : Byte} {x : Transfer} (carries : o = .media i gen)
    (entry : s.media.table[i] = ⟨gen, some x⟩) (undated : x.deadline = none) : s.departed o = s.onMedia fun m => { m with
      table := m.table.set i ⟨gen, some { x with deadline := some (afterMs s.clock.now m.timeoutMs) }⟩ } := by
  subst carries
  simp only [State.departed, entry, undated, and_self, if_true]

theorem departed_of_not {s : State} {o : Origin} (other : ¬ ∃ (i : Fin 16) (gen : Byte) (x : Transfer),
    o = .media i gen ∧ s.media.table[i] = ⟨gen, some x⟩ ∧ x.deadline = none) : s.departed o = s := by
  unfold State.departed
  split
  · rename_i i gen
    dsimp only
    split
    · rfl
    · rename_i x used
      refine if_neg fun ⟨same, undated⟩ => other ⟨i, gen, x, rfl, ?_, undated⟩
      rw [← same, ← used]
  · rfl

/-- Settles O22: the judgements of a head, the offers of its move, and what each return and departure tells. -/
theorem shaperTestsHead : Obligations.ShaperTestsHead := by
  refine ⟨fun s sh => ⟨runShaper_of_empty, fun h rest head => ⟨runShaper_of_notMember head, runShaper_of_tagOversize head,
    fun g judged => ?_⟩⟩, fun s => ⟨rfl, rfl, rfl, rfl⟩, fun s sh k g h rest n head => ⟨fun t => moveHead_of_admitted,
    fun t => moveHead_of_queueFull, fun t => moveHead_of_poolFull, fun t offer => ?_, ?_, fun i gen x carries entry undated =>
    departed_of_awaiting carries entry undated, departed_of_not, dropHead_of_cons head, fun os => ⟨fun gone => ?_, fun stays => ?_⟩,
    fun cells => rfl⟩⟩
  · refine ⟨fun exceeds => runShaper_of_exceeding head judged exceeds, fun conforms moved => ?_, fun conforms stays => ?_⟩
    · have left := moveHead_frames (s := s.shaperTested sh g) ((SameFrames.setMeter s _ _ sh).trans head) moved
      rw [runShaper_of_conforming head judged conforms]
      exact (if_pos moved).trans (testHead_eq_runShaper (congrArg List.length left))
    · rw [runShaper_of_conforming head judged conforms]
      exact if_neg (Bool.eq_false_iff.mp stays)
  · have still : (t.outQueue sh).frames = h :: rest := by
      rw [← head, ← headOffer_frames s k g h sh, State.headOffer, offer]
    rw [moveHead_of_linkDown offer, dropHead_of_cons still]
  · intro left
    refine ⟨fun ofAgent => ?_, fun ofMedia => ?_⟩
    · rw [popHead_of_cons head]; subst ofAgent; rfl
    · rw [popHead_of_cons head]; subst ofMedia; rfl
  · rw [State.noteGone, if_pos (List.contains_iff_mem.mpr gone)]
  · rw [State.noteGone, if_neg (mt List.contains_iff_mem.mp stays)]

/-! ### Waits and retries (R32, R33) -/

theorem reached_iff {now due : Time} : reached now due = true ↔ (now - due).toNat < 2 ^ 47 := decide_eq_true_iff

section
variable {s : State} {sh : Shaper}

theorem shaperWaitExpiry_of_waiting {t : Time} (waiting : (s.outQueue sh).shaper = .waiting t) :
    s.shaperWaitExpiry sh = if reached s.clock.now t then s.runShaper sh else s := by
  simp only [State.shaperWaitExpiry, waiting]

theorem shaperBlockedRetry_of_owed {g : Frame} {k : Fin 4} {w : Bool} {n : Nat} {h : OutFrame} {rest : List OutFrame}
    (blocked : (s.outQueue sh).shaper = .blocked g k w (n + 1)) (head : (s.outQueue sh).frames = h :: rest) :
    s.shaperBlockedRetry sh = if (s.moveHead sh k g h n).1 then ((s.moveHead sh k g h n).2).runShaper sh
      else (s.moveHead sh k g h n).2 := by
  simp only [State.shaperBlockedRetry, blocked, head]
  split <;> rename_i moved <;> rw [moved] <;> rfl

theorem shaperBlockedRetry_of_not (not : ¬ ∃ g k w n h rest, (s.outQueue sh).shaper = .blocked g k w (n + 1) ∧
    (s.outQueue sh).frames = h :: rest) : s.shaperBlockedRetry sh = s := by
  unfold State.shaperBlockedRetry
  split
  · rename_i g k w n h rest blocked head
    exact absurd ⟨g, k, w, n, h, rest, blocked, head⟩ not
  · rfl

end

/-- Settles O23: by the shaper's state, and the two ways an event reaches a shaper. -/
theorem shaperWaitAndRetry : Obligations.ShaperWaitAndRetry := by
  refine fun s sh => ⟨fun t waiting => ⟨fun due => congrArg Host.Outcome.next ?_, fun early => congrArg Host.Outcome.next ?_⟩,
    fun g k w n h rest blocked head => ⟨fun moved => congrArg Host.Outcome.next ?_, fun stays => congrArg Host.Outcome.next ?_⟩,
    fun g k w blocked => congrArg Host.Outcome.next ?_, fun idle => congrArg Host.Outcome.next ?_, fun n => ⟨rfl, rfl⟩,
    fun removed => ⟨rfl, rfl⟩, fun x other => ?_, fun g k n => ⟨rfl, rfl, fun w removed => ⟨fun yes => ?_, fun no => ?_⟩⟩⟩
  · rw [shaperWaitExpiry_of_waiting waiting, if_pos (reached_iff.mpr due)]
  · rw [shaperWaitExpiry_of_waiting waiting, if_neg (mt reached_iff.mp (Nat.not_lt.mpr early))]
  · rw [shaperBlockedRetry_of_owed blocked head, if_pos moved]
  · rw [shaperBlockedRetry_of_owed blocked head, if_neg (Bool.eq_false_iff.mp stays)]
  · refine shaperBlockedRetry_of_not ?_
    rintro ⟨g', k', w', n', h, rest, owed, -⟩
    rw [blocked] at owed
    simp at owed
  · refine shaperBlockedRetry_of_not ?_
    rintro ⟨g, k, w, n, h, rest, owed, head⟩
    obtain isIdle | empty := idle
    · rw [isIdle] at owed; exact nomatch owed
    · rw [empty] at head; exact nomatch head
  · obtain rfl | ⟨t, rfl⟩ := other <;> exact ⟨rfl, fun _ => rfl⟩
  · rw [ShaperState.oweRoom, if_pos yes]
  · rw [ShaperState.oweRoom, if_neg (Bool.eq_false_iff.mp no)]

end Sys2Proof.Machine
end

section
/-! The control agent: taking a frame, the walk, the refusals common to all records, and the packing of replies (R42 to R53, R178). -/

namespace Sys2Proof.Machine

/-! ### Taking a frame (R42, R43) -/

/-- A control frame of one record, from a station that the wildcard operator of the factory admits. -/
def strayFrame : Frame := ⟨0, 0, none, 0x88B5, [1, 0, 1, 0, 1, 0, 8, 0, 0, 0, 0]⟩

/-- An idle agent with a frame in its inbox, and the mark of an accepted RESTART set. -/
def strayAccepted : State :=
  State.reset.onAgent fun a => { a with inbox := [strayFrame], restartAccepted := true }

/-- Refutes O24: where the mark of an accepted RESTART stands in an idle agent, the agent that begins a frame with records closes the
reply frame of a RESTART instead, and is left RESTART_PENDING and not EXECUTING. No run reaches such a state, but the statement is on
every state. -/
theorem not_agentTakesOldestFrame : ¬ Obligations.AgentTakesOldestFrame := by
  intro holds
  obtain ⟨-, taking⟩ := holds strayAccepted
  obtain ⟨-, admitted⟩ := taking strayFrame [] rfl rfl
  obtain ⟨-, begun, -⟩ := admitted 0 (by decide) rfl (.inl rfl) (fun j before => absurd before (Fin.not_lt_zero j))
  have same := Host.Outcome.next.inj (begun rfl (by decide))
  have state : strayAccepted.agentTakeFrame.agent.state = .restartPending := by decide
  have executing : strayAccepted.agentTakeFrame.agent.state = .executing := congrArg (·.agent.state) same
  rw [state] at executing
  exact absurd executing (by decide)

/-! ### The bytes of a record (11.2) -/

theorem natBytes_two_eq (x : Half) : natBytes 2 x.toNat = [x.extractLsb' 8 8, x.extractLsb' 0 8] := by
  have bound := x.isLt
  have high : BitVec.ofNat 8 (x.toNat / 256) = x.extractLsb' 8 8 := by
    apply BitVec.eq_of_toNat_eq
    simp [BitVec.extractLsb'_toNat, Nat.shiftRight_eq_div_pow]
  have low : BitVec.ofNat 8 x.toNat = x.extractLsb' 0 8 := by
    apply BitVec.eq_of_toNat_eq
    simp [BitVec.extractLsb'_toNat]
  simp only [natBytes, List.nil_append, List.cons_append, high, low]

theorem recordBytes_eq (type tag : Half) (status flags : Nat) (body : List Byte) :
    recordBytes type tag status flags body = [type.extractLsb' 8 8, type.extractLsb' 0 8, BitVec.ofNat 8 ((8 + body.length) / 256),
      BitVec.ofNat 8 (8 + body.length), tag.extractLsb' 8 8, tag.extractLsb' 0 8, BitVec.ofNat 8 status, BitVec.ofNat 8 flags] ++
      body := by
  simp only [recordBytes, natBytes_two_eq]; rfl

/-! ### The walk (R178) -/

/-- Eight bytes of a header and what follows: the fields the walk reads. -/
theorem header_fields (type tag : Half) (len : Nat) (st fl : Byte) (rest : List Byte) (short : len < 65536) :
    let bs := natBytes 2 type.toNat ++ natBytes 2 len ++ natBytes 2 tag.toNat ++ [st, fl] ++ rest
    BitVec.ofNat 16 (fieldAt 0 2 bs) = type ∧ fieldAt 2 2 bs = len ∧ BitVec.ofNat 16 (fieldAt 4 2 bs) = tag ∧
      BitVec.ofNat 8 (fieldAt 7 1 bs) = fl ∧ bs.drop 8 = rest ∧ bs.length = 8 + rest.length := by
  intro bs
  have spelt : bs = natBytes 2 type.toNat ++ (natBytes 2 len ++ (natBytes 2 tag.toNat ++ ([st] ++ ([fl] ++ rest)))) := by
    simp [bs]
  have word (x : Half) : BitVec.ofNat 16 (beNat (natBytes 2 x.toNat)) = x := by
    rw [beNat_natBytes_of_lt (lt_of_lt_of_eq x.isLt (by decide)), BitVec.ofNat_toNat, BitVec.setWidth_eq]
  have typeField : fieldAt 0 2 bs = beNat (natBytes 2 type.toNat) := by rw [spelt, fieldAt_start (natBytes_length ..)]
  have lenField : fieldAt 2 2 bs = beNat (natBytes 2 len) := by
    rw [spelt, fieldAt_middle (natBytes_length ..) (natBytes_length ..)]
  have tagField : fieldAt 4 2 bs = beNat (natBytes 2 tag.toNat) := by
    rw [spelt, ← List.append_assoc, fieldAt_middle (by simp) (natBytes_length ..)]
  have flagField : fieldAt 7 1 bs = beNat [fl] := by
    rw [spelt, ← List.append_assoc, ← List.append_assoc, ← List.append_assoc,
      fieldAt_middle (ys := [fl]) (n := 1) (by simp) rfl]
  refine ⟨by rw [typeField, word], by rw [lenField, beNat_natBytes_of_lt short], by rw [tagField, word], ?_, ?_, ?_⟩
  · rw [flagField, beNat_singleton, BitVec.ofNat_toNat, BitVec.setWidth_eq]
  · exact List.drop_left' (by simp)
  · simp [bs]; omega

/-- What the walk takes for the end of the records: fewer than 8 bytes, or a length field of 0. -/
def EndsWalk (bs : List Byte) : Prop := bs.length < 8 ∨ ∃ a b rest, bs = [a, b, 0, 0] ++ rest

theorem endsWalk_nil : EndsWalk [] := .inl (by decide)

theorem walk_of_end {bs : List Byte} (ends : EndsWalk bs) (k : Nat) : walk k bs = ([], none) := by
  cases k with
  | zero => rfl
  | succ k =>
    have stops : bs.length < 8 ∨ fieldAt 2 2 bs = 0 := by
      refine ends.imp_right ?_
      rintro ⟨a, b, rest, rfl⟩
      rfl
    rw [walk]
    exact if_pos stops

theorem walk_of_header {bs : List Byte} {k : Nat} (long : 8 ≤ bs.length) (length : fieldAt 2 2 bs ≠ 0) :
    walk (k + 1) bs =
      if fieldAt 2 2 bs < 8 ∨ Config.maxRecord < fieldAt 2 2 bs ∨ bs.length < fieldAt 2 2 bs then
        ([], some (BitVec.ofNat 16 (fieldAt 0 2 bs), BitVec.ofNat 16 (fieldAt 4 2 bs)))
      else (⟨BitVec.ofNat 16 (fieldAt 0 2 bs), BitVec.ofNat 16 (fieldAt 4 2 bs), BitVec.ofNat 8 (fieldAt 7 1 bs),
          (bs.drop 8).take (fieldAt 2 2 bs - 8)⟩ :: (walk k (bs.drop (fieldAt 2 2 bs))).1,
        (walk k (bs.drop (fieldAt 2 2 bs))).2) := by
  have goesOn : ¬ (bs.length < 8 ∨ fieldAt 2 2 bs = 0) := by omega
  rw [walk]
  exact if_neg goesOn

/-- A length field that no record has: the walk breaks off with the type and tag it stands under. -/
theorem walk_of_badLength (k : Nat) (type tag : Half) (len : Nat) (st fl : Byte) (rest : List Byte)
    (bad : (1 ≤ len ∧ len ≤ 7) ∨ (1400 < len ∧ len < 65536) ∨ (8 + rest.length < len ∧ len < 65536)) :
    walk (k + 1) (natBytes 2 type.toNat ++ natBytes 2 len ++ natBytes 2 tag.toNat ++ [st, fl] ++ rest) =
      ([], some (type, tag)) := by
  obtain ⟨typeField, lenField, tagField, -, -, length⟩ := header_fields type tag len st fl rest (by omega)
  have broken : len < 8 ∨ Config.maxRecord < len ∨ 8 + rest.length < len := by
    rw [Config.maxRecord]; omega
  rw [walk_of_header (by omega) (by omega), typeField, lenField, tagField, length]
  exact if_pos broken

/-- A record as a request spells it: the status byte is 0. -/
def Rec.spelled (r : Rec) : List Byte := recordBytes r.type r.tag 0 r.flags.toNat r.body

theorem walk_of_record {r : Rec} (legal : 8 + r.body.length ≤ 1400) (k : Nat) (rest : List Byte) :
    walk (k + 1) (r.spelled ++ rest) = (r :: (walk k rest).1, (walk k rest).2) := by
  have spelt : r.spelled ++ rest = natBytes 2 r.type.toNat ++ natBytes 2 (8 + r.body.length) ++ natBytes 2 r.tag.toNat ++
      [0, r.flags] ++ (r.body ++ rest) := by
    simp [Rec.spelled, recordBytes]
  obtain ⟨typeField, lenField, tagField, flagField, body, length⟩ :=
    header_fields r.type r.tag (8 + r.body.length) 0 r.flags (r.body ++ rest) (by omega)
  rw [← spelt] at typeField lenField tagField flagField body length
  replace length := length.trans (congrArg (8 + ·) (List.length_append (as := r.body)))
  have goesOn : ¬ (8 + r.body.length < 8 ∨ Config.maxRecord < 8 + r.body.length ∨ (r.spelled ++ rest).length < 8 + r.body.length) := by
    rw [Config.maxRecord]; omega
  have after : (r.spelled ++ rest).drop (8 + r.body.length) = rest := by
    rw [← List.drop_drop, body, List.drop_left]
  have own : ((r.spelled ++ rest).drop 8).take (8 + r.body.length - 8) = r.body := by
    rw [body, Nat.add_sub_cancel_left, List.take_left]
  rw [walk_of_header (by omega) (by omega), typeField, tagField, flagField, lenField, after, own, if_neg goesOn]

/-- The walk yields the records that are spelled out, and goes on behind them. -/
theorem walk_of_records {rs : List Rec} (legal : ∀ r ∈ rs, 8 + r.body.length ≤ 1400) (k : Nat) (rest : List Byte) :
    walk (rs.length + k) ((rs.map Rec.spelled).flatten ++ rest) = (rs ++ (walk k rest).1, (walk k rest).2) := by
  induction rs with
  | nil => rw [List.length_nil, Nat.zero_add]; rfl
  | cons r rs ih =>
    have tail := ih fun x member => legal x (List.mem_cons_of_mem r member)
    rw [List.map_cons, List.flatten_cons, List.append_assoc, List.length_cons, Nat.add_right_comm,
      walk_of_record (legal r List.mem_cons_self), tail]
    rfl

theorem walkFrame_cons (flags count : Byte) (bs : List Byte) : walkFrame (1 :: flags :: count :: bs) =
    if walk (min count.toNat 16) bs = ([], none) then ([], some (0, 0)) else walk (min count.toNat 16) bs := by
  have countField : fieldAt 2 1 (1 :: flags :: count :: bs) = count.toNat := beNat_singleton count
  simp only [walkFrame, countField, Config.maxRecords, List.drop_succ_cons, List.drop_zero]
  generalize walk (min count.toNat 16) bs = w
  split
  · rw [if_pos rfl]
  · rename_i other
    rw [if_neg fun same => other same]

/-- A frame of some records, with what the walk makes of the rest. -/
theorem walkFrame_of_records {rs : List Rec} (legal : ∀ r ∈ rs, 8 + r.body.length ≤ 1400) {count : Byte} {k : Nat}
    (counted : min count.toNat 16 = rs.length + k) (flags : Byte) {rest : List Byte} {ending : WalkEnd}
    (walked : walk k rest = ([], ending)) (something : rs ≠ [] ∨ ending ≠ none) :
    walkFrame (1 :: flags :: count :: ((rs.map Rec.spelled).flatten ++ rest)) = (rs, ending) := by
  rw [walkFrame_cons, counted, walk_of_records legal, walked, List.append_nil]
  refine if_neg fun nothing => ?_
  obtain ⟨none, noEnd⟩ := Prod.mk.inj nothing
  exact something.elim (fun h => h none) fun h => h noEnd

theorem walkFrame_of_nothing {flags count : Byte} {bs : List Byte} (walked : walk (min count.toNat 16) bs = ([], none)) :
    walkFrame (1 :: flags :: count :: bs) = ([], some (0, 0)) := by
  rw [walkFrame_cons, if_pos walked]

theorem endsWalk_zeros (zeros : Nat) : EndsWalk (List.replicate zeros 0) := by
  by_cases short : zeros < 8
  · exact .inl (by rw [List.length_replicate]; exact short)
  · obtain ⟨n, rfl⟩ := Nat.exists_eq_add_of_le (Nat.le_of_not_lt short)
    exact .inr ⟨0, 0, List.replicate (4 + n) 0, by rw [show 8 + n = 4 + (4 + n) by omega, ← List.replicate_append_replicate]; rfl⟩

/-- Settles O25: the walk by the records that are spelled out, then by what ends it. -/
theorem frameWalkYieldsRecords : Obligations.FrameWalkYieldsRecords := by
  unfold Obligations.FrameWalkYieldsRecords
  intro spelled padding
  refine ⟨fun rs flags count rest sixteen more legal => ?_, fun rs flags count p some fewer below legal pad => ?_,
    fun flags count p pad => walkFrame_of_nothing (walk_of_end pad _), recordBytes_eq,
    fun rs flags rest some most legal => ?_, fun rs flags count zeros some fewer below legal => ?_,
    fun rs flags count st fl type tag len rest fewer below legal bad => ?_, fun flags rest => walkFrame_of_nothing rfl⟩
  · have some : rs ≠ [] := by rintro rfl; exact absurd sixteen (by decide)
    exact walkFrame_of_records legal (k := 0) (by omega) flags rfl (.inl some)
  · exact walkFrame_of_records legal (k := min count.toNat 16 - rs.length) (by omega) flags (walk_of_end pad _) (.inl some)
  · have counted : (BitVec.ofNat 8 rs.length).toNat = rs.length := by
      rw [BitVec.toNat_ofNat]
      exact Nat.mod_eq_of_lt (Nat.lt_of_le_of_lt most (by decide))
    exact walkFrame_of_records legal (k := 0) (by rw [counted]; omega) flags rfl (.inl some)
  · exact walkFrame_of_records legal (k := min count.toNat 16 - rs.length) (by omega) flags (walk_of_end (endsWalk_zeros zeros) _)
      (.inl some)
  · rw [List.append_assoc, List.append_assoc, List.append_assoc, List.append_assoc]
    refine walkFrame_of_records legal (k := min count.toNat 16 - rs.length - 1 + 1) (by omega) flags ?_ (.inr nofun)
    have broken := walk_of_badLength (min count.toNat 16 - rs.length - 1) type tag len st fl rest bad
    simpa only [List.append_assoc] using broken

end Sys2Proof.Machine
end

section
/-! Records refused alike, replies packed and placed, and the turns of the out-queue (R47 to R56, R179). -/

namespace Sys2Proof.Machine

/-! ### The command that executes a record (R49) -/

/-- Every kind of record has its handler: the command of a record runs it, or judges a RESTART. -/
theorem exec_command (r : Rec) : (∃ h, ∀ s, exec r.command s = .next (s.runRecord r.command h)) ∨
    ∃ force, ∀ s, exec r.command s = .next (s.runRestart r.command force) := by
  unfold Rec.command
  repeat' split
  all_goals first
    | exact .inl ⟨_, fun _ => rfl⟩
    | exact .inr ⟨_, fun _ => rfl⟩

theorem nextRecord_of_ready {c : Instr} {r : Rec} {s : State} (ready : Ready c r s) : s.nextRecord c = some r := by
  obtain ⟨executing, nothingClosed, next, kind⟩ := ready
  obtain ⟨rest, todo⟩ := List.head?_eq_some_iff.mp next
  simp only [State.nextRecord, executing, nothingClosed, todo, kind, if_true]

theorem runRecord_of_ready {c : Instr} {r : Rec} {s : State} (ready : Ready c r s) (h : Rec → State → Answer) :
    s.runRecord c h = (s.popRecord.perform r h).state.replied r (s.popRecord.perform r h).status (s.popRecord.perform r h).body := by
  rw [State.runRecord, nextRecord_of_ready ready]; rfl

theorem perform_of_refused {s : State} {r : Rec} {st : Status} (refused : s.refusedBefore r = some st) (h : Rec → State → Answer) :
    s.perform r h = ⟨st, r.refusalBody, s⟩ := by
  simp only [State.perform, refused]

theorem refusedBefore_ne_ok {s : State} {r : Rec} : s.refusedBefore r ≠ some .ok := by
  unfold State.refusedBefore
  dsimp only
  split
  · nofun
  split
  · nofun
  split
  · nofun
  split <;> nofun

/-- What the common tests refuse, no command executes. -/
theorem refuses_of_refusedBefore {c : Instr} {r : Rec} {s : State} {st : Status} (ready : Ready c r s)
    (refused : s.refusedBefore r = some st) : Refuses c s r st r.refusalBody := by
  have judged : s.popRecord.refusedBefore r = some st := refused
  refine ⟨?_, SameButTraffic.replied ..⟩
  have kind : r.command = c := ready.kind
  subst kind
  obtain ⟨h, runs⟩ | ⟨force, runs⟩ := exec_command r
  · rw [runs, runRecord_of_ready ready, perform_of_refused judged]
  · have notOk : st ≠ .ok := fun ok => refusedBefore_ne_ok (ok ▸ refused)
    rw [runs, State.runRestart, nextRecord_of_ready ready]
    simp only [perform_of_refused judged, if_neg notOk]; rfl

section
variable {r : Rec} {s : State}

theorem refusedBefore_of_invalid (invalid : (s.operators[s.agent.op]).valid = false) : s.refusedBefore r = some .denied := by
  simp only [State.refusedBefore, invalid, Bool.not_false, if_true]

theorem refusedBefore_of_unknown (valid : (s.operators[s.agent.op]).valid = true) (unknown : r.command = .recordUnknownType) :
    s.refusedBefore r = some .noSuch := by
  simp only [State.refusedBefore, valid, unknown, Bool.not_true, Bool.false_eq_true, if_false, if_true]

theorem refusedBefore_of_lacking (valid : (s.operators[s.agent.op]).valid = true) (known : r.command ≠ .recordUnknownType)
    (lacks : (s.operators[s.agent.op]).privs.grants r.need = false) : s.refusedBefore r = some .denied := by
  simp only [State.refusedBefore, valid, if_neg known, lacks, Bool.not_true, Bool.not_false, Bool.false_eq_true, if_false, if_true]

theorem refusedBefore_of_badLength (valid : (s.operators[s.agent.op]).valid = true) (known : r.command ≠ .recordUnknownType)
    (grants : (s.operators[s.agent.op]).privs.grants r.need = true) (bad : bodyLengthOk r.type.toNat r.body.length = false) :
    s.refusedBefore r = some .malformed := by
  simp only [State.refusedBefore, valid, if_neg known, grants, bad, Bool.not_true, Bool.not_false, Bool.false_eq_true, if_false,
    if_true]

theorem refusedBefore_of_passes (known : r.command ≠ .recordUnknownType) (passes : Passes r s) : s.refusedBefore r = none := by
  obtain ⟨valid, grants, length⟩ := passes
  simp only [State.refusedBefore, valid, if_neg known, grants, length, Bool.not_true, Bool.false_eq_true, if_false]

/-- The types a request may have (11.2). -/
def requestTypes : List Half :=
  [0x0001, 0x0002, 0x0003, 0x0010, 0x0011, 0x0012, 0x0013, 0x0014, 0x0015, 0x0016, 0x0017, 0x0018, 0x0019, 0x001A,
    0x0020, 0x0021, 0x0022, 0x0023, 0x0030, 0x0031, 0x0032, 0x0033, 0x0040, 0x0041, 0x0042, 0x0043]

theorem command_of_notRequest (other : r.type ∉ requestTypes) : r.command = .recordUnknownType := by
  have numbers : r.type.toNat ∉ requestTypes.map BitVec.toNat := fun listed => by
    obtain ⟨t, member, same⟩ := List.mem_map.mp listed
    exact other (BitVec.eq_of_toNat_eq same ▸ member)
  simp only [requestTypes, List.map_cons, List.map_nil, List.mem_cons, List.not_mem_nil, or_false, not_or] at numbers
  obtain ⟨h1, h2, h3, h4, h5, h6, h7, h8, h9, h10, h11, h12, h13, h14, h15, h16, h17, h18, h19, h20, h21, h22, h23, h24, h25, h26⟩ :=
    numbers
  unfold Rec.command
  split
  case h_27 => rfl
  all_goals contradiction

theorem command_of_write (write : r.type = 0x0003) : r.command =
    match if r.body.isEmpty then none else TableId.ofCode r.tableCode with
    | none => .tableWriteUnknown
    | some .domain => if r.tableIndex = 16 then .tableWriteMgmtDomain else .tableWriteDomain
    | some .steering => .tableWriteSteering
    | some .pcpMap => .tableWritePcpMap
    | some .port => .tableWritePort
    | some .meter => if r.tableIndex = 16 then .tableWriteMeterSettings else .tableWriteMeter
    | some .queue => .tableWriteQueue
    | some .pool => .tableWritePool
    | some .operator => .tableWriteOperator
    | some .console => if r.tableIndex = 1 then .tableWriteConsoleHistory else .tableWriteConsoleLine
    | some .pattern => .tableWritePattern
    | some .region => .tableWriteRegion
    | some .mediaParams => .tableWriteMediaParams
    | some .line => .tableWriteLine
    | some .sense => .tableWriteSense
    | some .senseTrigger => .tableWriteSenseTrigger
    | some .scriptDir => .tableWriteScriptDir
    | some .scriptStep => .tableWriteScriptStep := by
  rw [Rec.command, write]; rfl

theorem command_of_write_ne_unknown (write : r.type = 0x0003) : r.command ≠ .recordUnknownType := by
  rw [command_of_write write]
  split
  case h_2 | h_6 | h_10 => split <;> exact nofun
  all_goals exact nofun

theorem refusalBody_of_unknown (unknown : r.command = .recordUnknownType) : r.refusalBody = [] :=
  if_neg fun write => command_of_write_ne_unknown write unknown

theorem tableCode_cons {t : Byte} {rest : List Byte} (body : r.body = t :: rest) : r.tableCode = t.toNat := by
  rw [Rec.tableCode, body]; exact beNat_singleton t

/-- The index byte, 0 where the body ends before it. -/
theorem tableIndex_eq {t i : Byte} {e : List Byte} (body : r.body = t :: i :: e ∨ (r.body = [t] ∧ i = 0)) :
    r.tableIndex = i.toNat := by
  obtain body | ⟨body, rfl⟩ := body
  · rw [Rec.tableIndex, body]; exact beNat_singleton i
  · rw [Rec.tableIndex, body]; rfl

theorem byte_eq_iff (b c : Byte) : b = c ↔ b.toNat = c.toNat := BitVec.toNat_inj.symm

end

/-- What each type of record needs, flag by flag (R48). -/
theorem need_of_type (r : Rec) :
    (r.type = 0x0001 → r.need = .none) ∧
    (r.type ∈ [0x0002, 0x0017, 0x0018, 0x0019, 0x001A, 0x0023, 0x0032, 0x0033] → r.need = .view) ∧
    (r.type ∈ [0x0003, 0x0010, 0x0040, 0x0042, 0x0043] → r.need = .admin) ∧
    (r.type = 0x0011 → r.flags.getLsbD 0 = false → r.need = .typing) ∧
    (r.type = 0x0011 → r.flags.getLsbD 0 = true → r.need = .admin) ∧
    (r.type ∈ [0x0012, 0x0013, 0x0014, 0x0015, 0x0016] → r.need = .typing) ∧
    (r.type ∈ [0x0020, 0x0021, 0x0022] → r.need = .media) ∧
    (r.type ∈ [0x0030, 0x0031] → r.need = .power) ∧
    (r.type = 0x0041 → r.flags.getLsbD 0 = false → r.need = .view) ∧
    (r.type = 0x0041 → r.flags.getLsbD 0 = true → r.need = .admin) := by
  have listed {L : List Half} {n : Need} (each : ∀ t ∈ L, r.type = t → r.need = n) (member : r.type ∈ L) : r.need = n :=
    each r.type member rfl
  have flagged {t : Half} {a b : Need} (table : r.type = t → r.need = if r.flag = true then a else b) (type : r.type = t) :
      (r.flags.getLsbD 0 = false → r.need = b) ∧ (r.flags.getLsbD 0 = true → r.need = a) :=
    ⟨fun clear => (table type).trans (if_neg (Bool.eq_false_iff.mp clear)), fun set => (table type).trans (if_pos set)⟩
  have claim : r.type = 0x0011 → r.need = if r.flag = true then .admin else .typing := fun h => by rw [Rec.need, h]; rfl
  have stats : r.type = 0x0041 → r.need = if r.flag = true then .admin else .view := fun h => by rw [Rec.need, h]; rfl
  refine ⟨fun h => by rw [Rec.need, h]; rfl, listed ?_, listed ?_, fun h => (flagged claim h).1, fun h => (flagged claim h).2, listed ?_,
    listed ?_, listed ?_, fun h => (flagged stats h).1, fun h => (flagged stats h).2⟩
  all_goals
    simp only [List.forall_mem_cons, List.not_mem_nil, false_implies, implies_true, and_true]
    repeat' apply And.intro
    all_goals exact fun h => by rw [Rec.need, h]; rfl

/-- Settles O26: the common tests in their order, and the tables of types, privileges, lengths and commands. -/
theorem recordsRefusedAlike : Obligations.RecordsRefusedAlike := by
  refine ⟨fun c r s ready => ?_, fun r => ?_, fun r => ?_, fun r t i e write body => ?_, fun n => ?_, fun p => ?_⟩
  · have kind : r.command = c := ready.kind
    subst kind
    refine ⟨fun invalid => refuses_of_refusedBefore ready (refusedBefore_of_invalid invalid), fun valid unknown => ?_,
      fun valid known lacks => refuses_of_refusedBefore ready (refusedBefore_of_lacking valid known lacks),
      fun valid known grants bad => refuses_of_refusedBefore ready (refusedBefore_of_badLength valid known grants bad)⟩
    have refuses := refuses_of_refusedBefore ready (refusedBefore_of_unknown valid unknown)
    rwa [refusalBody_of_unknown unknown] at refuses
  · obtain ⟨h1, h2, h3, h4, h5, h6, h7, h8, h9, h10⟩ := need_of_type r
    exact ⟨h1, h2, h3, h4, h5, h6, h7, h8, h9, h10, command_of_notRequest⟩
  · intro flag
    refine ⟨?_, ?_, ?_, ?_, ?_, ?_, ?_, ?_, ?_, ?_, ?_, ?_, ?_, ?_, ?_, ?_, ?_, ?_, fun h target rest body => ?_, ?_, ?_, ?_, ?_, ?_, ?_⟩
    case refine_19 =>
      have byte : fieldAt 0 1 r.body = target.toNat := by rw [body]; exact beNat_singleton target
      calc r.command = if fieldAt 0 1 r.body = 0 then .powerCancelRunning else .powerCancelQueued := by rw [Rec.command, h]; rfl
        _ = if target = 0 then .powerCancelRunning else .powerCancelQueued :=
          if_congr (by rw [byte]; exact (byte_eq_iff target 0).symm) rfl rfl
    all_goals exact fun h => by rw [Rec.command, h]; rfl
  · have code : r.tableCode = t.toNat := by
      obtain body | ⟨body, -⟩ := body
      · exact tableCode_cons body
      · exact tableCode_cons body
    have nonempty : r.body.isEmpty = false := by obtain body | ⟨body, -⟩ := body <;> rw [body] <;> rfl
    have index := tableIndex_eq body
    have settings : i.toNat = 16 ↔ i = 16 := (byte_eq_iff i 16).symm
    have history : i.toNat = 1 ↔ i = 1 := (byte_eq_iff i 1).symm
    rw [command_of_write write, nonempty, code, index]
    simp only [Bool.false_eq_true, if_false, settings, history]
    match t.toNat with
    | 0 | 1 | 2 | 3 | 4 | 5 | 6 | 7 | 8 | 9 | 10 | 11 | 12 | 13 | 14 | 15 | 16 | 17 | _ + 18 => rfl
  · refine ⟨?_, ?_, ?_, ?_, ?_, ?_, ?_, ?_, ?_, ?_, ?_⟩
    all_goals simp [bodyLengthOk]
  · simp [Privileges.grants]

end Sys2Proof.Machine
end

section
/-! Replies packed and placed, and the turns of the out-queue (R42, R51 to R55). -/

namespace Sys2Proof.Machine

/-! ### What follows a record, stage by stage (R42, R51, R55, R178) -/

section
variable {s t : State}

theorem advance_of_step (onward : ∀ n, s.advanceN (n + 1) = t.advanceN n) : s.advance = t.advance := by
  have enough : s.agent.stepsLeft ≤ s.agent.closed.length + 5 + t.agent.closed.length + 5 + 1 := by
    have := s.agent.stepsLeft_le
    omega
  have enough' : t.agent.stepsLeft ≤ s.agent.closed.length + 5 + t.agent.closed.length + 5 := by
    have := t.agent.stepsLeft_le
    omega
  rw [← State.advanceN_eq enough, onward, State.advanceN_eq enough']

theorem advance_of_stop (stops : ∀ n, s.advanceN (n + 1) = t) : s.advance = t := stops (s.agent.closed.length + 4)

/-- The state once the earliest closed frame has been placed. -/
def State.replyPlaced (t : State) : State :=
  t.onAgent fun a => { a with
    closed := a.closed.drop 1, lastPlaced := .reply, cnt := { a.cnt with replyFrames := a.cnt.replyFrames + 1 } }

theorem placeReply_of_placed {f : OutFrame} (placed : s.placeOut .agent f = some t) : s.placeReply f = some t.replyPlaced := by
  simp only [State.placeReply, placed, Option.map_some]; rfl

theorem placeReply_of_none {f : OutFrame} (waits : s.placeOut .agent f = none) : s.placeReply f = none := by
  simp only [State.placeReply, waits, Option.map_none]

theorem advance_of_placed {f : OutFrame} {rest : List OutFrame} (closed : s.agent.closed = f :: rest)
    (placed : s.placeOut .agent f = some t) : s.advance = t.replyPlaced.advance :=
  advance_of_step fun n => by simp only [State.advanceN, closed, placeReply_of_placed placed]

theorem advance_of_unplaced {f : OutFrame} {rest : List OutFrame} (closed : s.agent.closed = f :: rest)
    (waits : s.placeOut .agent f = none) : s.advance = s.enterWaiting :=
  advance_of_stop fun n => by simp only [State.advanceN, closed, placeReply_of_none waits]

variable (closed : s.agent.closed = [])
include closed

theorem advance_of_pending (pending : s.agent.state = .restartPending) : s.advance = s :=
  advance_of_stop fun n => by simp only [State.advanceN, closed, if_pos pending]

variable (notPending : s.agent.state ≠ .restartPending)
include notPending

theorem advance_of_accepted (accepted : s.agent.restartAccepted = true) : s.advance = s.enterPending.advance :=
  advance_of_step fun n => by simp only [State.advanceN, closed, if_neg notPending, accepted, if_true]

variable (notAccepted : s.agent.restartAccepted = false)
include notAccepted

theorem advance_of_todo (todo : s.agent.todo ≠ []) : s.advance = s.onAgent fun a => { a with state := .executing } := by
  obtain ⟨r, rest, next⟩ := List.exists_cons_of_ne_nil todo
  exact advance_of_stop fun n => by
    simp only [State.advanceN, closed, if_neg notPending, notAccepted, Bool.false_eq_true, if_false, next]

variable (todo : s.agent.todo = [])
include todo

theorem advance_of_trailing {type tag : Half} (trailing : s.agent.trailing = some (type, tag)) :
    s.advance = ((s.onAgent fun a => { a with trailing := none }).pack ⟨type, tag, .malformed, []⟩).advance :=
  advance_of_step fun n => by
    simp only [State.advanceN, closed, if_neg notPending, notAccepted, Bool.false_eq_true, if_false, todo, trailing]

variable (trailing : s.agent.trailing = none)
include trailing

theorem advance_of_open (some : s.agent.openReplies ≠ []) : s.advance = (s.closeOpen false .reply).advance := by
  obtain ⟨r, rest, head⟩ := List.exists_cons_of_ne_nil some
  exact advance_of_step fun n => by
    simp only [State.advanceN, closed, if_neg notPending, notAccepted, Bool.false_eq_true, if_false, todo, trailing, head]

theorem advance_of_done (none : s.agent.openReplies = []) : s.advance = s.finishFrame :=
  advance_of_stop fun n => by
    simp only [State.advanceN, closed, if_neg notPending, notAccepted, Bool.false_eq_true, if_false, todo, trailing, none]

end

/-! ### Packing (R51) -/

/-- A reply is counted (R49, R59). -/
def State.countReply (s : State) (r : Reply) : State := s.onAgentCnt fun c => c.replied r.status

section
variable {s : State} {r : Reply}

theorem pack_of_room (room : s.agent.openReplies = [] ∨ repliesLength s.agent.openReplies + r.length ≤ 1479) :
    s.pack r = (s.countReply r).onAgent fun a => { a with openReplies := a.openReplies ++ [r] } := by
  have fits : (s.countReply r).agent.openReplies.isEmpty ∨
      repliesLength (s.countReply r).agent.openReplies + r.length ≤ Config.recordRoom :=
    room.imp_left List.isEmpty_iff.mpr
  unfold State.countReply at *
  simp only [State.pack, if_pos fits]

theorem pack_of_full (some : s.agent.openReplies ≠ []) (full : 1479 < repliesLength s.agent.openReplies + r.length) :
    s.pack r = ((s.countReply r).closeOpen true .reply).onAgent fun a => { a with openReplies := [r] } := by
  have lacks : ¬ ((s.countReply r).agent.openReplies.isEmpty ∨
      repliesLength (s.countReply r).agent.openReplies + r.length ≤ Config.recordRoom) := by
    rintro (empty | fits)
    · exact some (List.isEmpty_iff.mp empty)
    · exact absurd fits (Nat.not_le.mpr full)
  unfold State.countReply at *
  simp only [State.pack, if_neg lacks]; rfl

end

theorem builtFrame_eq (dst src : Mac) (etherType : Half) (payload : List Byte) : builtFrame dst src etherType payload =
    ⟨dst, src, none, etherType, payload ++ List.replicate (64 - (18 + payload.length)) 0⟩ := rfl

/-- Settles O27: each stage of what follows a record, and the packing by the room that is left. -/
theorem repliesPackedInOrder : Obligations.RepliesPackedInOrder := by
  refine ⟨recordBytes_eq, rfl, fun _ => rfl, fun s => ?_, fun s r => ?_⟩
  · intro placed left
    have leaves (t : State) : left t = t.dropInbox := rfl
    refine ⟨fun f rest closed => ⟨fun t => advance_of_placed closed, advance_of_unplaced closed⟩, advance_of_pending,
      fun closed notPending accepted => ?_, fun closed notPending notAccepted =>
      ⟨advance_of_todo closed notPending notAccepted, fun todo type tag => advance_of_trailing closed notPending notAccepted todo,
        advance_of_open closed notPending notAccepted, fun todo trailing none => ?_⟩⟩
    · rw [advance_of_accepted closed notPending accepted, leaves]; rfl
    · rw [advance_of_done closed notPending notAccepted todo trailing none, leaves]; rfl
  · intro counted held
    have length : repliesLength s.agent.openReplies = held := rfl
    exact ⟨fun room => pack_of_room room, fun some full => pack_of_full some full, fun more o => by cases more <;> rfl⟩

/-! ### The turns of the out-queue (R23, R52, R53) -/

section
variable {s : State} {sh : Shaper} {f : OutFrame}

theorem placeOut_of_room (short : (s.outQueue sh).frames.length < 16) (fits : f.frame.cells ≤ s.pool.free) :
    s.placeOut sh f =
      if (s.outQueue sh).frames.isEmpty = true
      then some (((s.takeCells f.frame.cells).setOutQueue sh
        { s.outQueue sh with frames := (s.outQueue sh).frames ++ [f] }).runShaper sh)
      else some ((s.takeCells f.frame.cells).setOutQueue sh { s.outQueue sh with frames := (s.outQueue sh).frames ++ [f] }) := by
  have room : (s.outQueue sh).frames.length < Config.outQueueLimit ∧ f.frame.cells ≤ s.pool.free := ⟨short, fits⟩
  simp only [State.placeOut, if_pos room]
  split <;> rfl

theorem placeOut_of_full (full : 16 ≤ (s.outQueue sh).frames.length ∨ s.pool.free < f.frame.cells) : s.placeOut sh f = none := by
  rw [State.placeOut]
  refine if_neg ?_
  rintro ⟨short, fits⟩
  exact full.elim (Nat.not_le.mpr short) (Nat.not_lt.mpr fits)

end

/-- The state once one of the retries owed has been used. -/
def State.useRetry (s : State) (n : Nat) : State := s.onAgent fun a => { a with retries := n }

section
variable {s : State}

theorem outQueueRetry_of_none (none : s.agent.retries = 0) : s.outQueueRetry = s := by simp only [State.outQueueRetry, none]

theorem outQueueRetry_of_owed {n : Nat} (owed : s.agent.retries = n + 1) : s.outQueueRetry = (s.useRetry n).retryPlacement := by
  simp only [State.outQueueRetry, owed]; rfl

theorem retryPlacement_of_none (noReply : s.agentClaim = none) (noPush : s.pushClaim = none) : s.retryPlacement = s := by
  simp only [State.retryPlacement, noReply, noPush]

theorem retryPlacement_of_reply {f : OutFrame} (reply : s.agentClaim = some f)
    (turn : s.pushClaim = none ∨ s.agent.lastPlaced = .push) : s.retryPlacement = s.retryReply f := by
  cases push : s.pushClaim with
  | none => simp only [State.retryPlacement, reply, push]
  | some p =>
    have last := turn.resolve_left (by rw [push]; exact nofun)
    simp only [State.retryPlacement, reply, push, last, if_true]

theorem retryPlacement_of_push {p : Push} (push : s.pushClaim = some p)
    (turn : s.agentClaim = none ∨ s.agent.lastPlaced = .reply) : s.retryPlacement = s.retryPush p := by
  cases reply : s.agentClaim with
  | none => simp only [State.retryPlacement, reply, push]
  | some f =>
    have last : ¬ s.agent.lastPlaced = .push := by rw [turn.resolve_left (by rw [reply]; exact nofun)]; exact nofun
    simp only [State.retryPlacement, reply, push, if_neg last]

theorem retryReply_of_unplaced {f : OutFrame} (waits : s.placeOut .agent f = none) : s.retryReply f = s := by
  simp only [State.retryReply, placeReply_of_none waits]

theorem retryReply_of_placed {t : State} {f : OutFrame} (placed : s.placeOut .agent f = some t) :
    s.retryReply f = t.replyPlaced.advance := by
  simp only [State.retryReply, placeReply_of_placed placed]

theorem retryPush_of_unplaced {p : Push} (waits : s.placeOut .agent (s.pushFrame p) = none) : s.retryPush p = s := by
  simp only [State.retryPush, State.placePush, waits, Option.map_none]

theorem retryPush_of_placed {t : State} {p : Push} (placed : s.placeOut .agent (s.pushFrame p) = some t) : s.retryPush p =
    State.pump ((t.onAgent fun a => { a with
      lastPlaced := .push, cnt := { a.cnt with pushFrames := a.cnt.pushFrames + 1 } }).onHist fun h =>
        { h.commitPush t.clock.now p with offerWaiting := false }) := by
  simp only [State.retryPush, State.placePush, placed, Option.map_some]; rfl

theorem agentClaim_eq_none (nothing : s.agent.closed = []) : s.agentClaim = none := by rw [State.agentClaim, nothing]; rfl

theorem agentClaim_eq_some {f : OutFrame} {rest : List OutFrame} (closed : s.agent.closed = f :: rest) : s.agentClaim = some f := by
  rw [State.agentClaim, closed]; rfl

end

/-- Settles O28: admission to an out-queue, and one retry by the claimants that wait. -/
theorem outQueueSharedByTurns : Obligations.OutQueueSharedByTurns := by
  refine ⟨fun s sh f => ?_, fun s none => congrArg Host.Outcome.next (outQueueRetry_of_none none), fun s0 n owed => ?_,
    fun s n => rfl, fun s => ⟨rfl, ?_, rfl⟩⟩
  · intro q placed
    refine ⟨fun short fits empty => ?_, fun short fits some => ?_, placeOut_of_full⟩
    · rw [placeOut_of_room short fits, if_pos (List.isEmpty_iff.mpr empty)]
    · rw [placeOut_of_room short fits, if_neg (mt List.isEmpty_iff.mp some)]
  · intro s push
    have retried (t : State) (same : s.retryPlacement = t) : exec .outQueueRetry s0 = .next t :=
      congrArg Host.Outcome.next ((outQueueRetry_of_owed owed).trans same)
    have claim : s.pushClaim = push := rfl
    refine ⟨fun nothing noPush => retried _ (retryPlacement_of_none (agentClaim_eq_none nothing) noPush),
      fun f rest closed turn => ?_, fun p pushes turn => ?_⟩
    · have ofReply := retryPlacement_of_reply (agentClaim_eq_some closed) (turn.imp_left claim.trans)
      exact ⟨fun waits => retried _ (ofReply.trans (retryReply_of_unplaced waits)),
        fun t placed => retried _ (ofReply.trans (retryReply_of_placed placed))⟩
    · have ofPush := retryPlacement_of_push (claim.trans pushes) (turn.imp_left agentClaim_eq_none)
      exact ⟨fun waits => retried _ (ofPush.trans (retryPush_of_unplaced waits)),
        fun t placed => retried _ (ofPush.trans (retryPush_of_placed placed))⟩
  · show (if s.agent.closed.isEmpty = true then 0 else s.agent.retries) = _
    exact if_congr List.isEmpty_iff rfl rfl

end Sys2Proof.Machine
end

section
/-! Records that read: what each answers, and the bytes of the values (R49, R57, R58, R80, R82, R114, R147, R165, R169). -/

namespace Sys2Proof.Machine

/-! ### A record that passes the common tests is answered by its handler -/

theorem perform_of_passes {c : Instr} {r : Rec} {s : State} (known : c ≠ .recordUnknownType) (ready : Ready c r s)
    (passes : Passes r s) (h : Rec → State → Answer) : s.popRecord.perform r h = h r s.popRecord := by
  have judged : s.popRecord.refusedBefore r = none := 
    refusedBefore_of_passes (s := s) (ready.kind ▸ known) passes
  simp only [State.perform, judged]

/-- The one lemma on executing a record: its answer is what its handler makes of the state without the record. -/
theorem answers_of_handler {c : Instr} {r : Rec} {s s1 : State} {h : Rec → State → Answer} {st : Status} {body : List Byte}
    (runs : exec c s = .next (s.runRecord c h)) (known : c ≠ .recordUnknownType) (ready : Ready c r s) (passes : Passes r s)
    (answer : h r s.popRecord = ⟨st, body, s1⟩) : Answers c s r st body s1 := by
  refine ⟨?_, SameButTraffic.replied ..⟩
  rw [runs, runRecord_of_ready ready, perform_of_passes known ready passes, answer]

/-! ### The handlers -/

theorem idx?_of_ge {n v : Nat} (beyond : n ≤ v) : idx? n v = none := by rw [idx?, dif_neg (Nat.not_lt.mpr beyond)]

theorem fieldAt_zero_one (b : Byte) (rest : List Byte) : fieldAt 0 1 (b :: rest) = b.toNat := beNat_singleton b

theorem flagByte_false : flagByte false = [0] := rfl

theorem flagByte_true : flagByte true = [1] := rfl

theorem toNat_ofNat_byte {n : Nat} (small : n < 256) : (BitVec.ofNat 8 n).toNat = n := Nat.mod_eq_of_lt small

theorem groupOfCode_eq_none {b : Nat} (other : b = 0 ∨ 9 < b) : Group.ofCode b = none := by
  unfold Group.ofCode
  split <;> first | rfl | omega

section
variable {r : Rec} {s : State}

theorem mediaStatus_of_region {g : Fin 4} (body : r.body = [BitVec.ofNat 8 g.val]) :
    s.mediaStatus r = ⟨.ok, s.mediaStatusBytes g, s⟩ := by
  rw [State.mediaStatus, body, fieldAt_zero_one, toNat_ofNat_byte (by omega), idx?_val]

theorem mediaStatus_of_beyond {b : Byte} (body : r.body = [b]) (beyond : 3 < b.toNat) : s.mediaStatus r = ⟨.noSuch, [], s⟩ := by
  rw [State.mediaStatus, body, fieldAt_zero_one, idx?_of_ge beyond]

theorem statsRead_of_group {b : Byte} {g : Group} (body : r.body = [b]) (known : Group.ofCode b.toNat = some g) (clear : Bool) :
    s.statsRead clear r = ⟨.ok, b :: timeBytes s.clock.now ++ flagByte clear ++ s.groupBytes g,
      if clear then s.clearGroup g else s⟩ := by
  have byte : natBytes 1 b.toNat = [b] := by rw [natBytes_one, BitVec.ofNat_toNat, BitVec.setWidth_eq]
  simp only [State.statsRead, body, fieldAt_zero_one, known, byte]; rfl

theorem statsRead_keeping {b : Byte} {g : Group} (body : r.body = [b]) (known : Group.ofCode b.toNat = some g) :
    s.statsRead false r = ⟨.ok, b :: timeBytes s.clock.now ++ [0] ++ s.groupBytes g, s⟩ := by
  rw [statsRead_of_group body known, flagByte_false, if_neg Bool.false_ne_true]

theorem statsRead_clearing {b : Byte} {g : Group} (body : r.body = [b]) (known : Group.ofCode b.toNat = some g) :
    s.statsRead true r = ⟨.ok, b :: timeBytes s.clock.now ++ [1] ++ s.groupBytes g, s.clearGroup g⟩ := by
  rw [statsRead_of_group body known, flagByte_true, if_pos rfl]

theorem statsRead_of_unknown {b : Byte} (body : r.body = [b]) (unknown : b = 0 ∨ 9 < b.toNat) (clear : Bool) :
    s.statsRead clear r = ⟨.noSuch, [], s⟩ := by
  have none : Group.ofCode b.toNat = none := groupOfCode_eq_none (unknown.imp_left fun zero => by rw [zero]; rfl)
  simp only [State.statsRead, body, fieldAt_zero_one, none]

theorem consoleMarks_all (body : r.body = []) : s.consoleMarks r = ⟨.ok, natBytes 4 s.hist.marks.length ++
    counterBytes s.hist.nextMark ++ natBytes 1 s.hist.marks.length ++ (s.hist.marks.map Mark.bytes).flatten, s⟩ := by
  rw [State.consoleMarks, body]; rfl

theorem consoleMarks_from {first : Counter} (body : r.body = counterBytes first) : s.consoleMarks r = ⟨.ok,
    natBytes 4 s.hist.marks.length ++ counterBytes s.hist.nextMark ++
      natBytes 1 (s.hist.marks.filter fun m => first.toNat ≤ m.seq.toNat).length ++
      ((s.hist.marks.filter fun m => first.toNat ≤ m.seq.toNat).map Mark.bytes).flatten, s⟩ := by
  have field : fieldAt 0 4 r.body = first.toNat := by
    rw [body, counterBytes, ← List.append_nil (natBytes 4 first.toNat), fieldAt_start (natBytes_length ..)]
    exact beNat_natBytes_of_lt (lt_of_lt_of_eq first.isLt (by decide))
  have some : r.body.isEmpty = false := by rw [body]; rfl
  rw [State.consoleMarks, some, field]; rfl

/-! ### Reading the history (R80) -/

theorem relation_held {h : History} {x : Offset} (least : 1 ≤ (h.newest - x).toNat) (most : (h.newest - x).toNat ≤ h.ring.length)
    (near : (h.newest - x).toNat < 2 ^ 47) : h.relation x = .held := by
  have notAhead : ¬ (h.behind x = 0 ∨ 2 ^ 47 ≤ h.behind x) := by unfold History.behind; omega
  rw [History.relation]
  exact (if_neg notAhead).trans (if_pos most)

theorem relation_below {h : History} {x : Offset} (beyond : h.ring.length < (h.newest - x).toNat)
    (near : (h.newest - x).toNat < 2 ^ 47) : h.relation x = .below := by
  have notAhead : ¬ (h.behind x = 0 ∨ 2 ^ 47 ≤ h.behind x) := by unfold History.behind; omega
  rw [History.relation]
  exact (if_neg notAhead).trans (if_neg (Nat.not_le.mpr beyond))

theorem relation_ahead {h : History} {x : Offset} (ahead : (h.newest - x).toNat = 0 ∨ 2 ^ 47 ≤ (h.newest - x).toNat) :
    h.relation x = .ahead := by
  rw [History.relation]
  exact if_pos ahead

theorem behind_oldest {h : History} (short : h.ring.length < 2 ^ 48) : h.behind h.oldest = h.ring.length := by
  have back (x y : Offset) : x - (x - y) = y := by bv_omega
  rw [History.behind, History.oldest, History.held, back, BitVec.toNat_ofNat, Nat.mod_eq_of_lt short]

theorem eq_of_sub_eq_zero {x y : Offset} (zero : (x - y).toNat = 0) : x = y := by bv_omega

theorem fetch_held {h : History} {x : Offset} (least : 1 ≤ (h.newest - x).toNat) (most : (h.newest - x).toNat ≤ h.ring.length)
    (near : (h.newest - x).toNat < 2 ^ 47) (n : Nat) :
    h.fetch x n = (x, false, ((h.ring.take (h.newest - x).toNat).reverse).take n) := by
  have length : ((h.ring.take (h.newest - x).toNat).reverse).length = (h.newest - x).toNat := by
    rw [List.length_reverse, List.length_take, Nat.min_eq_left most]
  simp only [History.fetch, relation_held least most near, History.slice, History.behind]
  rw [← List.take_take, List.take_of_length_le (Nat.le_of_eq length)]

theorem fetch_below {h : History} {x : Offset} (beyond : h.ring.length < (h.newest - x).toNat)
    (near : (h.newest - x).toNat < 2 ^ 47) (short : h.ring.length < 2 ^ 48) (n : Nat) :
    h.fetch x n = (h.oldest, true, h.ring.reverse.take n) := by
  have length : h.ring.reverse.length = h.ring.length := List.length_reverse
  simp only [History.fetch, relation_below beyond near, History.slice, behind_oldest short, History.held, List.take_length]
  rw [← List.take_take, List.take_of_length_le (Nat.le_of_eq length)]

theorem fetch_ahead {h : History} {x : Offset} (ahead : (h.newest - x).toNat = 0 ∨ 2 ^ 47 ≤ (h.newest - x).toNat) (n : Nat) :
    h.fetch x n = (x, false, []) := by
  simp only [History.fetch, relation_ahead ahead]

/-- A fetch as its body spells it: 6 bytes of offset and 2 of length. -/
theorem consoleFetch_eq {x start : Offset} {len : Half} {gap : Bool} {bytes : List Byte}
    (body : r.body = timeBytes x ++ natBytes 2 len.toNat)
    (fetched : s.hist.fetch x (min len.toNat 1024) = (start, gap, bytes)) : s.consoleFetch r = ⟨.ok,
      timeBytes start ++ natBytes 2 bytes.length ++ flagByte gap ++ natBytes 2 (min len.toNat 1024) ++ timeBytes s.hist.newest ++
        timeBytes s.hist.oldest ++ bytes, s⟩ := by
  have offset : BitVec.ofNat 48 (fieldAt 0 6 r.body) = x := by
    rw [body, timeBytes, fieldAt_start (natBytes_length ..), beNat_natBytes_of_lt (lt_of_lt_of_eq x.isLt (by decide)), BitVec.ofNat_toNat,
      BitVec.setWidth_eq]
  have length : fieldAt 6 2 r.body = len.toNat := by
    rw [body, timeBytes, fieldAt_end (natBytes_length ..) (natBytes_length ..),
      beNat_natBytes_of_lt (lt_of_lt_of_eq len.isLt (by decide))]
  simp only [State.consoleFetch, offset, length, Config.chunkBytes, fetched]

theorem consoleFetch_kept {x start : Offset} {len : Half} {bytes : List Byte} (body : r.body = timeBytes x ++ natBytes 2 len.toNat)
    (fetched : s.hist.fetch x (min len.toNat 1024) = (start, false, bytes)) : s.consoleFetch r = ⟨.ok,
      timeBytes start ++ natBytes 2 bytes.length ++ [0] ++ natBytes 2 (min len.toNat 1024) ++ timeBytes s.hist.newest ++
        timeBytes s.hist.oldest ++ bytes, s⟩ := by
  rw [consoleFetch_eq body fetched, flagByte_false]

theorem consoleFetch_gap {x start : Offset} {len : Half} {bytes : List Byte} (body : r.body = timeBytes x ++ natBytes 2 len.toNat)
    (fetched : s.hist.fetch x (min len.toNat 1024) = (start, true, bytes)) : s.consoleFetch r = ⟨.ok,
      timeBytes start ++ natBytes 2 bytes.length ++ [1] ++ natBytes 2 (min len.toNat 1024) ++ timeBytes s.hist.newest ++
        timeBytes s.hist.oldest ++ bytes, s⟩ := by
  rw [consoleFetch_eq body fetched, flagByte_true]

/-! ### Reading a table (R57) -/

theorem tableRead_of_empty (body : r.body = []) : s.tableRead r = ⟨.malformed, [], s⟩ := by
  rw [State.tableRead, body]; rfl

theorem tableRead_of_unknown {b : Byte} {rest : List Byte} (body : r.body = b :: rest) (unknown : TableId.ofCode b.toNat = none) :
    s.tableRead r = ⟨.noSuch, [], s⟩ := by
  have some : ¬ r.body.isEmpty = true := by rw [body]; exact Bool.false_ne_true
  rw [State.tableRead, if_neg some, tableCode_cons body, unknown]

theorem tableRead_of_badLength {b : Byte} {rest : List Byte} {t : TableId} (body : r.body = b :: rest)
    (known : TableId.ofCode b.toNat = some t) (bad : rest.length ≠ 1) : s.tableRead r = ⟨.malformed, [], s⟩ := by
  have some : ¬ r.body.isEmpty = true := by rw [body]; exact Bool.false_ne_true
  have notTwo : r.body.length ≠ 2 := by rw [body, List.length_cons]; omega
  simp only [State.tableRead, if_neg some, tableCode_cons body, known, if_pos notTwo]

theorem tableRead_of_index {b i : Byte} {t : TableId} (body : r.body = [b, i]) (known : TableId.ofCode b.toNat = some t) :
    s.tableRead r = match s.entryBytes t i.toNat with
      | none => ⟨.noSuch, [], s⟩
      | some e => ⟨.ok, [b, i] ++ e ++ s.runtimeBytes t i.toNat, s⟩ := by
  have some : ¬ r.body.isEmpty = true := by rw [body]; exact Bool.false_ne_true
  have two : ¬ r.body.length ≠ 2 := by rw [body]; exact fun h => h rfl
  have head : tableHead r = [b, i] := by rw [tableHead, body]; rfl
  simp only [State.tableRead, if_neg some, tableCode_cons body, known, if_neg two, tableIndex_eq (.inl body), head] <;>
    cases s.entryBytes t i.toNat <;> rfl

end

/-! ### The values (R41, R58, R147, R165, R169) -/

theorem flagByte_eq (b : Bool) : flagByte b = natBytes 1 (if b = true then 1 else 0) := by cases b <;> rfl

theorem counters_eq (l : List Counter) : counters l = (l.map fun c => natBytes 4 c.toNat).flatten := rfl

theorem optBytes_one (v : Option Nat) : optBytes 1 v = match v with | none => List.replicate 2 0 | some x => 1 :: natBytes 1 x := by
  cases v <;> rfl

theorem windowCode_eq (w : Option Time) : windowCode w = if w = none then 1 else 0 := by cases w <;> rfl

theorem regionLines_eq (m : Media) (g : Fin 4) (code : Nat) : m.regionLines g code =
    m.lines.countP fun l => l.cond.code == code && l.region == g :=
  List.countP_congr fun l _ => by rw [Bool.and_comm]

theorem toList_eq_map_finRange {α : Type} {n : Nat} (v : Vector α n) : v.toList = (List.finRange n).map fun i => v[i] :=
  List.ext_getElem (by simp) (by simp)

theorem inUse_eq (m : Media) (k : TransferKind) : m.inUse k = (List.finRange 16).countP fun e =>
    (m.table[e]).use.any fun t => t.kind == k && true := by
  rw [Media.inUse, toList_eq_map_finRange, List.countP_map]
  refine List.countP_congr fun e _ => ?_
  rw [Function.comp_apply]
  cases (m.table[e]).use <;> simp

theorem entriesOf_length (m : Media) (g : Fin 4) (k : TransferKind) : (m.entriesOf g (· == k)).length =
    (List.finRange 16).countP fun e => (m.table[e]).use.any fun t => t.kind == k && t.region == g := by
  rw [Media.entriesOf, List.countP_eq_length_filter]
  congr 1
  refine List.filter_congr fun e _ => ?_
  cases (m.table[e]).use <;> simp [Bool.and_comm]

theorem guardPasses_not (now : Time) (g : GuardRecord) : (!guardPasses now (some g)) =
    decide (g.secs ≠ 0 ∧ (now - g.fall).toNat < g.secs * 1000000) := by
  rw [guardPasses, Bool.not_or, Bool.decide_and, ← decide_not, decide_eq_decide.mpr Nat.not_le]
  exact congrArg (· && _) (decide_not (p := g.secs = 0)).symm

theorem natBytes_zero (n : Nat) : natBytes n 0 = List.replicate n 0 := by
  induction n with
  | zero => rfl
  | succ n ih => rw [natBytes, Nat.zero_div, ih, List.replicate_succ']; rfl

theorem bits_byte (p : Privileges) : p.bytes = [BitVec.ofBool p.admin ++ BitVec.ofBool p.power ++ BitVec.ofBool p.media ++
    BitVec.ofBool p.typing ++ BitVec.ofBool p.view |>.zeroExtend 8] := by
  obtain ⟨view, typing, media, power, admin⟩ := p
  revert view typing media power admin
  decide

theorem txCells_eq (e : Egress) : e.txCells = (e.tx.map fun x => x.q.frame.cells).getD 0 := by
  rw [Egress.txCells]
  cases e.tx <;> rfl


theorem lineCounts_eq (m : Media) : m.lineCounts =
    count4 (m.linesIn 0) ++ count4 (m.linesIn 1) ++ count4 (m.linesIn 2) ++ count4 (m.linesIn 3) ++ count4 (m.linesIn 4) := rfl

theorem queueCells_eq_append (e : Egress) : e.queueCells =
    queuedCells (e.queues[0].frames ++ e.queues[1].frames ++ e.queues[2].frames ++ e.queues[3].frames) := by
  simp only [Egress.queueCells_eq, queuedCells_append]

theorem queueCells_eq_sum (e : Egress) : e.queueCells = (e.queues.toList.map fun q => queuedCells q.frames).sum := by
  rw [Egress.queueCells_eq, toList_four]
  simp only [List.map_cons, List.map_nil, List.sum_cons, List.sum_nil, Nat.add_zero, Nat.add_assoc]

theorem outcome_bytes (o : ScriptOutcome) : o.bytes = match o with
    | .ok => [0, 0, 0, 0]
    | .failed code => [1, 1] ++ natBytes 2 code.toNat
    | .fault => [2, 0, 0, 0]
    | .aborted => [3, 0, 0, 0] := by
  cases o <;> rfl

theorem contextBytes_running (c : Running) : natBytes 1 (engineCode (some c)) ++ contextBytes (some c) =
    (match c.wait with | .delaying _ => 1 | .acting => 2 | .awaiting _ => 3 | .guardWait _ => 4) :: 1 ::
      natBytes 1 c.script.val ++ c.source.bytes ++ natBytes 1 c.prio ++ flagByte c.preemptible ++ timeBytes c.start ++
      natBytes 1 c.cur ++ natBytes 1 c.stack.length ++ (c.stack.map (natBytes 1)).flatten ++ (match c.wait with
        | .acting => List.replicate 7 0
        | .delaying t => 1 :: timeBytes t
        | .awaiting t => 1 :: timeBytes t
        | .guardWait t => 1 :: timeBytes t) := by
  cases wait : c.wait <;> simp only [engineCode, contextBytes, Running.bytes, wait, Wait.expiry, List.cons_append, natBytes_one] <;> rfl

theorem contextBytes_idle : natBytes 1 (engineCode none) ++ contextBytes none = List.replicate 22 0 := rfl

theorem natBytes_boolNat (b : Bool) : natBytes 1 (boolNat b) = flagByte b := by cases b <;> rfl

theorem txCode_eq (e : Egress) : e.txCode = if e.tx = none then 0 else 1 := by
  rw [Egress.txCode]
  cases e.tx <;> rfl

theorem guardBytes_some (now : Time) (g : GuardRecord) : guardBytes now (some g) = 1 :: timeBytes g.fall ++ natBytes 2 g.secs ++
      timeBytes (g.fall + BitVec.ofNat 48 (g.secs * 1000000)) ++
      flagByte (decide (g.secs ≠ 0 ∧ (now - g.fall).toNat < g.secs * 1000000)) := by
  rw [guardBytes, guardPasses_not]
  rfl

theorem lineStats_eq (s : State) : s.lineStats = counters [s.line.cnt.rxChars, s.line.cnt.framingErr, s.line.cnt.parityErr,
      s.line.cnt.breakIn, s.line.cnt.txChars, s.line.cnt.breakOut, s.line.cnt.ctsWait, s.line.cnt.autobaudOvf,
      s.line.cnt.autobaudOk, s.line.cnt.autobaudFail, s.line.cnt.typeShort] ++ natBytes 1 s.line.state.code ++
    natBytes 4 s.line.set.div ++ natBytes 4 (100000000 / s.line.set.div) ++ natBytes 4 s.line.fifo.length ++
    optBytes 1 (s.line.owner.map fun o => o.op.val) := by
  simp only [State.lineStats, divBytes, List.append_assoc, ownerBytes, State.ownerOp, Option.map_map]
  rfl

theorem idleDeadline_eq (l : ConsoleLine) : l.idleDeadline = l.owner.bind fun o => if l.set.idleLimit = 0 then none
    else some (o.last + BitVec.ofNat 48 (l.set.idleLimit * 1000000)) := by
  rw [ConsoleLine.idleDeadline]
  cases l.owner <;> rfl

theorem watcherBytes_eq (w : Option Watcher) : watcherBytes w = match w with
    | none => List.replicate 14 0
    | some w => 1 :: natBytes 1 w.op.val ++ flagByte w.wantsData ++ flagByte w.wantsNotices ++ timeBytes w.next ++
        counters [w.lost] := by
  cases w with
  | none => rfl
  | some w => rfl

theorem edges_pairs (c : PowerCounters) : ((List.finRange 4).map fun k => [c.rises[k], c.falls[k]]).flatten =
    [c.rises[0], c.falls[0], c.rises[1], c.falls[1], c.rises[2], c.falls[2], c.rises[3], c.falls[3]] := rfl

theorem counters_append (a b : List Counter) : counters (a ++ b) = counters a ++ counters b := by
  simp only [counters, List.map_append, List.flatten_append]

theorem epochBytes_eq (v : Option Nat) : epochBytes v = match v with | none => List.replicate 6 0 | some v => 1 :: natBytes 5 v := by
  cases v <;> rfl

/-! ### What a record reads is not what taking it from the list changes -/

theorem groupBytes_popRecord (s : State) (g : Group) : s.popRecord.groupBytes g = s.groupBytes g := by
  cases g <;> rfl

theorem entryBytes_popRecord (s : State) (t : TableId) (i : Nat) : s.popRecord.entryBytes t i = s.entryBytes t i := by
  cases t <;> rfl

theorem runtimeBytes_popRecord (s : State) (t : TableId) (i : Nat) : s.popRecord.runtimeBytes t i = s.runtimeBytes t i := by
  cases t <;> rfl

/-- Settles O29: each record by what its handler answers, and the values by unfolding their lists one beside the other. -/
theorem readingRecordsChangeNothing : Obligations.ReadingRecordsChangeNothing := by
  refine ⟨fun r s passes => ?_, ?_⟩
  · intro h
    refine ⟨fun ready => answers_of_handler (h := fun _ t => ⟨.ok, t.identityBytes, t⟩) rfl nofun ready passes rfl,
      fun ready => answers_of_handler (h := fun _ t => ⟨.ok, t.powerStatusBytes, t⟩) rfl nofun ready passes rfl,
      fun ready => answers_of_handler (h := fun _ t => ⟨.ok, t.lineStatusBytes, t⟩) rfl nofun ready passes rfl,
      fun ready => ⟨fun g body => ?_, fun b body beyond => ?_⟩,
      fun ready => ⟨fun b g body known => ?_, fun b body unknown => ?_⟩, fun ready => ⟨fun body => ?_, fun first body => ?_⟩,
      fun ready x len body => ⟨fun least most near => ?_, fun beyond near short => ?_, fun ahead => ?_⟩,
      fun ready => ⟨fun body => ?_, fun b rest body unknown => ?_, fun b rest t body known bad => ?_,
        fun b i t body known => ⟨fun beyond => ?_, fun e entry => ?_⟩⟩⟩
    · exact answers_of_handler (h := State.mediaStatus) rfl nofun ready passes (mediaStatus_of_region body)
    · exact answers_of_handler (h := State.mediaStatus) rfl nofun ready passes (mediaStatus_of_beyond body beyond)
    · rw [← groupBytes_popRecord]
      exact answers_of_handler (h := State.statsRead false) rfl nofun ready passes (statsRead_keeping body known)
    · exact answers_of_handler (h := State.statsRead false) rfl nofun ready passes (statsRead_of_unknown body unknown false)
    · exact answers_of_handler (h := State.consoleMarks) rfl nofun ready passes (consoleMarks_all body)
    · exact answers_of_handler (h := State.consoleMarks) rfl nofun ready passes (consoleMarks_from body)
    · exact answers_of_handler (h := State.consoleFetch) rfl nofun ready passes (consoleFetch_kept body (fetch_held least most near _))
    · exact answers_of_handler (h := State.consoleFetch) rfl nofun ready passes (consoleFetch_gap body (fetch_below beyond near short _))
    · exact answers_of_handler (h := State.consoleFetch) rfl nofun ready passes (consoleFetch_kept body (fetch_ahead ahead _))
    · exact answers_of_handler (h := State.tableRead) rfl nofun ready passes (tableRead_of_empty body)
    · exact answers_of_handler (h := State.tableRead) rfl nofun ready passes (tableRead_of_unknown body unknown)
    · exact answers_of_handler (h := State.tableRead) rfl nofun ready passes (tableRead_of_badLength body known bad)
    · refine answers_of_handler (h := State.tableRead) rfl nofun ready passes ((tableRead_of_index body known).trans ?_)
      rw [entryBytes_popRecord, beyond]
    · refine answers_of_handler (h := State.tableRead) rfl nofun ready passes ((tableRead_of_index body known).trans ?_)
      rw [entryBytes_popRecord, entry, runtimeBytes_popRecord]
  · intro s b1 b2 b4 time cs flag optional expiry inState users uses conditions dirty owner region changeDue open'
    have flags : flag = flagByte := funext fun b => (flagByte_eq b).symm
    clear_value flag
    subst flags
    have optionals : optional = optBytes := by
      funext n v
      cases v with
      | none => exact (natBytes_zero _).symm
      | some x => rfl
    clear_value optional
    subst optionals
    have closed : open' = natBytes 1 (windowCode s.power.window) := congrArg (natBytes 1) (windowCode_eq _).symm
    clear_value open'
    subst closed
    have regions (g : Fin 4) : region g = (s.media.regions[g]).runtimeBytes := by
      simp only [region, Region.runtimeBytes]
      cases (s.media.regions[g]).err <;> rfl
    have transfers : uses = s.media.useCounts := by simp only [Media.useCounts, inUse_eq]; rfl
    have conds : conditions (fun _ => true) = s.media.lineCounts := by
      simp only [conditions, inState, Bool.and_true, lineCounts_eq]
      rfl
    have changes (k : Fin 4) : changeDue k = (s.power.sense[k]).pending.changeDue := by
      simp only [changeDue]
      cases (s.power.sense[k]).pending <;> rfl
    refine ⟨?_, ?_, ?_, fun g => ?_, fun p => ?_, rfl, ?_, ?_, ?_, ?_, ?_, ?_, ?_, fun p k => ?_, ?_, ?_, ?_, ?_, ?_, ?_, ?_, ?_, ?_, ?_, ?_, ?_, ?_⟩
    · simp only [State.identityBytes, StartRecord.bytes, ImageStatus.bytes, List.append_assoc]
      cases s.loader.start.cause <;> cases s.loader.image.source <;> rfl
    · simp only [State.powerStatusBytes, lastOutcomeBytes, outcome_bytes]
      cases s.script.running with
      | none => rw [contextBytes_idle]; cases s.script.last <;> rfl
      | some c => rw [contextBytes_running]; cases s.script.last <;> rfl
    · unfold State.lineStatusBytes OutLine.statusBytes State.senseBytes
      simp only [natBytes_boolNat, changes]
      cases s.power.guardRec with
      | none => rfl
      | some g => rw [guardBytes_some]; rfl
    · simp only [State.mediaStatusBytes, regions, entriesOf_length, List.append_assoc]
      simp only [conditions, inState, ← regionLines_eq]
      rfl
    · cases p <;> simp only [State.groupBytes, State.portStats, txCode_eq] <;> rfl
    · simp only [State.groupBytes]
      rfl
    · simp only [State.groupBytes, State.poolStats, queueCells_eq_sum]
      rfl
    · rfl
    · refine congr (congrArg HAppend.hAppend ((lineStats_eq s).trans ?_)) ?_
      · rfl
      · rw [State.historyStats, funext watcherBytes_eq]
        rfl
    · simp only [State.groupBytes, State.mediaStats, transfers, conds, List.append_assoc]
      rfl
    · simp only [State.groupBytes, State.powerUnitStats, State.scriptStats, natBytes_boolNat, edges_pairs, counters_append, toList_four]
      rfl
    · intro i
      simp only [State.runtimeBytes, idx?_val]
      exact (List.append_nil _).symm
    · cases p
      · simp only [State.runtimeBytes, Nat.add_zero, idx?_val]
        rfl
      · simp only [State.runtimeBytes, idx?_of_ge (Nat.le_add_left 4 k.val), Nat.add_sub_cancel, idx?_val]
        rfl
    · rfl
    · intro i
      simp only [State.runtimeBytes, idx?_val, Option.map_some, Option.getD_some]
      refine ⟨(List.append_nil _).symm, ?_, (List.append_nil _).symm⟩
      rfl
    · simp only [State.runtimeBytes, ConsoleLine.runtimeBytes, idleDeadline_eq, ownerBytes, Option.map_map]
      rfl
    · rfl
    · intro g
      simp only [State.runtimeBytes, idx?_val, regions, Option.map_some, Option.getD_some]
    · simp only [State.runtimeBytes, transfers, conds, List.append_assoc]
      rfl
    · intro k
      simp only [State.runtimeBytes, idx?_val, flagByte_eq]
      rfl
    · intro k
      simp only [State.runtimeBytes, idx?_val, changes, flagByte_eq]
      rfl
    · intro t i listed
      simp only [List.mem_cons, List.not_mem_nil, or_false] at listed
      rcases listed with rfl | rfl | rfl | rfl | rfl | rfl <;> rfl
    · intro m
      rw [Mark.bytes, epochBytes_eq]
      rfl
    · exact ⟨rfl, rfl, rfl, rfl, rfl, rfl, rfl, rfl, rfl, fun _ => rfl, rfl, fun _ _ _ _ => rfl, fun _ => rfl, fun _ _ => rfl,
        fun _ _ _ _ => rfl, fun _ => rfl, rfl, fun _ _ => ⟨rfl, rfl, rfl, rfl⟩, bits_byte⟩
    · simp only [State.txCells, txCells_eq]
    · simp only [State.frameCells, State.txCells, txCells_eq, queueCells_eq_append, ← Nat.add_assoc]
      rfl

end Sys2Proof.Machine
end

section
/-! A TABLE_WRITE, before and after what the owning block makes of its entry (R56, R180). -/

namespace Sys2Proof.Machine

/-! ### The tables by code and size -/

theorem ofCode_eq_some_iff (t : TableId) (n : Nat) : TableId.ofCode n = some t ↔ n = t.code := by
  constructor
  · intro found
    unfold TableId.ofCode at found
    split at found <;> cases found <;> rfl
  · rintro rfl
    cases t <;> rfl

theorem entryForm_iff (t : TableId) (i : Nat) (e : List Byte) : t.entryForm i e = true ↔ t.entries ≤ i ∨ e.length = t.entryLength i := by
  simp only [TableId.entryForm, Bool.or_eq_true, decide_eq_true_eq, beq_iff_eq]

/-! ### What a TABLE_WRITE answers -/

section
variable {r : Rec} {s s1 : State} {t : TableId}

theorem isEmpty_false {l : List Byte} (filled : l ≠ []) : l.isEmpty = false := List.isEmpty_eq_false_iff.mpr filled

/-- A TABLE_WRITE that names a table is executed by a command that writes that table. -/
theorem exec_command_of_write (write : r.type = 0x0003) (filled : r.body ≠ []) (named : TableId.ofCode r.tableCode = some t) :
    exec r.command s = .next (s.runRecord r.command (State.tableWrite t)) ∧ r.command ≠ .recordUnknownType := by
  refine ⟨?_, command_of_write_ne_unknown write⟩
  rw [command_of_write write, isEmpty_false filled, if_neg Bool.false_ne_true, named]
  cases t
  case domain | meter | console => dsimp only; split <;> rfl
  all_goals rfl

theorem tableWrite_of_storing (storing : s.loader.store ≠ .idle) : s.tableWrite t r = s.refusedWrite t r .busy := if_pos storing

theorem tableWrite_of_malformed (noStore : s.loader.store = .idle)
    (bad : r.body.length < 2 ∨ t.entryForm r.tableIndex r.tableEntry = false) : s.tableWrite t r = s.refusedWrite t r .malformed := by
  rw [State.tableWrite, if_neg (not_not_intro noStore), if_pos bad]

theorem tableWrite_of_formed (noStore : s.loader.store = .idle) (long : 2 ≤ r.body.length)
    (form : t.entryForm r.tableIndex r.tableEntry = true) : s.tableWrite t r =
      match s.writeEntry t r.tableIndex r.tableEntry with
      | .error st => s.refusedWrite t r st
      | .ok s1 => ⟨.ok, tableHead r ++ (s1.entryBytes t r.tableIndex).getD [] ++
          (if t = .operator then s.operatorReport r.tableIndex else []), s1⟩ := by
  have formed : ¬ (r.body.length < 2 ∨ t.entryForm r.tableIndex r.tableEntry = false) := by
    rw [form]; simp only [Bool.true_eq_false, or_false]; omega
  exact (if_neg (not_not_intro noStore)).trans (if_neg formed)

theorem tableWrite_of_error {st : Status} (noStore : s.loader.store = .idle) (long : 2 ≤ r.body.length)
    (form : t.entryForm r.tableIndex r.tableEntry = true) (written : s.writeEntry t r.tableIndex r.tableEntry = .error st) :
    s.tableWrite t r = s.refusedWrite t r st := by
  rw [tableWrite_of_formed noStore long form, written]

theorem tableWrite_of_ok (noStore : s.loader.store = .idle) (long : 2 ≤ r.body.length)
    (form : t.entryForm r.tableIndex r.tableEntry = true) (written : s.writeEntry t r.tableIndex r.tableEntry = .ok s1) :
    s.tableWrite t r = ⟨.ok, tableHead r ++ (s1.entryBytes t r.tableIndex).getD [] ++
      (if t = .operator then s.operatorReport r.tableIndex else []), s1⟩ := by
  rw [tableWrite_of_formed noStore long form, written]

theorem refusedWrite_malformed : s.refusedWrite t r .malformed = ⟨.malformed, r.body.take 2, s⟩ := by
  rw [State.refusedWrite, if_pos rfl, List.append_nil]; rfl

theorem refusedWrite_of_other {st : Status} (other : st ≠ .malformed) : s.refusedWrite t r st =
    ⟨st, r.body.take 2 ++ if r.body.length < 2 then [] else (s.entryBytes t r.tableIndex).getD [], s⟩ := by
  rw [State.refusedWrite, if_neg other, tableHead]
  split <;> rfl

/-! ### Beyond a table's entries -/

theorem entryBytes_of_beyond {i : Nat} (beyond : t.entries ≤ i) : s.entryBytes t i = none := by
  have none {n : Nat} (entries : n ≤ i) : idx? n i = none := idx?_of_ge entries
  cases t
  case domain | meter => 
    have beyond : 17 ≤ i := beyond
    simp only [State.entryBytes, none (n := 16) (by omega), if_neg (show i ≠ 16 by omega)]
  case port | console =>
    obtain ⟨k, rfl⟩ := Nat.exists_eq_add_of_le' beyond
    rfl
  case queue =>
    have beyond : 11 ≤ i := beyond
    simp only [State.entryBytes, Scheduler.entryBytes, none (n := 4) (by omega), idx?_of_ge (n := 4) (v := i - 4) (by omega)]
    split <;> first | rfl | omega
  case pool | mediaParams => exact if_neg (Nat.ne_of_gt beyond)
  all_goals exact congrArg (Option.map _) (none beyond)

theorem writeEntry_of_beyond {i : Nat} (beyond : t.entries ≤ i) (e : List Byte) : s.writeEntry t i e = .error .noSuch := by
  have none {n : Nat} (entries : n ≤ i) : idx? n i = none := idx?_of_ge entries
  cases t
  case domain =>
    have beyond : 17 ≤ i := beyond
    simp only [State.writeEntry, State.writeDomain, none (n := 16) (by omega), if_neg (show i ≠ 16 by omega)]
  case meter =>
    have beyond : 17 ≤ i := beyond
    simp only [State.writeEntry, State.writeMeter, none (n := 16) (by omega), if_neg (show i ≠ 16 by omega)]
  case port | console =>
    obtain ⟨k, rfl⟩ := Nat.exists_eq_add_of_le' beyond
    rfl
  case queue =>
    have beyond : 11 ≤ i := beyond
    simp only [State.writeEntry, State.writeQueue, none (n := 4) (by omega), idx?_of_ge (n := 4) (v := i - 4) (by omega)]
    split <;> first | rfl | omega
  case pool | mediaParams => exact if_neg (Nat.ne_of_gt beyond)
  case steering => simp only [State.writeEntry, State.writeSteering, none (n := 64) beyond]
  case pcpMap => simp only [State.writeEntry, State.writePcpMap, none (n := 8) beyond]
  case operator => simp only [State.writeEntry, State.writeOperator, none (n := 8) beyond]
  case pattern => simp only [State.writeEntry, State.writePattern, none (n := 8) beyond]
  case region => simp only [State.writeEntry, State.writeRegion, none (n := 4) beyond]
  case line => simp only [State.writeEntry, State.writeLine, none (n := 6) beyond]
  case sense => simp only [State.writeEntry, State.writeSense, none (n := 4) beyond]
  case senseTrigger => simp only [State.writeEntry, State.writeSenseTrigger, none (n := 8) beyond]
  case scriptDir => simp only [State.writeEntry, State.writeScriptDir, none (n := 16) beyond]
  case scriptStep => simp only [State.writeEntry, State.writeScriptStep, none (n := 256) beyond]

end

/-! ### A command that writes a table -/

/-- Command `c` executes the TABLE_WRITEs of table `t`. -/
def WritesTable (c : Instr) (t : TableId) : Prop :=
  c ≠ .recordUnknownType ∧ ∀ s, exec c s = .next (s.runRecord c (State.tableWrite t))

section
variable {c : Instr} {t : TableId} {r : Rec} {s s1 : State} {st : Status} {body : List Byte}

theorem answers_of_tableWrite (owns : WritesTable c t) (ready : Ready c r s) (passes : Passes r s)
    (answer : s.popRecord.tableWrite t r = ⟨st, body, s1⟩) : Answers c s r st body s1 :=
  answers_of_handler (h := State.tableWrite t) (owns.2 s) owns.1 ready passes answer

theorem refuses_malformed (owns : WritesTable c t) (ready : Ready c r s) (passes : Passes r s) (noStore : s.loader.store = .idle)
    (bad : r.body.length < 2 ∨ t.entryForm r.tableIndex r.tableEntry = false) : Refuses c s r .malformed (r.body.take 2) :=
  answers_of_tableWrite owns ready passes ((tableWrite_of_malformed (s := s.popRecord) noStore bad).trans refusedWrite_malformed)

theorem refuses_storing (owns : WritesTable c t) (ready : Ready c r s) (passes : Passes r s) (storing : s.loader.store ≠ .idle) :
    Refuses c s r .busy (r.body.take 2 ++ if r.body.length < 2 then [] else (s.entryBytes t r.tableIndex).getD []) := by
  rw [← entryBytes_popRecord]
  exact answers_of_tableWrite owns ready passes
    ((tableWrite_of_storing (s := s.popRecord) storing).trans (refusedWrite_of_other nofun))

theorem refusesWrite_of_error (owns : WritesTable c t) (ready : Ready c r s) (passes : Passes r s)
    (noStore : s.loader.store = .idle) (long : 2 ≤ r.body.length) (form : t.entryForm r.tableIndex r.tableEntry = true)
    (written : s.popRecord.writeEntry t r.tableIndex r.tableEntry = .error st) (other : st ≠ .malformed) :
    RefusesWrite c s r t r.tableIndex st := by
  rw [RefusesWrite, ← entryBytes_popRecord]
  refine answers_of_tableWrite owns ready passes
    ((tableWrite_of_error (s := s.popRecord) noStore long form written).trans ((refusedWrite_of_other other).trans ?_))
  rw [if_neg (Nat.not_lt.mpr long)]

theorem answers_of_written (owns : WritesTable c t) (ready : Ready c r s) (passes : Passes r s)
    (noStore : s.loader.store = .idle) (long : 2 ≤ r.body.length) (form : t.entryForm r.tableIndex r.tableEntry = true)
    (written : s.popRecord.writeEntry t r.tableIndex r.tableEntry = .ok s1) :
    Answers c s r .ok (r.body.take 2 ++ (s1.entryBytes t r.tableIndex).getD [] ++
      if t = .operator then s.popRecord.operatorReport r.tableIndex else []) s1 :=
  answers_of_tableWrite owns ready passes (tableWrite_of_ok (s := s.popRecord) noStore long form written)

theorem writes_of_written (owns : WritesTable c t) (ready : Ready c r s) (passes : Passes r s)
    (noStore : s.loader.store = .idle) (long : 2 ≤ r.body.length) (form : t.entryForm r.tableIndex r.tableEntry = true)
    (written : s.popRecord.writeEntry t r.tableIndex r.tableEntry = .ok s1) (noReport : t ≠ .operator) :
    Writes c s r t r.tableIndex s1 := by
  have answers := answers_of_written owns ready passes noStore long form written
  rwa [if_neg noReport, List.append_nil] at answers

end

/-- Settles O30: a TABLE_WRITE passes the tests of R56 one after the other, and the owner's answer is the record's. -/
theorem tableWriteJudgedInOrder : Obligations.TableWriteJudgedInOrder := by
  refine ⟨fun r s ready passes => ?_, fun r write => ?_, fun r b rest body => ?_, fun t code entries listed => ?_, fun i => ?_,
    entryForm_iff, fun c t r s ready passes write filled named => ?_⟩
  · have answer (st : Status) (h : (if r.body.isEmpty then Status.malformed else .noSuch) = st) :
        Refuses .tableWriteUnknown s r st (r.body.take 2) :=
      answers_of_handler (h := State.tableWriteUnknown) rfl nofun ready passes (by rw [State.tableWriteUnknown, h]; rfl)
    refine ⟨fun filled => answer _ (if_neg (by rw [isEmpty_false filled]; exact Bool.false_ne_true)), fun empty => ?_⟩
    have refused := answer .malformed (if_pos (by rw [empty]; rfl))
    rwa [empty] at refused
  · rw [command_of_write write]
    by_cases empty : r.body = []
    · simp [empty]
    · rw [isEmpty_false empty, if_neg Bool.false_ne_true]
      simp only [empty, false_or]
      cases TableId.ofCode r.tableCode with
      | none => simp
      | some t => 
        simp only [reduceCtorEq, iff_false]
        cases t
        case domain | meter | console => dsimp only; split <;> exact nofun
        all_goals exact nofun
  · refine ⟨tableCode_cons body, fun last => ?_, fun i e more => ?_⟩
    · exact tableIndex_eq (i := 0) (e := []) (.inr ⟨last ▸ body, rfl⟩)
    · refine ⟨tableIndex_eq (.inl (more ▸ body)), ?_⟩
      rw [Rec.tableEntry, body, more]; rfl
  · have sizes : t.code = code ∧ t.entries = entries := by
      simp only [List.mem_cons, List.not_mem_nil, or_false, Prod.mk.injEq] at listed
      rcases listed with h | h | h | h | h | h | h | h | h | h | h | h | h | h | h | h | h <;>
        (obtain ⟨rfl, rfl, rfl⟩ := h; exact ⟨rfl, rfl⟩)
    exact ⟨sizes.1, sizes.2, fun n => (ofCode_eq_some_iff t n).trans (by rw [sizes.1])⟩
  · exact ⟨rfl, rfl, rfl, rfl, rfl, rfl, rfl, rfl, rfl, rfl, rfl, rfl, rfl, rfl, rfl, rfl, rfl⟩
  · have kind : r.command = c := ready.kind
    subst kind
    have owns : WritesTable r.command t :=
      ⟨command_of_write_ne_unknown write, fun s => (exec_command_of_write write filled named).1⟩
    refine ⟨refuses_storing owns ready passes, fun noStore short => refuses_malformed owns ready passes noStore (.inl short),
      fun noStore long within bad => refuses_malformed owns ready passes noStore (.inr ?_), fun noStore long beyond => ?_,
      fun noStore long form => ⟨fun st written other => refusesWrite_of_error owns ready passes noStore long form written other,
        fun s1 written => ⟨writes_of_written owns ready passes noStore long form written,
          _, answers_of_written owns ready passes noStore long form written⟩⟩⟩
    · rw [Bool.eq_false_iff, ne_eq, entryForm_iff]
      exact fun h => h.elim (Nat.not_le.mpr within) bad
    · have refused := refusesWrite_of_error owns ready passes noStore long ((entryForm_iff ..).mpr (.inl beyond))
        (writeEntry_of_beyond beyond _) nofun
      rwa [RefusesWrite, entryBytes_of_beyond beyond, Option.getD_none, List.append_nil] at refused

end Sys2Proof.Machine
end

section
/-! The bytes of table entries: how they spell an entry, and that reading them yields it again (11.3). -/

namespace Sys2Proof.Machine

/-! ### Numbers, flags and masks in bytes -/

theorem natBytes_spelled (v : Nat) :
    natBytes 1 v = [BitVec.ofNat 8 (v / 256 ^ 0)] ∧
    natBytes 2 v = [BitVec.ofNat 8 (v / 256 ^ 1), BitVec.ofNat 8 (v / 256 ^ 0)] ∧
    natBytes 4 v = [BitVec.ofNat 8 (v / 256 ^ 3), BitVec.ofNat 8 (v / 256 ^ 2), BitVec.ofNat 8 (v / 256 ^ 1),
      BitVec.ofNat 8 (v / 256 ^ 0)] ∧
    natBytes 5 v = [BitVec.ofNat 8 (v / 256 ^ 4), BitVec.ofNat 8 (v / 256 ^ 3), BitVec.ofNat 8 (v / 256 ^ 2),
      BitVec.ofNat 8 (v / 256 ^ 1), BitVec.ofNat 8 (v / 256 ^ 0)] ∧
    natBytes 6 v = [BitVec.ofNat 8 (v / 256 ^ 5), BitVec.ofNat 8 (v / 256 ^ 4), BitVec.ofNat 8 (v / 256 ^ 3),
      BitVec.ofNat 8 (v / 256 ^ 2), BitVec.ofNat 8 (v / 256 ^ 1), BitVec.ofNat 8 (v / 256 ^ 0)] := by
  simp only [natBytes, Nat.div_div_eq_div_mul, List.nil_append, List.cons_append, Nat.reducePow, Nat.reduceMul, Nat.div_one, and_self]

theorem fieldAt_eq_foldl (off n : Nat) (bs : List Byte) :
    fieldAt off n bs = ((bs.drop off).take n).foldl (fun v b => 256 * v + b.toNat) 0 := by
  simp only [fieldAt, beNat, Nat.mul_comm]

/-- A flag read from its byte. -/
theorem flag_byte (b : Byte) : (beNat [b] != 0) = (b != 0) := by
  rw [beNat_singleton, Bool.eq_iff_iff, bne_iff_ne, bne_iff_ne]
  exact not_congr (byte_eq_iff b 0).symm

theorem mask_byte (b : Byte) (i : Nat) : (beNat [b]).testBit i = b.getLsbD i := by
  rw [beNat_singleton]; rfl

theorem optional_bytes (p x : Byte) : (if (beNat [p] != 0) = true then some (beNat [x]) else none) =
    if p = 0 then none else some x.toNat := by
  rw [flag_byte, beNat_singleton]
  by_cases zero : p = 0
  · rw [if_pos zero, zero]; rfl
  · rw [if_neg zero, if_pos (bne_iff_ne.mpr zero)]

theorem word_bytes {n w : Nat} (x : BitVec w) (fits : 2 ^ w = 256 ^ n) : BitVec.ofNat w (beNat (natBytes n x.toNat)) = x := by
  rw [beNat_natBytes_of_lt (lt_of_lt_of_eq x.isLt fits), BitVec.ofNat_toNat, BitVec.setWidth_eq]

theorem mac_bytes (m : Mac) : BitVec.ofNat 48 (beNat (natBytes 6 m.toNat)) = m := word_bytes m (by decide)

theorem half_bytes (h : Half) : beNat (natBytes 2 h.toNat) = h.toNat := beNat_natBytes_of_lt (lt_of_lt_of_eq h.isLt (by decide))

theorem half_bytes_word (h : Half) : BitVec.ofNat 16 (beNat (natBytes 2 h.toNat)) = h := word_bytes h (by decide)

theorem id_bytes (x : BitVec 32) : BitVec.ofNat 32 (beNat (natBytes 4 x.toNat)) = x := word_bytes x (by decide)

theorem bne_flag (b : Bool) : ((if b = true then 1 else 0 : Byte) != 0) = b := by cases b <;> rfl

/-! ### Entries read from their bytes -/

section
variable (v w x a b c d e f g h : Byte) (vid type : Half) (dst src : Mac) (id : BitVec 32)

theorem readDomain_spelled : readDomain ([v] ++ natBytes 2 vid.toNat ++ [a, b]) =
    ⟨v != 0, vid.toNat, ⟨a.getLsbD 0, a.getLsbD 1, a.getLsbD 2⟩, ⟨b.getLsbD 0, b.getLsbD 1, false⟩⟩ := by
  rw [readDomain, Domain.mk.injEq, portSetAt, portPairAt, PortSet.mk.injEq, PortSet.mk.injEq]
  exact ⟨flag_byte v, half_bytes vid, ⟨mask_byte a 0, mask_byte a 1, mask_byte a 2⟩, mask_byte b 0, mask_byte b 1, rfl⟩

theorem readSteering_spelled : readSteering ([v, a, b] ++ natBytes 6 dst.toNat ++ natBytes 6 src.toNat ++ natBytes 2 vid.toNat ++
    natBytes 2 type.toNat ++ [c, d, e, f, g, h, w, x]) =
      ⟨v != 0, ⟨a.getLsbD 0, a.getLsbD 1, false⟩, b.getLsbD 0, b.getLsbD 1, b.getLsbD 2, b.getLsbD 3, b.getLsbD 4, dst, src, vid.toNat,
        type, c.toNat, d.toNat, if e = 0 then none else some f.toNat, if g = 0 then none else some h.toNat,
        if w = 0 then none else some x.toNat, 0⟩ := by
  rw [readSteering, Steering.mk.injEq, portPairAt, PortSet.mk.injEq]
  exact ⟨flag_byte v, ⟨mask_byte a 0, mask_byte a 1, rfl⟩, mask_byte b 0, mask_byte b 1, mask_byte b 2, mask_byte b 3, mask_byte b 4,
    mac_bytes dst, mac_bytes src, half_bytes vid, half_bytes_word type, beNat_singleton c, beNat_singleton d, optional_bytes e f,
    optional_bytes g h, optional_bytes w x, rfl⟩

theorem readOperator_spelled : readOperator ([v, w] ++ natBytes 6 dst.toNat ++ [a]) =
    ⟨v != 0, w != 0, dst, ⟨a.getLsbD 0, a.getLsbD 1, a.getLsbD 2, a.getLsbD 3, a.getLsbD 4⟩, 0⟩ := by
  rw [readOperator, Operator.mk.injEq, Privileges.mk.injEq]
  exact ⟨flag_byte v, flag_byte w, mac_bytes dst, ⟨mask_byte a 0, mask_byte a 1, mask_byte a 2, mask_byte a 3, mask_byte a 4⟩, rfl⟩

theorem readPattern_spelled (run : List Byte) (length : run.length = 16) :
    readPattern ([v, a] ++ run ++ [w, b, c, d, e, f, g]) = ⟨v != 0, a.toNat, run, w != 0, b.toNat, c.getLsbD 0, c.getLsbD 1,
      c.getLsbD 2, d.toNat, e.toNat, f != 0, g.toNat, v != 0, 0, []⟩ := by
  match run, length with
  | [r0, r1, r2, r3, r4, r5, r6, r7, r8, r9, r10, r11, r12, r13, r14, r15], _ =>
    rw [readPattern, Pattern.mk.injEq]
    exact ⟨flag_byte v, beNat_singleton a, rfl, flag_byte w, beNat_singleton b, mask_byte c 0, mask_byte c 1, mask_byte c 2,
      beNat_singleton d, beNat_singleton e, flag_byte f, beNat_singleton g, flag_byte v, rfl, rfl⟩

theorem readRegionConfig_spelled : readRegionConfig ([v] ++ natBytes 6 src.toNat ++ [a] ++ natBytes 4 id.toNat ++ [b, c, d, e] ++
    natBytes 2 vid.toNat ++ [w]) =
      ⟨v != 0, src, a.toNat, id, b != 0, c != 0, d.toNat, e.toNat, vid.toNat, w != 0⟩ := by
  rw [readRegionConfig, RegionConfig.mk.injEq]
  exact ⟨flag_byte v, mac_bytes src, beNat_singleton a, id_bytes id, flag_byte b, flag_byte c, beNat_singleton d, beNat_singleton e,
    half_bytes vid, flag_byte w⟩

theorem readTrigger_spelled : readTrigger [v, a, b, c, d, w] = ⟨v != 0, a.toNat, b.toNat, c.toNat, d.toNat, w != 0, 0⟩ := by
  rw [readTrigger, Trigger.mk.injEq]
  exact ⟨flag_byte v, beNat_singleton a, beNat_singleton b, beNat_singleton c, beNat_singleton d, flag_byte w, rfl⟩

theorem readScriptDir_spelled : readScriptDir ([v] ++ natBytes 2 vid.toNat ++ [a, w]) = ⟨v != 0, vid.toNat, a.toNat, w != 0⟩ := by
  rw [readScriptDir, ScriptDir.mk.injEq]
  exact ⟨flag_byte v, half_bytes vid, beNat_singleton a, flag_byte w⟩

theorem readStep_spelled : readStep ([a, b] ++ natBytes 2 vid.toNat ++ natBytes 2 type.toNat) =
    ⟨a.toNat, b.toNat, vid.toNat, type.toNat⟩ := by
  rw [readStep, Step.mk.injEq]
  exact ⟨beNat_singleton a, beNat_singleton b, half_bytes vid, half_bytes type⟩

end

/-! ### Entries written and read again -/

/-- The byte a mask of flags makes. -/
def maskOf (bits : List Bool) : Byte := BitVec.ofNat 8 (bits.foldr (fun b a => 2 * a + (if b then 1 else 0)) 0)

theorem maskOf_three (a b c : Bool) : (maskOf [a, b, c]).getLsbD 0 = a ∧ (maskOf [a, b, c]).getLsbD 1 = b ∧
    (maskOf [a, b, c]).getLsbD 2 = c := by
  revert a b c
  decide

theorem maskOf_five (a b c d e : Bool) : (maskOf [a, b, c, d, e]).getLsbD 0 = a ∧ (maskOf [a, b, c, d, e]).getLsbD 1 = b ∧
    (maskOf [a, b, c, d, e]).getLsbD 2 = c ∧ (maskOf [a, b, c, d, e]).getLsbD 3 = d ∧ (maskOf [a, b, c, d, e]).getLsbD 4 = e := by
  revert a b c d e
  decide

theorem maskOf_three_eq (a b c : Bool) : maskOf [a, b, c] =
    BitVec.ofNat 8 ((if a = true then 1 else 0) + 2 * (if b = true then 1 else 0) + 4 * (if c = true then 1 else 0)) := by
  revert a b c
  decide

theorem maskOf_five_eq (a b c d e : Bool) : maskOf [a, b, c, d, e] =
    BitVec.ofNat 8 ((if a = true then 1 else 0) + 2 * (if b = true then 1 else 0) + 4 * (if c = true then 1 else 0) +
      8 * (if d = true then 1 else 0) + 16 * (if e = true then 1 else 0)) := by
  revert a b c d e
  decide

theorem byte_toNat {n : Nat} (small : n < 256) : (BitVec.ofNat 8 n).toNat = n := toNat_ofNat_byte small

theorem half_toNat {n : Nat} (small : n < 2 ^ 16) : (BitVec.ofNat 16 n).toNat = n := Nat.mod_eq_of_lt small

theorem optBytes_spelled (v : Option Nat) : optBytes 1 v = [if v.isSome then 1 else 0, BitVec.ofNat 8 (v.getD 0)] := by
  cases v <;> rfl

theorem optional_read {v : Option Nat} (small : ∀ n ∈ v, n < 256) :
    (if (if v.isSome then 1 else 0 : Byte) = 0 then none else some (BitVec.ofNat 8 (v.getD 0)).toNat) = v := by
  cases v with
  | none => rfl
  | some n => exact congrArg some (byte_toNat (small n rfl))

theorem readDomain_bytes {d : Domain} (vid : d.vid < 2 ^ 16) (untagged : d.tag.m = false) : readDomain d.bytes = d := by
  obtain ⟨valid, number, ⟨mu, ms, mm⟩, ⟨tu, ts, tm⟩⟩ := d
  subst untagged
  obtain ⟨m0, m1, m2⟩ := maskOf_three mu ms mm
  obtain ⟨t0, t1, -⟩ := maskOf_three tu ts false
  have read := readDomain_spelled (if valid = true then 1 else 0) (maskOf [mu, ms, mm]) (maskOf [tu, ts, false]) (BitVec.ofNat 16 number)
  rw [half_toNat vid, bne_flag, m0, m1, m2, t0, t1] at read
  exact read

theorem readSteering_bytes {e : Steering} (vid : e.vid < 2 ^ 16) (pcp : e.pcp < 256) (action : e.action < 256)
    (pair : e.ingress.m = false) (override : ∀ v ∈ e.override, v < 256) (meter : ∀ v ∈ e.meter, v < 256)
    (rewrite : ∀ v ∈ e.rewrite, v < 256) : readSteering e.bytes = { e with hits := 0 } := by
  obtain ⟨valid, ⟨iu, is, im⟩, hd, hs, hv, ht, hp, dst, src, number, type, pcpNumber, act, ovr, met, rew, hits⟩ := e
  subst pair
  obtain ⟨i0, i1, -⟩ := maskOf_three iu is false
  obtain ⟨m0, m1, m2, m3, m4⟩ := maskOf_five hd hs hv ht hp
  have read := readSteering_spelled (if valid = true then 1 else 0) (if rew.isSome then 1 else 0) (BitVec.ofNat 8 (rew.getD 0))
    (maskOf [iu, is, false]) (maskOf [hd, hs, hv, ht, hp]) (BitVec.ofNat 8 pcpNumber) (BitVec.ofNat 8 act)
    (if ovr.isSome then 1 else 0) (BitVec.ofNat 8 (ovr.getD 0)) (if met.isSome then 1 else 0) (BitVec.ofNat 8 (met.getD 0))
    (BitVec.ofNat 16 number) type dst src
  rw [half_toNat vid, byte_toNat pcp, byte_toNat action, optional_read override, optional_read meter, optional_read rewrite, bne_flag,
    i0, i1, m0, m1, m2, m3, m4] at read
  rw [Steering.bytes, optBytes_spelled, optBytes_spelled, optBytes_spelled]
  exact read

theorem readOperator_bytes (o : Operator) : readOperator o.bytes = { o with admitted := 0 } := by
  obtain ⟨valid, wildcard, addr, ⟨view, typing, media, power, admin⟩, admitted⟩ := o
  obtain ⟨m0, m1, m2, m3, m4⟩ := maskOf_five view typing media power admin
  have read := readOperator_spelled (if valid = true then 1 else 0) (if wildcard = true then 1 else 0)
    (maskOf [view, typing, media, power, admin]) addr
  rw [bne_flag, bne_flag, m0, m1, m2, m3, m4] at read
  exact read

theorem readPattern_bytes {p : Pattern} (len : p.len < 256) (bytes : p.bytes.length = 16) (qualifier : p.qualifier < 256)
    (script : p.script < 256) (prio : p.prio < 256) (mode : p.mode < 256) :
    readPattern p.entryBytes = { p with armed := p.valid, hits := 0, window := [] } := by
  obtain ⟨valid, n, run, fold, q, mark, notify, request, k, pr, preempt, md, armed, hits, window⟩ := p
  obtain ⟨m0, m1, m2⟩ := maskOf_three mark notify request
  have read := readPattern_spelled (if valid = true then 1 else 0) (if fold = true then 1 else 0) (BitVec.ofNat 8 n)
    (BitVec.ofNat 8 q) (maskOf [mark, notify, request]) (BitVec.ofNat 8 k) (BitVec.ofNat 8 pr) (if preempt = true then 1 else 0)
    (BitVec.ofNat 8 md) run bytes
  rw [bne_flag, bne_flag, bne_flag, byte_toNat len, byte_toNat qualifier, byte_toNat script, byte_toNat prio, byte_toNat mode,
    m0, m1, m2] at read
  match run, bytes with
  | [r0, r1, r2, r3, r4, r5, r6, r7, r8, r9, r10, r11, r12, r13, r14, r15], _ => exact read

theorem readRegionConfig_bytes {c : RegionConfig} (domain : c.domain < 256) (service : c.service < 256) (prefetch : c.prefetch < 256)
    (hold : c.holdMs < 2 ^ 16) : readRegionConfig c.bytes = c := by
  obtain ⟨valid, server, dom, image, wp, boot, serv, pre, ms, auto⟩ := c
  have read := readRegionConfig_spelled (if valid = true then 1 else 0) (if auto = true then 1 else 0) (BitVec.ofNat 8 dom)
    (if wp = true then 1 else 0) (if boot = true then 1 else 0) (BitVec.ofNat 8 serv) (BitVec.ofNat 8 pre) (BitVec.ofNat 16 ms)
    server image
  rw [bne_flag, bne_flag, bne_flag, bne_flag, byte_toNat domain, byte_toNat service, byte_toNat prefetch, half_toNat hold] at read
  exact read

theorem readTrigger_bytes {t : Trigger} (line : t.line < 256) (edge : t.edge < 256) (script : t.script < 256) (prio : t.prio < 256) :
    readTrigger t.bytes = { t with hits := 0 } := by
  obtain ⟨valid, l, e, k, p, preempt, hits⟩ := t
  have read := readTrigger_spelled (if valid = true then 1 else 0) (if preempt = true then 1 else 0) (BitVec.ofNat 8 l)
    (BitVec.ofNat 8 e) (BitVec.ofNat 8 k) (BitVec.ofNat 8 p)
  rw [bne_flag, bne_flag, byte_toNat line, byte_toNat edge, byte_toNat script, byte_toNat prio] at read
  exact read

theorem readScriptDir_bytes {d : ScriptDir} (first : d.first < 2 ^ 16) (prio : d.prio < 256) : readScriptDir d.bytes = d := by
  obtain ⟨valid, f, p, preemptible⟩ := d
  have read := readScriptDir_spelled (if valid = true then 1 else 0) (if preemptible = true then 1 else 0) (BitVec.ofNat 8 p)
    (BitVec.ofNat 16 f)
  rw [bne_flag, bne_flag, byte_toNat prio, half_toNat first] at read
  exact read

theorem readStep_bytes {t : Step} (op : t.op < 256) (operand : t.operand < 256) (arg : t.arg < 2 ^ 16) (delay : t.delay < 2 ^ 16) :
    readStep t.bytes = t := by
  obtain ⟨o, d, a, w⟩ := t
  have read := readStep_spelled (BitVec.ofNat 8 o) (BitVec.ofNat 8 d) (BitVec.ofNat 16 a) (BitVec.ofNat 16 w)
  rw [byte_toNat op, byte_toNat operand, half_toNat arg, half_toNat delay] at read
  exact read

theorem clamp_of_mem {lo hi v : Nat} (least : lo ≤ v) (most : v ≤ hi) : clamp lo hi v = v := by
  unfold clamp; omega

theorem readLineSettings_bytes {l : LineSettings} (least : 32 ≤ l.div) (most : l.div ≤ 65535)
    (idle : l.idleLimit = 0 ∨ (10 ≤ l.idleLimit ∧ l.idleLimit ≤ 3600)) : readLineSettings l.bytes = some l := by
  have bits : fieldAt 0 1 l.bytes = if l.eight = true then 8 else 7 := 
    (beNat_natBytes_of_lt (n := 1) (by split <;> decide) : beNat (natBytes 1 (if l.eight = true then 8 else 7)) = _)
  have parity : parityOf (fieldAt 1 1 l.bytes) = some l.parity := by
    rw [show fieldAt 1 1 l.bytes = _ from beNat_natBytes 1 l.parity.code]
    cases l.parity <;> rfl
  have stop : fieldAt 2 1 l.bytes = if l.twoStop = true then 2 else 1 :=
    (beNat_natBytes_of_lt (n := 1) (by split <;> decide) : beNat (natBytes 1 (if l.twoStop = true then 2 else 1)) = _)
  have flow : fieldAt 3 1 l.bytes = if l.rtsCts = true then 1 else 0 :=
    (beNat_natBytes_of_lt (n := 1) (by split <;> decide) : beNat (natBytes 1 (if l.rtsCts = true then 1 else 0)) = _)
  have div : fieldAt 4 4 l.bytes = l.div :=
    (beNat_natBytes_of_lt (n := 4) (by omega) : beNat (natBytes 4 l.div) = _)
  have limit : fieldAt 8 2 l.bytes = l.idleLimit :=
    (beNat_natBytes_of_lt (n := 2) (by omega) : beNat (natBytes 2 l.idleLimit) = _)
  have divisor : clamp Config.divMin Config.divMax l.div = l.div := clamp_of_mem least most
  have seconds : clampIdle l.idleLimit = l.idleLimit := by
    rw [clampIdle]
    split
    · exact (‹l.idleLimit = 0›).symm
    · exact clamp_of_mem (by omega) (by omega)
  simp only [readLineSettings, bits, parity, stop, flow, div, limit, divisor, seconds]
  obtain ⟨eight, par, two, rts, d, idleLimit⟩ := l
  cases eight <;> cases two <;> cases rts <;> rfl

/-! ### The entry at an index -/

section
variable (s : State)

theorem queueEntry_spelled (p : Port) (k : Fin 4) : s.entryBytes .queue (4 * (match p with | .u => 0 | .s => 1) + k.val) =
    some ((s.sched.port.get p).queues[k]).bytes := by
  cases p
  · simp only [State.entryBytes, Scheduler.entryBytes, Nat.mul_zero, Nat.zero_add, idx?_val]; rfl
  · simp only [State.entryBytes, Scheduler.entryBytes, Nat.mul_one, idx?_of_ge (Nat.le_add_right 4 k.val), Nat.add_sub_cancel_left,
      idx?_val]
    rfl

theorem lineEntry_spelled (k : Fin 6) : s.entryBytes .line k.val = some (([match (s.power.lines[k]).cls with | .momentary => 0 | .latching => 1,
    if (s.power.lines[k]).idle = true then 1 else 0] : List Byte) ++ natBytes 2 (if k = 2 then s.power.guardSecs else 0)) := by
  simp only [State.entryBytes, idx?_val, Option.map_some, OutLine.bytes]
  cases (s.power.lines[k]).cls <;> cases (s.power.lines[k]).idle <;> rfl

theorem modeEntry_spelled (p : Port) : s.entryBytes .queue (8 + match p with | .u => 0 | .s => 1) =
    some ([match (s.sched.port.get p).mode with | .strict => 0 | .weighted => 1] : List Byte) := by
  have code (m : SchedMode) : natBytes 1 m.code = [match m with | .strict => 0 | .weighted => 1] := by cases m <;> rfl
  cases p <;> exact congrArg some (code _)

end

/-- Settles O31: bytes spelled out one after the other, each field read where it stands. -/
theorem entryBytesReadBack : Obligations.EntryBytesReadBack := by
  refine ⟨fun v => natBytes_spelled v, fieldAt_eq_foldl, fun b t m c v => ⟨rfl, rfl, rfl, rfl, rfl, rfl⟩, ⟨rfl, rfl, rfl, rfl⟩,
    fun d e o p c t x y l m => ?_, fun s => ?_, fun v w x a b c d e f g h vid type dst src id run length => ?_,
    fun d => readDomain_bytes, fun e => readSteering_bytes, readOperator_bytes, fun l => readLineSettings_bytes,
    fun p => readPattern_bytes, fun c => readRegionConfig_bytes, fun t => readTrigger_bytes, fun d => readScriptDir_bytes,
    fun t => readStep_bytes⟩
  · intro one bit flag optional
    have flags (b : Bool) : flagByte b = [flag b] := by cases b <;> rfl
    have ports (q : PortSet) : q.bytes = [one (bit q.u + 2 * bit q.s + 4 * bit q.m)] := congrArg ([·]) (maskOf_three_eq ..)
    have optionals (n : Option Nat) : optBytes 1 n = optional n := by cases n <;> rfl
    refine ⟨?_, ?_, ?_, ?_, ?_, ?_, ?_, ?_, ?_, ?_⟩
    · rw [Domain.bytes, flags, ports, ports]
      rfl
    · rw [Steering.bytes, flags, ports, optionals, optionals, optionals]
      have mask : maskByte [e.hasDst, e.hasSrc, e.hasVid, e.hasType, e.hasPcp] = _ := congrArg ([·]) (maskOf_five_eq ..)
      rw [mask]
      rfl
    · rw [Operator.bytes, flags, flags]
      have mask : o.privs.bytes = _ := congrArg ([·]) (maskOf_five_eq ..)
      rw [mask]
      rfl
    · have mask : maskByte [p.mark, p.notify, p.request] = _ := congrArg ([·]) (maskOf_three_eq ..)
      rw [Pattern.entryBytes, flags, flags, flags, mask]
      simp only [List.append_assoc]
      rfl
    · rw [RegionConfig.bytes, flags, flags, flags, flags]
      rfl
    · rw [Trigger.bytes, flags, flags]
      rfl
    · rw [ScriptDir.bytes, flags, flags]
      rfl
    · rfl
    · rw [LineSettings.bytes]
      cases l.eight <;> cases l.parity <;> cases l.twoStop <;> cases l.rtsCts <;> rfl
    · rw [Meter.bytes]
      cases m.mode <;> rfl
  · refine ⟨fun i => ?_, rfl, rfl, fun i => ?_, fun i => ?_, fun p => ?_, rfl, rfl, rfl, rfl, rfl, fun i => ?_, rfl, lineEntry_spelled s,
      fun i => ?_, fun t i => entryBytes_of_beyond⟩
    · refine ⟨?_, ?_, ?_⟩ <;> rw [State.entryBytes, idx?_val] <;> rfl
    · rw [State.entryBytes, idx?_val, Option.map_some]
    · refine ⟨?_, ?_, ?_, ?_⟩ <;> rw [State.entryBytes, idx?_val, Option.map_some]
    · exact ⟨by cases p <;> rfl, fun k => queueEntry_spelled s p k, modeEntry_spelled s p⟩
    · refine ⟨?_, ?_⟩ <;> rw [State.entryBytes, idx?_val, Option.map_some]
    · rw [State.entryBytes, idx?_val, Option.map_some]
  · intro set ports optional
    exact ⟨readDomain_spelled v a b vid, readSteering_spelled v w x a b c d e f g h vid type dst src, readOperator_spelled v w a dst,
      readPattern_spelled v w a b c d e f g run length, readRegionConfig_spelled v w a b c d e vid src id, readTrigger_spelled v w a b c d,
      readScriptDir_spelled v w a vid, readStep_spelled a b vid type⟩

end Sys2Proof.Machine
end

section
/-! Writes of the frame path's tables (R3, R10 to R13, R16). -/

namespace Sys2Proof.Machine

/-! ### A TABLE_WRITE past the common tests -/

section
variable {c : Instr} {t : TableId} {idx : Nat} {e : List Byte} {r : Rec} {s s1 : State} {st : Status}

theorem WriteOf.refused (w : WriteOf c t idx e r s) (owns : WritesTable c t)
    (judged : s.popRecord.writeEntry t idx e = .error st) (other : st ≠ .malformed) : RefusesWrite c s r t idx st := by
  obtain ⟨ready, passes, noStore, long, rfl, rfl, form⟩ := w
  exact refusesWrite_of_error owns ready passes noStore long form judged other

theorem WriteOf.written (w : WriteOf c t idx e r s) (owns : WritesTable c t)
    (judged : s.popRecord.writeEntry t idx e = .ok s1) (noReport : t ≠ .operator) : Writes c s r t idx s1 := by
  obtain ⟨ready, passes, noStore, long, rfl, rfl, form⟩ := w
  exact writes_of_written owns ready passes noStore long form judged noReport

end

/-! ### Domains (R10 to R12) -/

section
variable {s : State} {i : Fin 16} {d : Domain}

/-- R10: a VID of a valid entry lies in 1..4094. -/
def VidOutOfRange (d : Domain) : Prop := d.valid = true ∧ (d.vid < 1 ∨ 4094 < d.vid)

/-- What R10 to R12 refuse with CONFLICT. -/
def DomainConflict (s : State) (i : Fin 16) (d : Domain) : Prop :=
  (d.valid = true ∧ ∃ j : Fin 16, j ≠ i ∧ (s.dom.entries[j]).valid = true ∧ (s.dom.entries[j]).vid = d.vid) ∨
  (i = s.dom.mgmt ∧ ¬ (d.valid = true ∧ d.members.u = true ∧ d.members.m = true ∧ d.members.s = false)) ∨
  ((∃ g : Fin 4, (s.media.regions[g]).cfg.valid = true ∧ (s.media.regions[g]).cfg.domain = i.val) ∧
    ¬ (d.valid = true ∧ d.members.u = true ∧ d.members.m = true)) ∨
  (d.valid = false ∧ ∃ k : Fin 64, (s.steer[k]).valid = true ∧ (s.steer[k]).rewrite = some i.val)

theorem vidOutOfRange_iff : (d.valid && !inRange 1 4094 d.vid) = true ↔ VidOutOfRange d := by
  rw [Bool.and_eq_true, Bool.not_eq_true', Bool.eq_false_iff, ne_eq, inRange_iff, VidOutOfRange]
  exact and_congr_right' (by omega)

theorem sameVid_iff : (d.valid && (List.finRange 16).any fun j => j != i && s.dom.entries[j].valid && s.dom.entries[j].vid == d.vid) =
    true ↔ d.valid = true ∧ ∃ j : Fin 16, j ≠ i ∧ (s.dom.entries[j]).valid = true ∧ (s.dom.entries[j]).vid = d.vid := by
  simp only [Bool.and_eq_true, List.any_eq_true, List.mem_finRange, true_and, bne_iff_ne, beq_iff_eq, and_assoc]

theorem domainRefusal_of_range (out : VidOutOfRange d) : s.domainRefusal i d = some .range := if_pos (vidOutOfRange_iff.mpr out)

theorem domainRefusal_of_inRange (within : ¬ VidOutOfRange d) : s.domainRefusal i d =
    if (d.valid && (List.finRange 16).any fun j => j != i && s.dom.entries[j].valid && s.dom.entries[j].vid == d.vid) = true ∨
      (i = s.dom.mgmt ∧ d.managementOk = false) ∨
      (imageDomainOf s.media.regions i && !(d.valid && d.members.u && d.members.m)) = true ∨
      (!d.valid && rewritesTo s.steer i) = true then some .conflict else none := by
  rw [State.domainRefusal, if_neg (mt vidOutOfRange_iff.mp within)]
  simp only [ite_or]

theorem domainConflict_iff : ((d.valid && (List.finRange 16).any fun j => j != i && s.dom.entries[j].valid &&
      s.dom.entries[j].vid == d.vid) = true ∨ (i = s.dom.mgmt ∧ d.managementOk = false) ∨
      (imageDomainOf s.media.regions i && !(d.valid && d.members.u && d.members.m)) = true ∨
      (!d.valid && rewritesTo s.steer i) = true) ↔ DomainConflict s i d := by
  refine or_congr sameVid_iff (or_congr (and_congr_right' ?_) (or_congr ?_ ?_))
  · rw [← managementOk_iff, Bool.not_eq_true]
  · rw [Bool.and_eq_true, imageDomainOf_iff, Bool.not_eq_true', ← Bool.not_eq_true, Bool.and_eq_true, Bool.and_eq_true, and_assoc]
  · rw [Bool.and_eq_true, rewritesTo_iff, Bool.not_eq_true']

theorem writeDomain_eq (e : List Byte) : s.writeEntry .domain i.val e = match s.domainRefusal i (readDomain e) with
    | some st => .error st
    | none => .ok (s.onDom fun x => { x with entries := x.entries.set i (readDomain e) }) := by
  simp only [State.writeEntry, State.writeDomain, idx?_val] <;> rfl

/-- R11: the entry may become the management domain. -/
def FitForManagement (s : State) (i : Fin 16) : Prop :=
  (s.dom.entries[i]).valid = true ∧ (s.dom.entries[i]).members.u = true ∧ (s.dom.entries[i]).members.m = true ∧
    (s.dom.entries[i]).members.s = false ∧ ¬ ∃ k : Fin 64, (s.steer[k]).valid = true ∧ (s.steer[k]).rewrite = some i.val

theorem fitForManagement_iff : (s.dom.entries[i].managementOk && !rewritesTo s.steer i) = true ↔ FitForManagement s i := by
  rw [Bool.and_eq_true, managementOk_iff, Bool.not_eq_true' (rewritesTo _ _), ← Bool.not_eq_true (rewritesTo _ _), rewritesTo_iff]
  simp only [and_assoc, FitForManagement]

theorem writeMgmt_of_beyond {v : Nat} (beyond : 15 < v) : s.writeMgmt v = .error .noSuch := by
  rw [State.writeMgmt, idx?_of_ge beyond]

theorem writeMgmt_of_fit (fit : FitForManagement s i) : s.writeMgmt i.val = .ok (s.onDom fun x => { x with mgmt := i }) := by
  rw [State.writeMgmt, idx?_val]
  exact if_pos (fitForManagement_iff.mpr fit)

theorem writeMgmt_of_unfit (unfit : ¬ FitForManagement s i) : s.writeMgmt i.val = .error .conflict := by
  rw [State.writeMgmt, idx?_val]
  exact if_neg (mt fitForManagement_iff.mp unfit)

end

/-- Settles O32: the tests of a domain entry and of a new management domain, each as R10 to R12 put it. -/
theorem domainWritesKeepProtections : Obligations.DomainWritesKeepProtections := by
  refine ⟨fun r s i e w => ?_, fun r s v w => ?_⟩
  · intro d outOfRange breaks
    have owns : WritesTable .tableWriteDomain .domain := ⟨nofun, fun _ => rfl⟩
    have judged := writeDomain_eq (s := s.popRecord) (i := i) e
    refine ⟨fun out => w.refused owns (judged.trans ?_) nofun, fun within conflict => w.refused owns (judged.trans ?_) nofun,
      fun within fit => w.written owns (judged.trans ?_) nofun⟩
    · rw [domainRefusal_of_range out]
    · rw [domainRefusal_of_inRange within, if_pos (domainConflict_iff (s := s.popRecord) |>.mpr conflict)]
    · rw [domainRefusal_of_inRange within, if_neg (mt (domainConflict_iff (s := s.popRecord)).mp fit)]
  · have owns : WritesTable .tableWriteMgmtDomain .domain := ⟨nofun, fun _ => rfl⟩
    have judged : s.popRecord.writeEntry .domain 16 [v] = s.popRecord.writeMgmt v.toNat := by
      rw [← fieldAt_zero_one v []]
      rfl
    refine ⟨fun beyond => w.refused owns (judged.trans (writeMgmt_of_beyond beyond)) nofun, fun i value => ?_⟩
    rw [value] at judged
    exact ⟨fun unfit => w.refused owns (judged.trans (writeMgmt_of_unfit (s := s.popRecord) unfit)) nofun,
      fun fit => w.written owns (judged.trans (writeMgmt_of_fit (s := s.popRecord) fit)) nofun⟩

/-! ### Steering (R13) -/

section
variable {s : State} {x : Steering}

/-- The values of an entry that R13 refuses with RANGE. -/
def SteeringOutOfRange (x : Steering) : Prop :=
  (x.hasVid = true ∧ (x.vid < 1 ∨ 4094 < x.vid)) ∨ (x.hasPcp = true ∧ 7 < x.pcp) ∨ 1 < x.action

/-- The meter or the domain an entry names is not there. -/
def SteeringMissing (s : State) (x : Steering) : Prop := (∃ m, x.meter = some m ∧ 15 < m) ∨
  ∃ w, x.rewrite = some w ∧ ∀ d : Fin 16, d.val = w → (s.dom.entries[d]).valid = false

/-- Where the rewrite goes, past the tests of its range and its meter (R13). -/
def State.rewriteRefusal (s : State) (x : Steering) : Option Status :=
  match x.rewrite with
  | none => none
  | some r =>
    match (idx? 16 r).filter fun i => s.dom.entries[i].valid with
    | none => some .noSuch
    | some i => if i = s.dom.mgmt then some .conflict else none

theorem steeringOutOfRange_iff : ((x.hasVid && !inRange 1 4094 x.vid) = true ∨ (x.hasPcp && decide (7 < x.pcp)) = true ∨
    1 < x.action) ↔ SteeringOutOfRange x := by
  refine or_congr ?_ (or_congr ?_ Iff.rfl)
  · rw [Bool.and_eq_true, Bool.not_eq_true', Bool.eq_false_iff, ne_eq, inRange_iff]
    exact and_congr_right' (by omega)
  · rw [Bool.and_eq_true, decide_eq_true_eq]

theorem steeringRefusal_eq : s.steeringRefusal x =
    if (x.hasVid && !inRange 1 4094 x.vid) = true ∨ (x.hasPcp && decide (7 < x.pcp)) = true ∨ 1 < x.action then some .range
    else if x.meter.any (15 < ·) = true then some .noSuch else s.rewriteRefusal x := by
  simp only [ite_or]
  rfl

theorem steeringRefusal_of_range (out : SteeringOutOfRange x) : s.steeringRefusal x = some .range := by
  rw [steeringRefusal_eq, if_pos (steeringOutOfRange_iff.mpr out)]

theorem filter_idx?_eq_none_iff {n w : Nat} {p : Fin n → Bool} : (idx? n w).filter p = none ↔ ∀ d : Fin n, d.val = w → p d = false := by
  by_cases within : w < n
  · rw [show w = (⟨w, within⟩ : Fin n).val from rfl, idx?_val, Option.filter_eq_none_iff]
    exact ⟨fun h d same => Fin.ext same ▸ Bool.eq_false_iff.mpr (h _ rfl),
      fun h d same => Bool.eq_false_iff.mp (h d (congrArg Fin.val (Option.some.inj same).symm))⟩
  · rw [idx?_of_ge (Nat.not_lt.mp within)]
    exact ⟨fun _ d same => absurd (same ▸ d.isLt) within, fun _ => rfl⟩

theorem meterMissing_iff : x.meter.any (15 < ·) = true ↔ ∃ m, x.meter = some m ∧ 15 < m := by
  simp only [Option.any_eq_true, decide_eq_true_eq]

theorem steeringRefusal_of_missing (within : ¬ SteeringOutOfRange x) (missing : SteeringMissing s x) :
    s.steeringRefusal x = some .noSuch := by
  rw [steeringRefusal_eq, if_neg (mt steeringOutOfRange_iff.mp within)]
  by_cases meter : x.meter.any (15 < ·) = true
  · rw [if_pos meter]
  · rw [if_neg meter]
    obtain ⟨w, names, invalid⟩ := missing.resolve_left (mt meterMissing_iff.mpr meter)
    simp only [State.rewriteRefusal, names, filter_idx?_eq_none_iff.mpr invalid]

theorem steeringRefusal_of_rewrite (within : ¬ SteeringOutOfRange x) (there : ¬ SteeringMissing s x) :
    s.steeringRefusal x = if x.rewrite = some s.dom.mgmt.val then some .conflict else none := by
  rw [steeringRefusal_eq, if_neg (mt steeringOutOfRange_iff.mp within), if_neg (fun meter => there (.inl (meterMissing_iff.mp meter)))]
  cases rewrite : x.rewrite with
  | none => simp only [State.rewriteRefusal, rewrite, reduceCtorEq, if_false]
  | some w =>
    have named : (idx? 16 w).filter (fun i => s.dom.entries[i].valid) ≠ none := fun none =>
      there (.inr ⟨w, rewrite, filter_idx?_eq_none_iff.mp none⟩)
    obtain ⟨i, found⟩ := Option.ne_none_iff_exists'.mp named
    have place : i.val = w := by
      have inside := (Option.filter_eq_some_iff.mp found).1
      unfold idx? at inside
      split at inside
      · exact congrArg Fin.val (Option.some.inj inside).symm
      · cases inside
    simp only [State.rewriteRefusal, rewrite, found]
    exact if_congr (by rw [← place, Option.some.injEq, Fin.val_inj]) rfl rfl

theorem writeSteering_of_invalid {i : Fin 64} {e : List Byte} (invalid : (readSteering e).valid = false) :
    s.writeEntry .steering i.val e = .ok (s.setSteering i (readSteering e)) := by
  simp only [State.writeEntry, State.writeSteering, idx?_val, invalid, Bool.false_eq_true, if_false]

theorem writeSteering_of_refused {i : Fin 64} {e : List Byte} {st : Status} (valid : (readSteering e).valid = true)
    (refused : s.steeringRefusal (readSteering e) = some st) : s.writeEntry .steering i.val e = .error st := by
  simp only [State.writeEntry, State.writeSteering, idx?_val, valid, if_true, refused]

theorem writeSteering_of_valid {i : Fin 64} {e : List Byte} (valid : (readSteering e).valid = true)
    (taken : s.steeringRefusal (readSteering e) = none) : s.writeEntry .steering i.val e =
      .ok (s.setSteering i { readSteering e with override := (readSteering e).override.map (min 3) }) := by
  simp only [State.writeEntry, State.writeSteering, idx?_val, valid, if_true, taken]

theorem clampClass_eq {v : Nat} {k : Fin 4} (value : k.val = min v 3) : clampClass v = k := Fin.ext value.symm

theorem writePortSettings_eq {p : Port} {vid : Half} {cls : Byte} : s.writePortSettings p (natBytes 2 vid.toNat ++ [cls]) =
    if inRange 1 4094 vid.toNat = true then
      .ok (s.onPorts fun x => { x with set := x.set.set p ⟨vid.toNat, clampClass cls.toNat⟩ })
    else .error .range := by
  have number : fieldAt 0 2 (natBytes 2 vid.toNat ++ [cls]) = vid.toNat := half_bytes vid
  have cls' : fieldAt 2 1 (natBytes 2 vid.toNat ++ [cls]) = cls.toNat := beNat_singleton cls
  rw [State.writePortSettings, number, cls']

end

/-- Settles O33: each entry by the tests of its rule. -/
theorem steeringPcpAndPortWrites : Obligations.SteeringPcpAndPortWrites := by
  refine ⟨fun r s i e w => ?_, fun r s i v w => ?_, fun r s p idx vid cls place w => ?_, fun r s m w => ?_⟩
  · intro x outOfRange missing toManagement
    have owns : WritesTable .tableWriteSteering .steering := ⟨nofun, fun _ => rfl⟩
    refine ⟨fun invalid => w.written owns (writeSteering_of_invalid invalid) nofun,
      fun valid out => w.refused owns (writeSteering_of_refused valid (steeringRefusal_of_range out)) nofun,
      fun valid within gone => w.refused owns (writeSteering_of_refused valid
        (steeringRefusal_of_missing (s := s.popRecord) within gone)) nofun,
      fun valid within there management => w.refused owns (writeSteering_of_refused valid
        ((steeringRefusal_of_rewrite (s := s.popRecord) within there).trans (if_pos management))) nofun,
      fun valid within there elsewhere => ?_⟩
    have clamps : (min 3 : Nat → Nat) = fun c => if c ≤ 3 then c else 3 := by
      funext c
      split <;> omega
    have judged := writeSteering_of_valid (i := i) valid
      ((steeringRefusal_of_rewrite (s := s.popRecord) within there).trans (if_neg elsewhere))
    rw [clamps] at judged
    exact w.written owns judged nofun
  · have owns : WritesTable .tableWritePcpMap .pcpMap := ⟨nofun, fun _ => rfl⟩
    have judged (k : Fin 4) (value : k.val = min v.toNat 3) :
        s.popRecord.writeEntry .pcpMap i.val [v] = .ok (s.popRecord.setPcp i k) := by
      simp only [State.writeEntry, State.writePcpMap, idx?_val, fieldAt_zero_one, clampClass_eq value]
    exact ⟨fun k value => w.written owns (judged k (by omega)) nofun,
      fun beyond => w.written owns (judged 3 (by show 3 = _; omega)) nofun⟩
  · have owns : WritesTable .tableWritePort .port := ⟨nofun, fun _ => rfl⟩
    have judged : s.popRecord.writeEntry .port idx (natBytes 2 vid.toNat ++ [cls]) =
        s.popRecord.writePortSettings p (natBytes 2 vid.toNat ++ [cls]) := by
      obtain ⟨rfl, rfl⟩ | ⟨rfl, rfl⟩ := place <;> rfl
    rw [writePortSettings_eq] at judged
    refine ⟨fun out => w.refused owns (judged.trans (if_neg (mt inRange_iff.mp (by omega)))) nofun, fun least most k value => ?_⟩
    rw [if_pos (inRange_iff.mpr ⟨least, most⟩), clampClass_eq value] at judged
    exact w.written owns judged nofun
  · have owns : WritesTable .tableWritePort .port := ⟨nofun, fun _ => rfl⟩
    have address : macAt 0 (macBytes m) = m := mac_bytes m
    have judged : s.popRecord.writeEntry .port 2 (macBytes m) =
        if isGroup m = true then .error .range else .ok (s.popRecord.onPorts fun x => { x with partMac := m }) := by
      rw [State.writeEntry, State.writePort, address]
    exact ⟨fun group => w.refused owns (judged.trans (if_pos group)) nofun,
      fun single => w.written owns (judged.trans (if_neg (Bool.eq_false_iff.mp single))) nofun⟩

end Sys2Proof.Machine
end

section
/-! Writes of meters, class queues and the pool (R26, R27, R32, R35), and the lines a lowered ceiling takes (R26, R117). -/

namespace Sys2Proof.Machine

/-! ### A WAITING shaper re-tests (R32) -/

section
variable {s : State} {sh : Shaper}

theorem retestWaiting_of_waiting {t : Time} (waiting : (s.outQueue sh).shaper = .waiting t) : s.retestWaiting sh = s.runShaper sh := by
  rw [State.retestWaiting, waiting]

theorem retestWaiting_of_other (other : ∀ t, (s.outQueue sh).shaper ≠ .waiting t) : s.retestWaiting sh = s := by
  unfold State.retestWaiting
  split
  · exact absurd ‹_› (other _)
  · rfl

theorem retestWaiting_agent_roles (s : State) : (s.retestWaiting .agent).meters.mediaMeter = s.meters.mediaMeter := by
  by_cases waiting : ∃ t, (s.outQueue .agent).shaper = .waiting t
  · obtain ⟨t, waiting⟩ := waiting
    rw [retestWaiting_of_waiting waiting]
    exact (SameButTraffic.runShaper s).meterRoles.2
  · rw [retestWaiting_of_other fun t w => waiting ⟨t, w⟩]

/-! ### Meters (R27) -/

theorem retestIf_eq {α : Type} [DecidableEq α] {a b : α} : s.retestIf (a == b) sh = if a = b then s.retestWaiting sh else s := by
  rw [State.retestIf]
  exact if_congr beq_iff_eq rfl rfl

theorem retestIf_ne {α : Type} [DecidableEq α] {a b : α} : s.retestIf (a != b) sh = if a = b then s else s.retestWaiting sh := by
  rw [State.retestIf, ← ite_not (a = b)]
  exact if_congr bne_iff_ne rfl rfl

/-- The meter a METER entry makes (R27). -/
def Meter.rewritten (m : Meter) (rate burst : Nat) (mode : MeterMode) (now : Time) : Meter :=
  { m with rate := min 125000 rate, burst := burst, mode := mode, credit := burst * 1000, last := now }

section
variable {i : Fin 16} {rate burst : BitVec 32} {mode : Byte}

theorem quad_bytes (x : BitVec 32) : beNat (natBytes 4 x.toNat) = x.toNat :=
  beNat_natBytes_of_lt (lt_of_lt_of_eq x.isLt (by decide))

theorem meterEntry_fields : fieldAt 0 4 (natBytes 4 rate.toNat ++ natBytes 4 burst.toNat ++ [mode]) = rate.toNat ∧
    fieldAt 4 4 (natBytes 4 rate.toNat ++ natBytes 4 burst.toNat ++ [mode]) = burst.toNat ∧
    fieldAt 8 1 (natBytes 4 rate.toNat ++ natBytes 4 burst.toNat ++ [mode]) = mode.toNat :=
  ⟨quad_bytes rate, quad_bytes burst, beNat_singleton mode⟩

theorem writeMeterEntry_of_unknownMode (unknown : 1 < mode.toNat) :
    s.writeMeterEntry i (natBytes 4 rate.toNat ++ natBytes 4 burst.toNat ++ [mode]) = .error .range := by
  obtain ⟨-, -, modeField⟩ := meterEntry_fields (rate := rate) (burst := burst) (mode := mode)
  obtain ⟨n, number⟩ := Nat.exists_eq_add_of_le' unknown
  simp only [State.writeMeterEntry, modeField, number]

theorem writeMeterEntry_of_mode {m : MeterMode} {b : Nat} (known : m.code = mode.toNat) (clamped : b = max 1542 (min 1048575 burst.toNat)) :
    s.writeMeterEntry i (natBytes 4 rate.toNat ++ natBytes 4 burst.toNat ++ [mode]) =
      let written := s.setMeter i ((s.meters.bank[i]).rewritten rate.toNat b m s.clock.now)
      let agents := written.retestIf (s.meters.agentMeter == i) .agent
      .ok (agents.retestIf (s.meters.mediaMeter == i) .media) := by
  obtain ⟨rateField, burstField, modeField⟩ := meterEntry_fields (rate := rate) (burst := burst) (mode := mode)
  have burst' : clamp 1542 1048575 burst.toNat = b := clamped.symm
  have roles (t : State) : (t.retestIf (s.meters.agentMeter == i) .agent).meters.mediaMeter = t.meters.mediaMeter := by
    rw [retestIf_eq]
    split
    · exact retestWaiting_agent_roles t
    · rfl
  simp only [State.writeMeterEntry, rateField, burstField, modeField, ← known, burst']
  cases m <;> exact congrArg (fun k => Except.ok (State.retestIf (k == i) .media _)) (roles _)

end

theorem writeMeterSettings_of_beyond {a m : Byte} (beyond : 15 < a.toNat ∨ 15 < m.toNat) :
    s.writeMeterSettings [a, m] = .error .noSuch := by
  have first : fieldAt 0 1 [a, m] = a.toNat := beNat_singleton a
  have second : fieldAt 1 1 [a, m] = m.toNat := beNat_singleton m
  rw [State.writeMeterSettings, first, second]
  obtain h | h := beyond
  · rw [idx?_of_ge h]
  · rw [idx?_of_ge (v := m.toNat) h]
    cases idx? 16 a.toNat <;> rfl

theorem writeMeterSettings_of_indexes {a m : Byte} {i j : Fin 16} (first : a.toNat = i.val) (second : m.toNat = j.val) :
    s.writeMeterSettings [a, m] =
      let written := s.onMeters fun x => { x with agentMeter := i, mediaMeter := j }
      let agents := if s.meters.agentMeter = i then written else written.retestWaiting .agent
      .ok (if s.meters.mediaMeter = j then agents else agents.retestWaiting .media) := by
  have firstField : fieldAt 0 1 [a, m] = i.val := (beNat_singleton a).trans first
  have secondField : fieldAt 1 1 [a, m] = j.val := (beNat_singleton m).trans second
  simp only [State.writeMeterSettings, firstField, secondField, idx?_val, retestIf_ne]

/-! ### Class queues and modes (R35) -/

theorem writeQueue_of_class {p : Port} {k : Fin 4} {e : List Byte} :
    s.writeQueue (k.val + match p with | .u => 0 | .s => 4) e = .ok (s.writeClassQueue p k e) := by
  cases p
  · simp only [State.writeQueue, Nat.add_zero, idx?_val]
  · simp only [State.writeQueue, idx?_of_ge (Nat.le_add_left 4 k.val), Nat.add_sub_cancel, idx?_val]

theorem writeClassQueue_eq {p : Port} {k : Fin 4} {limit : Half} {weight : Byte} :
    s.writeClassQueue p k (natBytes 2 limit.toNat ++ [weight]) = s.onEgress p fun x => { x with
      queues := x.queues.set k { x.queues[k] with
        cellLimit := max 16 (min 4096 limit.toNat), weight := max 1 (min 15 weight.toNat) } } := by
  have first : fieldAt 0 2 (natBytes 2 limit.toNat ++ [weight]) = limit.toNat := half_bytes limit
  have second : fieldAt 2 1 (natBytes 2 limit.toNat ++ [weight]) = weight.toNat := beNat_singleton weight
  rw [State.writeClassQueue, first, second]
  rfl

theorem writeMode_of_unknown {p : Port} {v : Byte} (unknown : 1 < v.toNat) : s.writeMode p [v] = .error .range := by
  obtain ⟨n, number⟩ := Nat.exists_eq_add_of_le' unknown
  rw [State.writeMode, fieldAt_zero_one, number]
  rfl

theorem writeMode_of_mode {p : Port} {v : Byte} {m : SchedMode} (known : m.code = v.toNat) :
    s.writeMode p [v] = .ok (s.onEgress p fun x => x.setMode m) := by
  rw [State.writeMode, fieldAt_zero_one, ← known]
  cases m <;> rfl

theorem setMode_of_same {x : Egress} {m : SchedMode} (same : x.mode = m) : x.setMode m = x := if_pos same

theorem setMode_of_other {x : Egress} {m : SchedMode} (other : x.mode ≠ m) : x.setMode m = { x with
    mode := m, visit := 3, granted := false, queues := x.queues.map fun q => { q with deficit := 0 } } := by
  have queues : (Vector.ofFn fun k : Fin 4 => { x.queues[k] with deficit := 0 }) = x.queues.map fun q => { q with deficit := 0 } :=
    Vector.ext fun i h => by simp
  rw [Egress.setMode, if_neg other, queues]

theorem onEgress_of_fixed {p : Port} {f : Egress → Egress} (fixed : f (s.sched.port.get p) = s.sched.port.get p) :
    s.onEgress p f = s := by
  cases p
  · exact congrArg (fun e => { s with sched := { s.sched with port := { s.sched.port with u := e } } }) fixed
  · exact congrArg (fun e => { s with sched := { s.sched with port := { s.sched.port with s := e } } }) fixed

theorem onEgress_congr {p : Port} {f g : Egress → Egress} (same : f (s.sched.port.get p) = g (s.sched.port.get p)) :
    s.onEgress p f = s.onEgress p g := by
  cases p
  · exact congrArg (fun e => { s with sched := { s.sched with port := { s.sched.port with u := e } } }) same
  · exact congrArg (fun e => { s with sched := { s.sched with port := { s.sched.port with s := e } } }) same

end

/-! ### The lines a lowered ceiling takes (R26, R117) -/

section
variable {s : State}

/-- One line is taken for the ceiling. -/
def State.ceilingEvicted (l : CacheLine) (s : State) : State :=
  ((s.dropLine l).onPool fun p => { p with ceilingEvict := p.ceilingEvict + 1 }).returnCells 4

theorem trimN_of_within (n : Nat) (within : 4 * s.media.lines.length ≤ s.pool.ceiling) : s.trimN n = s := by
  cases n with
  | zero => rfl
  | succ n => exact if_pos within

theorem trimN_of_noneEvictable (n : Nat) (none : s.media.evictee = none) : s.trimN n = s := by
  cases n with
  | zero => rfl
  | succ n => simp only [State.trimN, none, ite_self]

theorem trimN_of_evictee {l : CacheLine} (n : Nat) (excess : s.pool.ceiling < 4 * s.media.lines.length)
    (found : s.media.evictee = some l) : s.trimN (n + 1) = (s.ceilingEvicted l).trimN n := by
  rw [State.trimN, if_neg (show ¬ Config.lineCells * s.media.lines.length ≤ s.pool.ceiling from Nat.not_le.mpr excess), found]
  rfl

theorem length_ceilingEvicted {l : CacheLine} (held : l ∈ s.media.lines) :
    (s.ceilingEvicted l).media.lines.length < s.media.lines.length :=
  List.length_filter_lt_length_iff_exists.mpr ⟨l, held, by simp [CacheLine.isFor]⟩

/-- As much fuel as there are lines suffices. -/
theorem trimN_of_enough (n m : Nat) : ∀ s : State, s.media.lines.length ≤ n → s.media.lines.length ≤ m → s.trimN n = s.trimN m := by
  induction n generalizing m with
  | zero =>
    intro s empty _
    rw [trimN_of_within m (by omega)]; rfl
  | succ n ih =>
    intro s enough also
    by_cases within : 4 * s.media.lines.length ≤ s.pool.ceiling
    · rw [trimN_of_within _ within, trimN_of_within _ within]
    · cases found : s.media.evictee with
      | none => rw [trimN_of_noneEvictable _ found, trimN_of_noneEvictable _ found]
      | some l =>
        have shorter := length_ceilingEvicted (List.mem_of_find?_eq_some found)
        obtain ⟨k, rfl⟩ : ∃ k, m = k + 1 := Nat.exists_eq_succ_of_ne_zero (by omega)
        rw [trimN_of_evictee _ (Nat.not_le.mp within) found, trimN_of_evictee _ (Nat.not_le.mp within) found]
        exact ih k _ (by omega) (by omega)

theorem trimExcess_of_evictee {l : CacheLine} (excess : s.pool.ceiling < 4 * s.media.lines.length)
    (found : s.media.evictee = some l) : s.trimExcess = (s.ceilingEvicted l).trimExcess := by
  have shorter := length_ceilingEvicted (List.mem_of_find?_eq_some found)
  obtain ⟨k, length⟩ : ∃ k, s.media.lines.length = k + 1 := Nat.exists_eq_succ_of_ne_zero (by omega)
  rw [State.trimExcess, length, trimN_of_evictee k excess found]
  exact trimN_of_enough k _ _ (by omega) (Nat.le_refl _)

theorem evictable_iff {m : Media} {l : CacheLine} : m.evictable l = true ↔ l.cond = .clean ∧
    ¬ ∃ h ∈ m.held, h.op = .read ∧ h.unit = l.region ∧ h.first ≤ l.sector ∧ l.sector < h.first + h.count := by
  simp only [Media.evictable, Held.awaitsLine, Bool.and_eq_true, beq_iff_eq, Bool.not_eq_true', List.any_eq_false, decide_eq_true_eq,
    and_assoc, not_exists, not_and]

theorem evictee_of_split {m : Media} {older newer : List CacheLine} {l : CacheLine} (split : m.lines = older ++ l :: newer)
    (before : ∀ x ∈ older, ¬ m.evictable x = true) (here : m.evictable l = true) : m.evictee = some l := by
  rw [Media.evictee, split, List.find?_append, List.find?_eq_none.mpr before, Option.none_or, List.find?_cons_of_pos here]

end

/-- Settles O34: each entry by its fields, re-tests by the shaper's state, and evictions one line at a time. -/
theorem meterQueueAndPoolWrites : Obligations.MeterQueueAndPoolWrites := by
  refine ⟨fun r s i rate burst mode w => ?_, fun r s a m w => ?_, fun r s p k idx limit weight place w => ?_,
    fun r s p idx v place w => ?_, fun r s a b i j w first second => ?_, fun r s reserve ceiling w => ?_,
    fun s sh => ⟨fun t => retestWaiting_of_waiting, retestWaiting_of_other⟩, fun s => ?_⟩
  · have owns : WritesTable .tableWriteMeter .meter := ⟨nofun, fun _ => rfl⟩
    have judged : s.popRecord.writeEntry .meter i.val (natBytes 4 rate.toNat ++ natBytes 4 burst.toNat ++ [mode]) =
        s.popRecord.writeMeterEntry i (natBytes 4 rate.toNat ++ natBytes 4 burst.toNat ++ [mode]) := by
      simp only [State.writeEntry, State.writeMeter, idx?_val]
    refine ⟨fun unknown => w.refused owns (judged.trans (writeMeterEntry_of_unknownMode unknown)) nofun,
      fun b m clamped known => ?_⟩
    have taken := w.written owns (judged.trans (writeMeterEntry_of_mode known clamped)) nofun
    simp only [retestIf_eq, show s.popRecord.meters = s.meters from rfl] at taken
    refine ⟨fun agent media => ?_, fun agent media => ?_, fun agent media => ?_, fun agent media => ?_⟩
    · rwa [if_neg agent, if_neg media] at taken
    · rwa [if_pos agent, if_neg media] at taken
    · rwa [if_neg agent, if_pos media] at taken
    · rwa [if_pos agent, if_pos media] at taken
  · have owns : WritesTable .tableWriteMeterSettings .meter := ⟨nofun, fun _ => rfl⟩
    exact ⟨fun beyond => w.refused owns (writeMeterSettings_of_beyond (s := s.popRecord) beyond) nofun,
      fun i j first second => w.written owns (writeMeterSettings_of_indexes (s := s.popRecord) first second) nofun⟩
  · have owns : WritesTable .tableWriteQueue .queue := ⟨nofun, fun _ => rfl⟩
    subst place
    exact w.written owns (writeQueue_of_class.trans (congrArg Except.ok writeClassQueue_eq)) nofun
  · have owns : WritesTable .tableWriteQueue .queue := ⟨nofun, fun _ => rfl⟩
    have judged : s.popRecord.writeEntry .queue idx [v] = s.popRecord.writeMode p [v] := by
      subst place
      cases p <;> rfl
    refine ⟨fun unknown => w.refused owns (judged.trans (writeMode_of_unknown unknown)) nofun,
      fun m known same => w.written owns (judged.trans ((writeMode_of_mode known).trans
        (congrArg Except.ok (onEgress_of_fixed (setMode_of_same same))))) nofun,
      fun m known other => w.written owns (judged.trans ((writeMode_of_mode known).trans
        (congrArg Except.ok (onEgress_congr (setMode_of_other other))))) nofun⟩
  · have owns : WritesTable .tableWriteQueue .queue := ⟨nofun, fun _ => rfl⟩
    have firstField : fieldAt 0 1 [a, b] = a.toNat := beNat_singleton a
    have secondField : fieldAt 1 1 [a, b] = b.toNat := beNat_singleton b
    refine w.written owns (?_ : s.popRecord.writeQueue 10 [a, b] = _) nofun
    rw [← clampClass_eq first, ← clampClass_eq second, ← firstField, ← secondField]
    rfl
  · have owns : WritesTable .tableWritePool .pool := ⟨nofun, fun _ => rfl⟩
    have first : fieldAt 0 2 (natBytes 2 reserve.toNat ++ natBytes 2 ceiling.toNat) = reserve.toNat := half_bytes reserve
    have second : fieldAt 2 2 (natBytes 2 reserve.toNat ++ natBytes 2 ceiling.toNat) = ceiling.toNat := half_bytes ceiling
    refine w.written owns ?_ nofun
    rw [State.writeEntry, State.writePool, if_pos rfl, first, second]
  · intro evictable
    refine ⟨fun within => trimN_of_within _ within, fun none => trimN_of_noneEvictable _ ?_, fun excess older l newer split before here => ?_⟩
    · exact List.find?_eq_none.mpr fun l member => mt evictable_iff.mp (none l member)
    · exact trimExcess_of_evictee excess (evictee_of_split split (fun x member => mt evictable_iff.mp (before x member))
        (evictable_iff.mpr here))

end Sys2Proof.Machine
end

section
/-! Writes of operators (R44 to R46), and the standing state they remove (R84). -/

namespace Sys2Proof.Machine

/-! ### Watchers of an operator (R83, R84) -/

section
variable {h : History} {s : State} {i : Fin 8}

theorem watcherOf_eq : h.watcherOf i = firstIdx 4 fun w => (h.watchers[w]).any (·.op == i) :=
  congrArg (firstIdx 4) (funext fun w => by cases h.watchers[w] <;> rfl)

theorem watches_iff {x : Option Watcher} : x.any (·.op == i) = false ↔ ∀ y, x = some y → y.op ≠ i := by
  cases x <;> simp

theorem watcherOf_eq_some_iff {w : Fin 4} : h.watcherOf i = some w ↔ (∃ x, h.watchers[w] = some x ∧ x.op = i) ∧
    ∀ v < w, ∀ y, h.watchers[v] = some y → y.op ≠ i := by
  simp only [watcherOf_eq, firstIdx_eq_some_iff, Option.any_eq_true, beq_iff_eq, watches_iff]

theorem watcherOf_eq_none_iff : h.watcherOf i = none ↔ ∀ (w : Fin 4) x, h.watchers[w] = some x → x.op ≠ i := by
  simp only [watcherOf_eq, firstIdx_eq_none_iff, watches_iff]

theorem watcherOf_isSome_iff : (h.watcherOf i).isSome = true ↔ ∃ (w : Fin 4) (x : Watcher), h.watchers[w] = some x ∧ x.op = i := by
  rw [Option.isSome_iff_ne_none, ne_eq, watcherOf_eq_none_iff]
  constructor
  · exact fun some => Classical.byContradiction fun none => some fun w x watches op => none ⟨w, x, watches, op⟩
  · exact fun ⟨w, x, watches, op⟩ none => none w x watches op

theorem removeWatcherOf_of_none (none : ∀ (w : Fin 4) x, s.hist.watchers[w] = some x → x.op ≠ i) : s.removeWatcherOf i = s := by
  rw [State.removeWatcherOf, watcherOf_eq_none_iff.mpr none]

theorem removeWatcherOf_of_first {w : Fin 4} {x : Watcher} (here : s.hist.watchers[w] = some x) (own : x.op = i)
    (first : ∀ v y, v < w → s.hist.watchers[v] = some y → y.op ≠ i) : s.removeWatcherOf i = s.removeWatcher w := by
  rw [State.removeWatcherOf, watcherOf_eq_some_iff.mpr ⟨⟨x, here, own⟩, fun v before y => first v y before⟩]

end

/-! ### The tests of an operator entry (R45) -/

section
variable {s : State} {i : Fin 8} {o : Operator}

/-- A valid entry with one address has no group address (R44). -/
def GroupAddress (o : Operator) : Prop := o.valid = true ∧ o.wildcard = false ∧ isGroup o.addr = true

/-- An entry that holds ADMIN is left (R45). -/
def AdminLeft (s : State) (i : Fin 8) (o : Operator) : Prop := (o.valid = true ∧ o.privs.admin = true) ∨
  ∃ j : Fin 8, j ≠ i ∧ (s.operators[j]).valid = true ∧ (s.operators[j]).privs.admin = true

theorem groupAddress_iff : (o.valid && !o.wildcard && isGroup o.addr) = true ↔ GroupAddress o := by
  rw [Bool.and_eq_true, Bool.and_eq_true, Bool.not_eq_true', and_assoc, GroupAddress]

theorem adminLeft_iff : someAdmin (s.operators.set i o) = true ↔ AdminLeft s i o := by
  have entry (j : Fin 8) : (s.setOperator i o).operators[j] = if i = j then o else s.operators[j] := getElem_set_if ..
  rw [show s.operators.set i o = (s.setOperator i o).operators from rfl, someAdmin_iff]
  constructor
  · rintro ⟨j, valid, admin⟩
    rw [entry] at valid admin
    split at valid
    · rw [if_pos ‹_›] at admin; exact .inl ⟨valid, admin⟩
    · rw [if_neg ‹_›] at admin; exact .inr ⟨j, Ne.symm ‹_›, valid, admin⟩
  · rintro (⟨valid, admin⟩ | ⟨j, other, valid, admin⟩)
    · exact ⟨i, by rwa [entry, if_pos rfl], by rwa [entry, if_pos rfl]⟩
    · exact ⟨j, by rwa [entry, if_neg other.symm], by rwa [entry, if_neg other.symm]⟩

theorem operatorRefusal_of_group (group : GroupAddress o) : s.operatorRefusal i o = some .range := if_pos (groupAddress_iff.mpr group)

theorem operatorRefusal_of_single (single : ¬ GroupAddress o) (left : ¬ AdminLeft s i o) :
    s.operatorRefusal i o = some .lastAdmin := by
  rw [State.operatorRefusal, if_neg (mt groupAddress_iff.mp single), if_pos]
  rw [Bool.not_eq_true', ← Bool.not_eq_true, adminLeft_iff]
  exact left

theorem operatorRefusal_of_fit (single : ¬ GroupAddress o) (left : AdminLeft s i o) : s.operatorRefusal i o = none := by
  rw [State.operatorRefusal, if_neg (mt groupAddress_iff.mp single), adminLeft_iff.mpr left]
  rfl

theorem writeOperator_of_refused {e : List Byte} {st : Status} (refused : s.operatorRefusal i (readOperator e) = some st) :
    s.writeEntry .operator i.val e = .error st := by
  simp only [State.writeEntry, State.writeOperator, idx?_val, refused]

theorem writeOperator_of_fit {e : List Byte} (fit : s.operatorRefusal i (readOperator e) = none) :
    s.writeEntry .operator i.val e = .ok ((s.setOperator i (readOperator e)).cascade i) := by
  simp only [State.writeEntry, State.writeOperator, idx?_val, fit]

/-! ### What a write removes (R46) -/

/-- An operator's queued requests leave the queue. -/
def State.dropRequests (i : Fin 8) (s : State) : State :=
  s.onScript fun x => { x with queue := x.queue.filter fun q => q.source != .operator i }

theorem owns_iff {owner : Option Owner} : owner.any (·.op == i) = true ↔ owner.map (·.op) = some i := by
  cases owner <;> simp

theorem cascade_of_notOwner (other : s.line.owner.map (·.op) ≠ some i) :
    s.cascade i = (s.removeWatcherOf i).dropRequests i := by
  have line := (SameButPushes.removeWatcherOf s i).line
  have notOwner : ¬ (s.removeWatcherOf i).line.owner.any (·.op == i) = true := by rwa [line, owns_iff]
  simp only [State.cascade, if_neg notOwner]
  rfl

theorem cascade_of_owner (owner : s.line.owner.map (·.op) = some i) :
    s.cascade i = ((s.removeWatcherOf i).changeOwner none .operatorWrite).dropRequests i := by
  have line := (SameButPushes.removeWatcherOf s i).line
  have own : (s.removeWatcherOf i).line.owner.any (·.op == i) = true := by rwa [line, owns_iff]
  simp only [State.cascade, if_pos own]
  rfl

theorem changeOwner_same (new : Option (Fin 8)) (cause : OwnerCause) (s : State) :
    SameButPushes ((s.onLine fun l => { l with owner := new.map fun i => ⟨i, s.clock.now⟩ }).addMark .ownerChange (ownerCode new))
      (s.changeOwner new cause) := SameButPushes.raiseNotice ..

theorem changeOwner_operators (new : Option (Fin 8)) (cause : OwnerCause) (s : State) :
    (s.changeOwner new cause).operators = s.operators := (changeOwner_same new cause s).operators

theorem operatorEntry_of_dropRequests {s t : State} (same : s.operators = (t.setOperator i o).operators) :
    ((s.dropRequests i).entryBytes .operator i.val).getD [] = o.bytes := by
  have entry : (s.dropRequests i).operators[i] = o := by
    have kept : (s.dropRequests i).operators = (t.setOperator i o).operators := same
    rw [kept]
    exact (getElem_set_if ..).trans (if_pos rfl)
  rw [State.entryBytes, idx?_val, Option.map_some, entry, Option.getD_some]

theorem operatorReport_eq (s : State) (i : Fin 8) : s.operatorReport i.val = flagByte (s.hist.watcherOf i).isSome ++
    flagByte (s.line.owner.any (·.op == i)) ++ natBytes 4 (s.script.queue.countP fun q => q.source == .operator i) := by
  rw [State.operatorReport, idx?_val]

end

theorem WriteOf.answers_operator {i : Fin 8} {e : List Byte} {r : Rec} {s s1 : State}
    (w : WriteOf .tableWriteOperator .operator i.val e r s) (judged : s.popRecord.writeEntry .operator i.val e = .ok s1) :
    Answers .tableWriteOperator s r .ok (r.body.take 2 ++ (s1.entryBytes .operator i.val).getD [] ++ s.operatorReport i.val) s1 := by
  obtain ⟨ready, passes, noStore, long, index, rfl, form⟩ := w
  rw [← index] at judged form ⊢
  exact answers_of_written ⟨nofun, fun _ => rfl⟩ ready passes noStore long form judged

/-- Settles O35: the tests of R44 and R45, and what the write removes with what it reports of it. -/
theorem operatorWriteRemovesStanding : Obligations.OperatorWriteRemovesStanding := by
  refine ⟨fun h i => watcherOf_isSome_iff, fun r s i e w => ?_, fun s i => ⟨fun none => removeWatcherOf_of_none none,
    fun w x here own first => removeWatcherOf_of_first here own first⟩⟩
  intro o groupAddress adminLeft owns
  have owner : WritesTable .tableWriteOperator .operator := ⟨nofun, fun _ => rfl⟩
  refine ⟨fun group => w.refused owner (writeOperator_of_refused (operatorRefusal_of_group group)) nofun,
    fun single left => w.refused owner (writeOperator_of_refused (operatorRefusal_of_single (s := s.popRecord) single left)) nofun,
    fun single left => ?_⟩
  intro unwatched drop reply
  have judged := writeOperator_of_fit (operatorRefusal_of_fit (s := s.popRecord) single left)
  have kept : unwatched.operators = (s.popRecord.setOperator i o).operators := (SameButPushes.removeWatcherOf _ i).operators
  refine ⟨fun other => ?_, fun own => ?_⟩
  · rw [cascade_of_notOwner (s := s.popRecord.setOperator i o) other] at judged
    have answers := w.answers_operator judged
    rw [operatorEntry_of_dropRequests kept, operatorReport_eq, Bool.eq_false_iff.mpr (mt owns_iff.mp other)] at answers
    simp only [flagByte_false, ← List.append_assoc] at answers
    exact answers
  · rw [cascade_of_owner (s := s.popRecord.setOperator i o) own] at judged
    have answers := w.answers_operator judged
    rw [operatorEntry_of_dropRequests ((changeOwner_operators ..).trans kept), operatorReport_eq, owns_iff.mpr own] at answers
    simp only [flagByte_true, ← List.append_assoc] at answers
    exact answers

end Sys2Proof.Machine
end

section
/-! Writes of the console's tables (R60, R70, R75, R85, R86, R91). -/

namespace Sys2Proof.Machine

/-! ### The line's settings (R60) -/

section
variable {bits par stop flow : Byte} {div : BitVec 32} {idle : Half}

/-- The bytes of CONSOLE entry 0. -/
def lineEntry (bits par stop flow : Byte) (div : BitVec 32) (idle : Half) : List Byte :=
  [bits, par, stop, flow] ++ natBytes 4 div.toNat ++ natBytes 2 idle.toNat

/-- The values R60 lists for the first four bytes. -/
def LineListed (bits par stop flow : Byte) : Prop :=
  (bits = 7 ∨ bits = 8) ∧ par.toNat ≤ 2 ∧ (stop = 1 ∨ stop = 2) ∧ flow.toNat ≤ 1

theorem lineEntry_fields : fieldAt 0 1 (lineEntry bits par stop flow div idle) = bits.toNat ∧
    fieldAt 1 1 (lineEntry bits par stop flow div idle) = par.toNat ∧
    fieldAt 2 1 (lineEntry bits par stop flow div idle) = stop.toNat ∧
    fieldAt 3 1 (lineEntry bits par stop flow div idle) = flow.toNat ∧
    fieldAt 4 4 (lineEntry bits par stop flow div idle) = div.toNat ∧
    fieldAt 8 2 (lineEntry bits par stop flow div idle) = idle.toNat :=
  ⟨beNat_singleton bits, beNat_singleton par, beNat_singleton stop, beNat_singleton flow, quad_bytes div, half_bytes idle⟩

theorem byte_beq (b c : Byte) : (b.toNat == c.toNat) = (b == c) := by
  rw [Bool.eq_iff_iff, beq_iff_eq, beq_iff_eq, byte_eq_iff]

theorem parityOf_of_code {n : Nat} {p : Parity} (code : p.code = n) : parityOf n = some p := by
  subst code
  cases p <;> rfl

theorem parityOf_of_beyond {n : Nat} (beyond : 2 < n) : parityOf n = none := by
  obtain ⟨k, rfl⟩ := Nat.exists_eq_add_of_le' beyond
  rfl

theorem listed_iff : (inRange 7 8 bits.toNat && inRange 1 2 stop.toNat && decide (flow.toNat ≤ 1)) = true ↔
    (bits = 7 ∨ bits = 8) ∧ (stop = 1 ∨ stop = 2) ∧ flow.toNat ≤ 1 := by
  have seven : bits = 7 ↔ bits.toNat = 7 := byte_eq_iff bits 7
  have eight : bits = 8 ↔ bits.toNat = 8 := byte_eq_iff bits 8
  have one : stop = 1 ↔ stop.toNat = 1 := byte_eq_iff stop 1
  have two : stop = 2 ↔ stop.toNat = 2 := byte_eq_iff stop 2
  rw [Bool.and_eq_true, Bool.and_eq_true, inRange_iff, inRange_iff, decide_eq_true_eq, seven, eight, one, two]
  omega

theorem readLineSettings_of_unlisted (unlisted : ¬ LineListed bits par stop flow) :
    readLineSettings (lineEntry bits par stop flow div idle) = none := by
  obtain ⟨bitsField, parField, stopField, flowField, -, -⟩ :=
    lineEntry_fields (bits := bits) (par := par) (stop := stop) (flow := flow) (div := div) (idle := idle)
  simp only [readLineSettings, bitsField, parField, stopField, flowField]
  by_cases known : par.toNat ≤ 2
  · have other : ¬ (inRange 7 8 bits.toNat && inRange 1 2 stop.toNat && decide (flow.toNat ≤ 1)) = true := fun inside => by
      obtain ⟨hb, hs, hf⟩ := listed_iff.mp inside
      exact unlisted ⟨hb, known, hs, hf⟩
    simp only [if_neg other]
    cases parityOf par.toNat <;> rfl
  · rw [parityOf_of_beyond (Nat.not_le.mp known)]

theorem clampIdle_eq {limit : Nat} (off : idle = 0 → limit = 0) (on : idle ≠ 0 → limit = max 10 (min 3600 idle.toNat)) :
    clampIdle idle.toNat = limit := by
  by_cases zero : idle = 0
  · rw [off zero, zero]; rfl
  · have some : ¬ idle.toNat = 0 := fun h => zero (BitVec.eq_of_toNat_eq h)
    rw [on zero, clampIdle, if_neg some]
    rfl

theorem readLineSettings_of_listed {p : Parity} {limit : Nat} (listed : LineListed bits par stop flow) (parity : p.code = par.toNat)
    (seconds : clampIdle idle.toNat = limit) : readLineSettings (lineEntry bits par stop flow div idle) =
      some ⟨bits == 8, p, stop == 2, flow == 1, max 32 (min 65535 div.toNat), limit⟩ := by
  obtain ⟨bitsField, parField, stopField, flowField, divField, idleField⟩ :=
    lineEntry_fields (bits := bits) (par := par) (stop := stop) (flow := flow) (div := div) (idle := idle)
  obtain ⟨hb, -, hs, hf⟩ := listed
  have eight : (bits.toNat == 8) = (bits == 8) := byte_beq bits 8
  have two : (stop.toNat == 2) = (stop == 2) := byte_beq stop 2
  have one : (flow.toNat == 1) = (flow == 1) := byte_beq flow 1
  simp only [readLineSettings, bitsField, parField, stopField, flowField, divField, idleField, parityOf_of_code parity,
    if_pos (listed_iff.mpr ⟨hb, hs, hf⟩), eight, two, one, seconds, clamp, Config.divMin, Config.divMax]

theorem abandonMeasurement_eq (s : State) : s.abandonMeasurement =
    if s.line.state = .running then s else s.onLine fun l => { l with state := .running, rx := .ready } := by
  rw [State.abandonMeasurement]
  cases s.line.state <;> rfl

/-- The line with new settings, a measurement abandoned (R60, R70). -/
def State.withLineSettings (set : LineSettings) (s : State) : State :=
  (if s.line.state = .running then s else s.onLine fun l => { l with state := .running, rx := .ready }).onLine fun l =>
    { l with set := set, ctsCounted := l.ctsCounted && set.rtsCts }

section
variable {s : State} {e : List Byte} {set : LineSettings}

theorem writeLineSettings_of_sameLimit (read : readLineSettings e = some set) (same : s.line.set.idleLimit = set.idleLimit) :
    s.writeLineSettings e = .ok (s.withLineSettings set).txNext := by
  simp only [State.writeLineSettings, read, if_pos same, abandonMeasurement_eq, State.withLineSettings]

theorem writeLineSettings_of_newLimit (read : readLineSettings e = some set) (other : s.line.set.idleLimit ≠ set.idleLimit) :
    s.writeLineSettings e = .ok (s.withLineSettings set).releaseIfIdle.txNext := by
  simp only [State.writeLineSettings, read, if_neg other, abandonMeasurement_eq, State.withLineSettings]

end

end

/-! ### The history's settings (R85, R86) -/

theorem onWatcher_watchers (h : History) (w : Fin 4) (f : Watcher → Watcher) (v : Fin 4) :
    (h.onWatcher w f).watchers[v] = if w = v then (h.watchers[v]).map f else h.watchers[v] := by
  rw [History.onWatcher]
  refine (getElem_set_if ..).trans ?_
  split
  · subst ‹w = v›; rfl
  · rfl

/-- Dueness is judged by the stream and the settings, not by the watchers. -/
theorem watcherDue_watchers (h : History) (ws : Vector (Option Watcher) 4) (now : Time) (x : Watcher) :
    watcherDue { h with watchers := ws } now x = watcherDue h now x := rfl

theorem judgeDue_four (h : History) (now : Time) : (List.finRange 4).foldl (fun g w => g.judgeDue now w) h =
    { h with watchers := h.watchers.map fun w => w.map fun x => { x with due := x.due || watcherDue h now x } } := by
  have each (v : Fin 4) : ((List.finRange 4).foldl (fun g w => g.judgeDue now w) h).watchers[v] =
      (h.watchers[v]).map fun x => { x with due := x.due || watcherDue h now x } := by
    show ((((h.judgeDue now 0).judgeDue now 1).judgeDue now 2).judgeDue now 3).watchers[v] = _
    simp only [History.judgeDue, onWatcher_watchers]
    match v with
    | 0 | 1 | 2 | 3 => rfl
  have watchers : ((List.finRange 4).foldl (fun g w => g.judgeDue now w) h).watchers =
      h.watchers.map fun w => w.map fun x => { x with due := x.due || watcherDue h now x } :=
    Vector.ext fun i bound => (each ⟨i, bound⟩).trans (Vector.getElem_map ..).symm
  rw [← watchers]
  rfl

/-! ### The idle limit (R75) -/

theorem releaseIfIdle_of_free {s : State} (free : s.line.owner = none) : s.releaseIfIdle = s := by
  rw [State.releaseIfIdle, free]

theorem releaseIfIdle_of_owned {s : State} {o : Owner} (owned : s.line.owner = some o) : s.releaseIfIdle =
    if s.line.set.idleLimit ≠ 0 ∧ s.line.set.idleLimit * 1000000 ≤ (s.clock.now - o.last).toNat then s.changeOwner none .idle
    else s := by
  rw [State.releaseIfIdle, owned]
  refine if_congr ?_ rfl rfl
  simp only [idleExpired, Bool.and_eq_true, bne_iff_ne, decide_eq_true_eq]
  rfl

/-! ### Patterns (R91) -/

section
variable {s : State} {i : Fin 8} {e : List Byte}

/-- The values of a pattern that R91 refuses with RANGE. -/
def PatternOutOfRange (p : Pattern) : Prop := p.len < 1 ∨ 16 < p.len ∨ 2 < p.qualifier ∨ 1 < p.mode

theorem patternRefusal_of_range {p : Pattern} (out : PatternOutOfRange p) : patternRefusal p = some .range := by
  rw [patternRefusal, ← ite_or]
  refine if_pos ?_
  rw [Bool.not_eq_true', Bool.eq_false_iff, ne_eq, inRange_iff]
  unfold PatternOutOfRange at out
  omega

theorem patternRefusal_of_within {p : Pattern} (within : ¬ PatternOutOfRange p) :
    patternRefusal p = if p.request = true ∧ 15 < p.script then some .noSuch else none := by
  rw [patternRefusal, ← ite_or, if_neg]
  · exact if_congr (by rw [Bool.and_eq_true, decide_eq_true_eq]) rfl rfl
  · rw [Bool.not_eq_true', Bool.eq_false_iff, ne_eq, inRange_iff]
    unfold PatternOutOfRange at within
    omega

theorem writePattern_of_invalid (invalid : (readPattern e).valid = false) :
    s.writeEntry .pattern i.val e = .ok (s.setPattern i (readPattern e)) := by
  simp only [State.writeEntry, State.writePattern, idx?_val, invalid, Bool.false_eq_true, if_false]

theorem writePattern_of_refused {st : Status} (valid : (readPattern e).valid = true) (refused : patternRefusal (readPattern e) = some st) :
    s.writeEntry .pattern i.val e = .error st := by
  simp only [State.writeEntry, State.writePattern, idx?_val, valid, if_true, refused]

theorem writePattern_of_valid (valid : (readPattern e).valid = true) (taken : patternRefusal (readPattern e) = none) :
    s.writeEntry .pattern i.val e = .ok (s.setPattern i { readPattern e with prio := min 7 (readPattern e).prio }) := by
  simp only [State.writeEntry, State.writePattern, idx?_val, valid, if_true, taken]

end

/-- Settles O36: the line's settings byte by byte, the judged watchers, the idle limit, and the tests of a pattern. -/
theorem consoleTableWrites : Obligations.ConsoleTableWrites := by
  refine ⟨fun r s bits par stop flow div idle w => ?_, fun r s threshold delay w => ?_, fun s => ?_, fun r s i e w => ?_⟩
  · intro listed
    have owns : WritesTable .tableWriteConsoleLine .console := ⟨nofun, fun _ => rfl⟩
    refine ⟨fun unlisted => w.refused owns (st := .range) ?_ nofun, fun good p limit parity off on => ?_⟩
    · show s.popRecord.writeLineSettings (lineEntry bits par stop flow div idle) = _
      rw [State.writeLineSettings, readLineSettings_of_unlisted unlisted]
    · have read := readLineSettings_of_listed (div := div) good parity (clampIdle_eq off on)
      exact ⟨fun same => w.written owns (writeLineSettings_of_sameLimit (s := s.popRecord) read same) nofun,
        fun other => w.written owns (writeLineSettings_of_newLimit (s := s.popRecord) read other) nofun⟩
  · have owns : WritesTable .tableWriteConsoleHistory .console := ⟨nofun, fun _ => rfl⟩
    have first : fieldAt 0 2 (natBytes 2 threshold.toNat ++ natBytes 2 delay.toNat) = threshold.toNat := half_bytes threshold
    have second : fieldAt 2 2 (natBytes 2 threshold.toNat ++ natBytes 2 delay.toNat) = delay.toNat := half_bytes delay
    refine w.written owns (congrArg Except.ok ?_) nofun
    rw [State.writeHistorySettings, first, second]
    simp only [judgeDue_four]
    rfl
  · refine ⟨releaseIfIdle_of_free, fun o owned => ⟨fun off => ?_, fun on passed => ?_⟩⟩
    · exact (releaseIfIdle_of_owned owned).trans (if_neg (by omega))
    · exact (releaseIfIdle_of_owned owned).trans (if_pos ⟨on, passed⟩)
  · intro p outOfRange put
    have owns : WritesTable .tableWritePattern .pattern := ⟨nofun, fun _ => rfl⟩
    refine ⟨fun invalid => w.written owns (writePattern_of_invalid invalid) nofun,
      fun valid out => w.refused owns (writePattern_of_refused valid (patternRefusal_of_range out)) nofun,
      fun valid within request beyond => w.refused owns (writePattern_of_refused valid
        ((patternRefusal_of_within within).trans (if_pos ⟨request, beyond⟩))) nofun,
      fun valid within fits => ⟨w.written owns (writePattern_of_valid valid ((patternRefusal_of_within within).trans
        (if_neg fun h => Nat.not_lt.mpr (fits h.1) h.2))) nofun, valid, rfl, rfl⟩⟩

end Sys2Proof.Machine
end

section
/-! Writes of the media, power and script tables (R96, R127, R135, R140, R144, R149, R150). -/

namespace Sys2Proof.Machine

/-! ### Regions (R96) -/

section
variable {s : State} {g : Fin 4} {c : RegionConfig} {e : List Byte}

/-- The values of a region entry that R96 refuses with RANGE. -/
def RegionOutOfRange (c : RegionConfig) : Prop := isGroup c.server = true ∨ c.prefetch ∉ [1, 2, 4, 8] ∨ 1 < c.service

/-- The image domain is no valid entry. -/
def ImageDomainMissing (s : State) (c : RegionConfig) : Prop := ∀ d : Fin 16, d.val = c.domain → (s.dom.entries[d]).valid = false

/-- The image domain lacks U or M. -/
def ImageDomainUnfit (s : State) (c : RegionConfig) : Prop :=
  ∀ d : Fin 16, d.val = c.domain → (s.dom.entries[d]).members.u = false ∨ (s.dom.entries[d]).members.m = false

theorem regionOutOfRange_iff : (isGroup c.server = true ∨ (!([1, 2, 4, 8].contains c.prefetch) || decide (1 < c.service)) = true) ↔
    RegionOutOfRange c := by
  rw [Bool.or_eq_true, Bool.not_eq_true', decide_eq_true_eq, ← Bool.not_eq_true, List.contains_iff_mem, RegionOutOfRange]

theorem regionRefusal_eq : s.regionRefusal c =
    if isGroup c.server = true ∨ (!([1, 2, 4, 8].contains c.prefetch) || decide (1 < c.service)) = true then some .range
    else match (idx? 16 c.domain).filter fun i => s.dom.entries[i].valid with
      | none => some .noSuch
      | some i => if (s.dom.entries[i].members.u && s.dom.entries[i].members.m) = true then none else some .conflict := by
  rw [State.regionRefusal, ite_or] <;> rfl

theorem regionRefusal_of_range (out : RegionOutOfRange c) : s.regionRefusal c = some .range := by
  rw [regionRefusal_eq, if_pos (regionOutOfRange_iff.mpr out)]

theorem regionRefusal_of_missing (within : ¬ RegionOutOfRange c) (missing : ImageDomainMissing s c) :
    s.regionRefusal c = some .noSuch := by
  rw [regionRefusal_eq, if_neg (mt regionOutOfRange_iff.mp within), filter_idx?_eq_none_iff.mpr missing]

theorem filter_idx?_eq_some {n w : Nat} {p : Fin n → Bool} {i : Fin n} (found : (idx? n w).filter p = some i) : i.val = w := by
  have inside := (Option.filter_eq_some_iff.mp found).1
  unfold idx? at inside
  split at inside
  · exact congrArg Fin.val (Option.some.inj inside).symm
  · cases inside

theorem regionRefusal_of_domain (within : ¬ RegionOutOfRange c) (there : ¬ ImageDomainMissing s c) :
    (ImageDomainUnfit s c → s.regionRefusal c = some .conflict) ∧ (¬ ImageDomainUnfit s c → s.regionRefusal c = none) := by
  obtain ⟨i, found⟩ := Option.ne_none_iff_exists'.mp (mt filter_idx?_eq_none_iff.mp there)
  have place := filter_idx?_eq_some found
  have fit : ImageDomainUnfit s c ↔ ¬ (s.dom.entries[i].members.u && s.dom.entries[i].members.m) = true := by
    rw [Bool.not_eq_true, Bool.and_eq_false_iff]
    exact ⟨fun unfit => unfit i place, fun unfit d same => Fin.ext (same.trans place.symm) ▸ unfit⟩
  rw [regionRefusal_eq, if_neg (mt regionOutOfRange_iff.mp within), found, fit]
  exact ⟨fun unfit => if_neg unfit, fun fits => if_pos (Classical.not_not.mp fits)⟩

/-- A region with a new configuration (R96). -/
def State.withRegionConfig (g : Fin 4) (c : RegionConfig) (s : State) : State := s.onMedia fun m => { m with
  regions := m.regions.set g { m.regions[g] with cfg := c, sectors := 0, writable := false, failures := 0 } }

theorem writeRegion_of_busy (busy : (s.media.regions[g]).state ≠ .detached) : s.writeEntry .region g.val e = .error .state := by
  simp only [State.writeEntry, State.writeRegion, idx?_val, if_pos busy]

theorem writeRegion_of_invalid (detached : (s.media.regions[g]).state = .detached) (invalid : (readRegionConfig e).valid = false) :
    s.writeEntry .region g.val e = .ok (s.withRegionConfig g (readRegionConfig e)) := by
  simp only [State.writeEntry, State.writeRegion, idx?_val, if_neg (not_not_intro detached), invalid, Bool.false_eq_true, if_false]
  rfl

theorem writeRegion_of_refused {st : Status} (detached : (s.media.regions[g]).state = .detached)
    (valid : (readRegionConfig e).valid = true) (refused : s.regionRefusal (readRegionConfig e) = some st) :
    s.writeEntry .region g.val e = .error st := by
  simp only [State.writeEntry, State.writeRegion, idx?_val, if_neg (not_not_intro detached), valid, if_true, refused]

theorem writeRegion_of_valid (detached : (s.media.regions[g]).state = .detached) (valid : (readRegionConfig e).valid = true)
    (taken : s.regionRefusal (readRegionConfig e) = none) : s.writeEntry .region g.val e = .ok (s.withRegionConfig g
      { readRegionConfig e with holdMs := max 10 (min 2000 (readRegionConfig e).holdMs) }) := by
  simp only [State.writeEntry, State.writeRegion, idx?_val, if_neg (not_not_intro detached), valid, if_true, taken]
  rfl

end

/-- Settles O37: a region's tests in the order of R96, and the clamps of R127. -/
theorem mediaTableWrites : Obligations.MediaTableWrites := by
  refine ⟨fun r s g e w => ?_, fun r s timeout retries w => ?_⟩
  · intro c detached outOfRange domainMissing domainUnfit put
    have owns : WritesTable .tableWriteRegion .region := ⟨nofun, fun _ => rfl⟩
    exact ⟨fun busy => w.refused owns (writeRegion_of_busy (s := s.popRecord) busy) nofun,
      fun rest invalid => w.written owns (writeRegion_of_invalid (s := s.popRecord) rest invalid) nofun,
      fun rest valid out => w.refused owns (writeRegion_of_refused (s := s.popRecord) rest valid (regionRefusal_of_range out)) nofun,
      fun rest valid within missing => w.refused owns (writeRegion_of_refused (s := s.popRecord) rest valid
        (regionRefusal_of_missing (s := s.popRecord) within missing)) nofun,
      fun rest valid within there unfit => w.refused owns (writeRegion_of_refused (s := s.popRecord) rest valid
        ((regionRefusal_of_domain (s := s.popRecord) within there).1 unfit)) nofun,
      fun rest valid within there fit => w.written owns (writeRegion_of_valid (s := s.popRecord) rest valid
        ((regionRefusal_of_domain (s := s.popRecord) within there).2 fit)) nofun⟩
  · have owns : WritesTable .tableWriteMediaParams .mediaParams := ⟨nofun, fun _ => rfl⟩
    have first : fieldAt 0 2 (natBytes 2 timeout.toNat ++ [retries]) = timeout.toNat := half_bytes timeout
    have second : fieldAt 2 1 (natBytes 2 timeout.toNat ++ [retries]) = retries.toNat := beNat_singleton retries
    refine w.written owns ?_ nofun
    rw [State.writeEntry, State.writeMediaParams, if_pos rfl, first, second]
    rfl

/-! ### Output lines and the debounced levels (R135, R140, R144) -/

section
variable {s : State} {k : Fin 6} {cls idle : Byte} {guard : Half}

theorem lineEntry_powerFields : fieldAt 0 1 ([cls, idle] ++ natBytes 2 guard.toNat) = cls.toNat ∧
    fieldAt 1 1 ([cls, idle] ++ natBytes 2 guard.toNat) = idle.toNat ∧
    fieldAt 2 2 ([cls, idle] ++ natBytes 2 guard.toNat) = guard.toNat :=
  ⟨beNat_singleton cls, beNat_singleton idle, half_bytes guard⟩

theorem lineClassOf_of_code {n : Nat} {c : LineClass} (code : c.code = n) : lineClassOf n = some c := by
  subst code
  cases c <;> rfl

theorem lineClassOf_of_beyond {n : Nat} (beyond : 1 < n) : lineClassOf n = none := by
  obtain ⟨j, rfl⟩ := Nat.exists_eq_add_of_le' beyond
  rfl

theorem writeLine_of_unlisted (unlisted : 1 < cls.toNat ∨ 1 < idle.toNat) :
    s.writeEntry .line k.val ([cls, idle] ++ natBytes 2 guard.toNat) = .error .range := by
  obtain ⟨clsField, idleField, -⟩ := lineEntry_powerFields (cls := cls) (idle := idle) (guard := guard)
  simp only [State.writeEntry, State.writeLine, idx?_val, clsField, idleField]
  by_cases high : 1 < idle.toNat
  · rw [if_pos high]
  · rw [if_neg high, lineClassOf_of_beyond (unlisted.resolve_right high)]

theorem fixedClass_refuses {c : LineClass} : (fixedClass k).any (· != c) = true ↔ k.val < 4 ∧ c ≠ (Factory.outLines[k]).cls := by
  rw [fixedClass]
  split
  · rw [Option.any_some, bne_iff_ne]
    exact ⟨fun other => ⟨‹k.val < 4›, other.symm⟩, fun h => h.2.symm⟩
  · exact ⟨nofun, fun h => absurd h.1 ‹¬ k.val < 4›⟩

theorem writeLine_of_listed {c : LineClass} (known : c.code = cls.toNat) (level : idle.toNat ≤ 1) :
    s.writeEntry .line k.val ([cls, idle] ++ natBytes 2 guard.toNat) =
      if k.val < 4 ∧ c ≠ (Factory.outLines[k]).cls then .error .range
      else .ok (s.onPower fun p => { p with
        lines := p.lines.set k { p.lines[k] with cls := c, idle := idle == 1 }
        guardSecs := if k = 2 then min 600 guard.toNat else p.guardSecs }) := by
  obtain ⟨clsField, idleField, guardField⟩ := lineEntry_powerFields (cls := cls) (idle := idle) (guard := guard)
  have one : (idle.toNat == 1) = (idle == 1) := byte_beq idle 1
  simp only [State.writeEntry, State.writeLine, idx?_val, clsField, idleField, guardField, if_neg (Nat.not_lt.mpr level),
    lineClassOf_of_code known, one]
  exact if_congr fixedClass_refuses rfl rfl

theorem writeTrigger_of_invalid {n : Fin 8} {e : List Byte} (invalid : (readTrigger e).valid = false) :
    s.writeEntry .senseTrigger n.val e = .ok (s.onPower fun p => { p with triggers := p.triggers.set n (readTrigger e) }) := by
  simp only [State.writeEntry, State.writeSenseTrigger, idx?_val, invalid, Bool.false_eq_true, if_false]

theorem writeTrigger_of_valid {n : Fin 8} {e : List Byte} (valid : (readTrigger e).valid = true) :
    s.writeEntry .senseTrigger n.val e =
      if 3 < (readTrigger e).line ∨ 2 < (readTrigger e).edge then .error .range
      else if 15 < (readTrigger e).script then .error .noSuch
      else .ok (s.onPower fun p => { p with
        triggers := p.triggers.set n { readTrigger e with prio := min 7 (readTrigger e).prio } }) := by
  simp only [State.writeEntry, State.writeSenseTrigger, idx?_val, valid, if_true, triggerRefusal]
  by_cases range : 3 < (readTrigger e).line ∨ 2 < (readTrigger e).edge
  · rw [if_pos range, if_pos range]
  · rw [if_neg range, if_neg range]
    by_cases unlisted : 15 < (readTrigger e).script
    · rw [if_pos unlisted, if_pos unlisted]
    · rw [if_neg unlisted, if_neg unlisted]

/-! ### Scripts (R149, R150) -/

theorem writeScriptDir_eq {i : Fin 16} {e : List Byte} : s.writeEntry .scriptDir i.val e =
    if 255 < (readScriptDir e).first then .error .range
    else .ok (s.onScript fun x => { x with
      dir := x.dir.set i { readScriptDir e with prio := min 7 (readScriptDir e).prio } }) := by
  simp only [State.writeEntry, State.writeScriptDir, idx?_val]

/-- The operands R150 refuses, by op. -/
def StepOutOfRange (t : Step) : Prop := (t.op = 2 ∧ (5 < t.operand ∨ 1 < t.arg)) ∨ (t.op = 3 ∧ (3 < t.operand ∨ 1 < t.arg)) ∨
  (t.op = 10 ∧ 15 < t.operand)

theorem stepRefused_iff {t : Step} : stepRefused t = true ↔ StepOutOfRange t := by
  obtain ⟨op, operand, arg, delay⟩ := t
  match op with
  | 2 | 3 | 10 => simp [stepRefused, StepOp.ofCode, StepOutOfRange]
  | 0 | 1 | 4 | 5 | 6 | 7 | 8 | 9 | 11 | n + 12 => simp [stepRefused, StepOp.ofCode, StepOutOfRange]

theorem writeScriptStep_eq {i : Fin 256} {e : List Byte} : s.writeEntry .scriptStep i.val e =
    if stepRefused (readStep e) = true then .error .range
    else .ok (s.onScript fun x => { x with steps := x.steps.set i (clampStep (readStep e)) }) := by
  simp only [State.writeEntry, State.writeScriptStep, idx?_val]

theorem clampStep_of_bootOpen {t : Step} (open' : t.op = 4) : clampStep t = { t with arg := max 1 (min 3600 t.arg) } := by
  rw [clampStep, open']
  rfl

theorem clampStep_of_other {t : Step} (other : t.op ≠ 4) : clampStep t = t := by
  refine if_neg fun bootOpen => ?_
  unfold StepOp.ofCode at bootOpen
  split at bootOpen <;> first | exact other ‹_› | cases bootOpen

end

/-- Settles O38: each entry by its fields, with the tests and clamps of its rule. -/
theorem powerAndScriptTableWrites : Obligations.PowerAndScriptTableWrites := by
  refine ⟨⟨fun r s k cls idle guard w => ?_, fun r s k ms w => ?_, fun r s n e w => ?_⟩, fun r s i e w => ?_, fun r s i e w => ?_⟩
  · have owns : WritesTable .tableWriteLine .line := ⟨nofun, fun _ => rfl⟩
    refine ⟨fun unlisted => w.refused owns (writeLine_of_unlisted unlisted) nofun, fun c known level => ⟨fun fixed other => ?_, fun fits => ?_⟩⟩
    · exact w.refused owns ((writeLine_of_listed known level).trans (if_pos ⟨fixed, other⟩)) nofun
    · exact w.written owns ((writeLine_of_listed known level).trans
        (if_neg fun h => fits.elim (Nat.not_le.mpr h.1) h.2)) nofun
  · have owns : WritesTable .tableWriteSense .sense := ⟨nofun, fun _ => rfl⟩
    have field : fieldAt 0 2 (natBytes 2 ms.toNat) = ms.toNat := half_bytes ms
    refine w.written owns ?_ nofun
    simp only [State.writeEntry, State.writeSense, idx?_val, field]
    rfl
  · intro t put
    have owns : WritesTable .tableWriteSenseTrigger .senseTrigger := ⟨nofun, fun _ => rfl⟩
    refine ⟨fun invalid => w.written owns (writeTrigger_of_invalid invalid) nofun, fun valid out => ?_,
      fun valid line edge beyond => ?_, fun valid line edge script => ⟨?_, rfl⟩⟩
    · exact w.refused owns ((writeTrigger_of_valid valid).trans (if_pos out)) nofun
    · exact w.refused owns ((writeTrigger_of_valid valid).trans ((if_neg (not_or.mpr ⟨Nat.not_lt.mpr line, Nat.not_lt.mpr edge⟩)).trans (if_pos beyond))) nofun
    · exact w.written owns ((writeTrigger_of_valid valid).trans (
        (if_neg (not_or.mpr ⟨Nat.not_lt.mpr line, Nat.not_lt.mpr edge⟩)).trans (if_neg (Nat.not_lt.mpr script)))) nofun
  · intro d
    have owns : WritesTable .tableWriteScriptDir .scriptDir := ⟨nofun, fun _ => rfl⟩
    exact ⟨fun beyond => w.refused owns (writeScriptDir_eq.trans (if_pos beyond)) nofun,
      fun within => w.written owns (writeScriptDir_eq.trans (if_neg (Nat.not_lt.mpr within))) nofun⟩
  · intro t outOfRange put
    have owns : WritesTable .tableWriteScriptStep .scriptStep := ⟨nofun, fun _ => rfl⟩
    refine ⟨fun out => w.refused owns (writeScriptStep_eq.trans (if_pos (stepRefused_iff.mpr out))) nofun,
      fun within bootOpen => ?_, fun within other => ?_⟩
    · rw [show put { t with arg := max 1 (min 3600 t.arg) } = put (clampStep t) from congrArg put (clampStep_of_bootOpen bootOpen).symm]
      exact w.written owns (writeScriptStep_eq.trans (if_neg (mt stepRefused_iff.mp within))) nofun
    · rw [show put t = put (clampStep t) from congrArg put (clampStep_of_other other).symm]
      exact w.written owns (writeScriptStep_eq.trans (if_neg (mt stepRefused_iff.mp within))) nofun

end Sys2Proof.Machine
end

section
/-! The rate of the console line, set by a record or measured (R61, R67 to R70). -/

namespace Sys2Proof.Machine

/-! ### The divisor (R61, R67) -/

theorem distance_eq (a b : Nat) : distance a b = if a ≤ b then b - a else a - b := by
  unfold distance
  split <;> omega

section
variable {r : Rec} {s : State} {baud : BitVec 32}

theorem consoleBaud_of_zero (body : r.body = natBytes 4 baud.toNat) (zero : baud = 0) : s.consoleBaud r = ⟨.range, [], s⟩ := by
  have field : fieldAt 0 4 r.body = baud.toNat := body ▸ quad_bytes baud
  rw [State.consoleBaud, field]
  exact if_pos (congrArg BitVec.toNat zero)

theorem consoleBaud_of_rate (body : r.body = natBytes 4 baud.toNat) (rate : baud ≠ 0) : s.consoleBaud r =
    ⟨.ok, divBytes (max 32 (min 65535 ((100000000 + baud.toNat / 2) / baud.toNat))),
      s.abandonMeasurement.setDiv (max 32 (min 65535 ((100000000 + baud.toNat / 2) / baud.toNat)))⟩ := by
  have field : fieldAt 0 4 r.body = baud.toNat := body ▸ quad_bytes baud
  rw [State.consoleBaud, field]
  exact if_neg fun zero => rate (BitVec.eq_of_toNat_eq zero)

theorem setDiv_abandoned_of_running (running : s.line.state = .running) (d : Nat) : s.abandonMeasurement.setDiv d =
    s.onLine fun l => { l with set := { l.set with div := d } } := by
  rw [abandonMeasurement_eq, if_pos running]
  rfl

theorem setDiv_abandoned_of_measuring (measuring : s.line.state ≠ .running) (d : Nat) : s.abandonMeasurement.setDiv d =
    (s.onLine fun l => { l with set := { l.set with div := d } }).onLine fun l => { l with state := .running, rx := .ready } := by
  rw [abandonMeasurement_eq, if_neg measuring]
  rfl

end

/-! ### The standard rates (R69) -/

/-- An interval within 3 % of a standard rate's divisor. -/
abbrev Near (least : Nat) (x : Nat × Nat) : Prop := distance least x.2 * 100 ≤ 3 * x.2

theorem rates_positive : ∀ x ∈ standardRates, 0 < x.2 := by decide

theorem rates_apart : ∀ x ∈ standardRates, ∀ y ∈ standardRates, y = x ∨ x.2 * 14 ≤ y.2 * 10 ∨ y.2 * 14 ≤ x.2 * 10 := by
  decide

/-- A standard rate near an interval is nearer than every other, and the only one near it. -/
theorem nearer_of_near {least : Nat} {x y : Nat × Nat} (hx : x ∈ standardRates) (hy : y ∈ standardRates) (near : Near least x) :
    y = x ∨ (distance least x.2 < distance least y.2 ∧ ¬ Near least y) := by
  obtain same | apart := rates_apart x hx y hy
  · exact .inl same
  · refine .inr ?_
    have positive := rates_positive x hx
    simp only [Near, distance] at near ⊢
    omega

theorem snapRate_of_near {least : Nat} {x : Nat × Nat} (member : x ∈ standardRates) (near : Near least x) : snapRate least = some x := by
  have only : standardRates.filter (fun y => decide (Near least y)) = standardRates.filter (· == x) := by
    refine List.filter_congr fun y listed => ?_
    obtain rfl | ⟨-, far⟩ := nearer_of_near member listed near
    · rw [beq_self_eq_true]; exact decide_eq_true near
    · rw [beq_false_of_ne fun same : y = x => far (same ▸ near)]
      exact decide_eq_false far
  have distinct : standardRates.Nodup := by decide
  have once : standardRates.count x = 1 := distinct.count.trans (if_pos member)
  show (standardRates.filter fun y => decide (Near least y)).foldl (nearer least) none = some x
  rw [only, List.filter_beq, once]
  rfl

theorem snapRate_of_far {least : Nat} (far : ∀ x ∈ standardRates, ¬ Near least x) : snapRate least = none := by
  have nothing : standardRates.filter (fun y => decide (Near least y)) = [] :=
    List.filter_eq_nil_iff.mpr fun x member => by rw [decide_eq_true_eq]; exact far x member
  show (standardRates.filter fun y => decide (Near least y)).foldl (nearer least) none = none
  rw [nothing]
  rfl

/-- What R69 says of the divisor taken and the rate reported. -/
theorem snapped {least d : Nat} {std : Option Nat}
    (near : ∀ x ∈ standardRates, distance least x.2 * 100 ≤ 3 * x.2 →
      (∀ y ∈ standardRates, y = x ∨ distance least x.2 < distance least y.2) → d = x.2 ∧ std = some x.1)
    (far : (∀ x ∈ standardRates, 3 * x.2 < distance least x.2 * 100) → d = max 32 (min 65535 least) ∧ std = none) :
    divOfInterval least = d ∧ (snapRate least).map (·.1) = std := by
  by_cases some : ∃ x ∈ standardRates, Near least x
  · obtain ⟨x, member, close⟩ := some
    obtain ⟨rfl, rfl⟩ := near x member close fun y listed => (nearer_of_near member listed close).imp_right And.left
    rw [divOfInterval, snapRate_of_near member close]
    exact ⟨rfl, rfl⟩
  · have some : ∀ x ∈ standardRates, 3 * x.2 < distance least x.2 * 100 := fun x member =>
      Nat.not_le.mp fun near => some ⟨x, member, near⟩
    obtain ⟨rfl, rfl⟩ := far fun x member => some x member
    rw [divOfInterval, snapRate_of_far fun x member => Nat.not_le.mpr (some x member)]
    exact ⟨rfl, rfl⟩

/-! ### The measurement's events (R68 to R70) -/

section
variable {s : State} {n cycles : Nat} {m low : Option Nat} {t b : Time} {low : Option Time}

theorem autobaudTimeout_of_measuring (measuring : s.line.state = .measuring n m t low) : s.autobaudTimeout =
    if 10000000 ≤ (s.clock.now - t).toNat then
      (s.onLine fun l => { l with state := .running, rx := .ready, cnt := { l.cnt with autobaudFail := l.cnt.autobaudFail + 1 } }).raiseNotice
        (.autobaudFailed n)
    else s := by
  rw [State.autobaudTimeout, measuring]
  rfl

theorem autobaudOverflow_of_closed (measuring : s.line.state = .measuring n m t none) : s.autobaudOverflow = s := by
  rw [State.autobaudOverflow, measuring]

theorem autobaudInterval_of_closed (measuring : s.line.state = .measuring n m t none) : s.autobaudInterval cycles = s := by
  rw [State.autobaudInterval, measuring]

theorem mayHavePassed_iff {now since : Time} : mayHavePassed now since cycles = true ↔ cycles < ((now - since).toNat + 1) * 100 :=
  decide_eq_true_iff

theorem mayHaveCounted_iff {now since : Time} : mayHaveCounted now since cycles = true ↔
    cycles < ((now - since).toNat + 1) * 100 ∧ (now - since).toNat * 100 < cycles + 101 := by
  rw [mayHaveCounted, Bool.and_eq_true, mayHavePassed_iff, Bool.not_eq_true', surelyPassed, decide_eq_false_iff_not]
  exact and_congr_right' Nat.not_le

theorem autobaudOverflow_of_open (measuring : s.line.state = .measuring n m t (some b)) : s.autobaudOverflow =
    if 65536 < ((s.clock.now - b).toNat + 1) * 100 then s.discardInterval n m t else s := by
  rw [State.autobaudOverflow, measuring]
  exact if_congr mayHavePassed_iff rfl rfl

/-- The least interval so far. -/
def leastOf (m : Option Nat) (cycles : Nat) : Nat := match m with | none => cycles | some x => min x cycles

theorem min_getD_eq (m : Option Nat) (cycles : Nat) : min (m.getD cycles) cycles = leastOf m cycles := by
  cases m with
  | none => exact Nat.min_self cycles
  | some x => rfl

theorem autobaudInterval_of_open (measuring : s.line.state = .measuring n m t (some b)) : s.autobaudInterval cycles =
    if ¬ (cycles < ((s.clock.now - b).toNat + 1) * 100 ∧ (s.clock.now - b).toNat * 100 < cycles + 101) then s
    else if 65535 < cycles then (s.setRxd true).discardInterval n m t
    else if n < 15 then (s.setRxd true).onLine fun l => { l with state := .measuring (n + 1) (some (leastOf m cycles)) t none }
    else (s.setRxd true).autobaudComplete (leastOf m cycles) := by
  rw [State.autobaudInterval, measuring]
  simp only [min_getD_eq]
  refine if_congr ?_ rfl (if_congr Iff.rfl rfl (if_congr ?_ rfl rfl))
  · rw [Bool.not_eq_true', ← Bool.not_eq_true, mayHaveCounted_iff]
  · exact Nat.succ_lt_succ_iff (b := 15)

theorem autobaudComplete_eq {d : Nat} {std : Option Nat} {least : Nat} (div : divOfInterval least = d)
    (rate : (snapRate least).map (·.1) = std) (s : State) : s.autobaudComplete least =
      ((s.onLine fun l => { l with
        state := .running, rx := .ready, set := { l.set with div := d }
        cnt := { l.cnt with autobaudOk := l.cnt.autobaudOk + 1 } }).addMark .autobaud (BitVec.ofNat 16 d)).raiseNotice
          (.autobaudDone d (100000000 / d) least std) := by
  rw [State.autobaudComplete, div, rate]
  rfl

end

theorem notifies_of_exec {c : Instr} {s s1 : State} {n : Notice} (runs : exec c s = .next (s1.raiseNotice n)) : Notifies c s s1 n :=
  ⟨runs, SameButPushes.raiseNotice ..⟩

/-- Settles O39: the divisor by its formula, and the measurement event by event. -/
theorem baudSetByRecordOrMeasured : Obligations.BaudSetByRecordOrMeasured := by
  refine ⟨⟨rfl, distance_eq⟩, fun r s baud ready passes body => ⟨fun zero => ?_, fun rate => ?_⟩, fun r s ready passes => ?_,
    fun s n m t => ⟨fun low measuring => ⟨fun early => ?_, fun passed => ?_⟩, fun measuring => ⟨?_, fun cycles => ?_⟩,
      fun b measuring => ?_⟩⟩
  · exact answers_of_handler (h := State.consoleBaud) rfl nofun ready passes (consoleBaud_of_zero body zero)
  · have answer := consoleBaud_of_rate (s := s.popRecord) body rate
    refine ⟨fun running => ?_, fun measuring => ?_⟩
    · rw [setDiv_abandoned_of_running (s := s.popRecord) running] at answer
      exact answers_of_handler (h := State.consoleBaud) rfl nofun ready passes answer
    · rw [setDiv_abandoned_of_measuring (s := s.popRecord) measuring] at answer
      exact answers_of_handler (h := State.consoleBaud) rfl nofun ready passes answer
  · exact answers_of_handler (h := State.consoleBaudAuto) rfl nofun ready passes rfl
  · exact congrArg Host.Outcome.next ((autobaudTimeout_of_measuring measuring).trans (if_neg (Nat.not_le.mpr early)))
  · exact notifies_of_exec (congrArg Host.Outcome.next ((autobaudTimeout_of_measuring measuring).trans (if_pos passed)))
  · exact congrArg Host.Outcome.next (autobaudOverflow_of_closed measuring)
  · exact congrArg Host.Outcome.next (autobaudInterval_of_closed measuring)
  · intro us overflowed
    have taken (cycles : Nat) := autobaudInterval_of_open (cycles := cycles) measuring
    refine ⟨fun passed => ?_, fun early => ?_, fun cycles => ?_⟩
    · exact congrArg Host.Outcome.next ((autobaudOverflow_of_open measuring).trans (if_pos passed))
    · exact congrArg Host.Outcome.next ((autobaudOverflow_of_open measuring).trans (if_neg (Nat.not_lt.mpr early)))
    · intro least fits
      refine ⟨fun off => ?_, fun on long => ?_, fun on short few => ?_, fun on short last d std near far => ?_⟩
      · exact congrArg Host.Outcome.next ((taken cycles).trans (if_pos off))
      · exact congrArg Host.Outcome.next ((taken cycles).trans ((if_neg (not_not_intro on)).trans (if_pos long)))
      · exact congrArg Host.Outcome.next ((taken cycles).trans ((if_neg (not_not_intro on)).trans
          ((if_neg (Nat.not_lt.mpr short)).trans (if_pos few))))
      · obtain ⟨div, rate⟩ := snapped near far
        exact notifies_of_exec (congrArg Host.Outcome.next ((taken cycles).trans ((if_neg (not_not_intro on)).trans
          ((if_neg (Nat.not_lt.mpr short)).trans ((if_neg (Nat.not_lt.mpr last)).trans (autobaudComplete_eq div rate _))))))

end Sys2Proof.Machine
end

section
/-! Ownership of the console line and what its owner types (R63, R71 to R77). -/

namespace Sys2Proof.Machine

/-! ### Claims and releases (R73 to R75) -/

section
variable {r : Rec} {s : State} {t : Time} {o : Fin 8}

theorem ownerBytes_some (i : Fin 8) : ownerBytes (some i) = [1, BitVec.ofNat 8 i.val] := rfl

theorem ownerOp_of_owned (owned : s.line.owner = some ⟨o, t⟩) : s.ownerOp = some o := by rw [State.ownerOp, owned]; rfl

theorem ownerOp_of_free (free : s.line.owner = none) : s.ownerOp = none := by rw [State.ownerOp, free]; rfl

theorem ownerOp_ne_of_other {me : Fin 8} (other : ∀ t, s.line.owner ≠ some ⟨me, t⟩) : s.ownerOp ≠ some me := by
  intro own
  obtain ⟨⟨op, last⟩, owned, rfl⟩ := Option.map_eq_some_iff.mp own
  exact other last owned

theorem renewOwner_of_owned (owned : s.line.owner = some ⟨o, t⟩) : s.renewOwner =
    s.onLine fun l => { l with owner := some ⟨o, s.clock.now⟩ } :=
  congrArg (fun x => s.onLine fun l => { l with owner := x }) (by rw [owned]; rfl)

theorem claim_of_free (free : s.line.owner = none) :
    s.claim false = ⟨.ok, [1, BitVec.ofNat 8 s.agent.op.val], s.changeOwner (some s.agent.op) .claim⟩ := by
  simp only [State.claim, ownerOp_of_free free]
  rfl

theorem claim_of_own (owned : s.line.owner = some ⟨s.agent.op, t⟩) (force : Bool) : s.claim force =
    ⟨.ok, [1, BitVec.ofNat 8 s.agent.op.val], s.onLine fun l => { l with owner := some ⟨s.agent.op, s.clock.now⟩ }⟩ := by
  simp only [State.claim, ownerOp_of_owned owned, renewOwner_of_owned owned]
  exact if_pos rfl

theorem claim_of_other (owned : s.line.owner = some ⟨o, t⟩) (other : o ≠ s.agent.op) :
    s.claim false = ⟨.conflict, [1, BitVec.ofNat 8 o.val], s⟩ := by
  simp only [State.claim, ownerOp_of_owned owned]
  exact (if_neg other).trans (if_neg Bool.false_ne_true)

theorem claim_forced (other : ∀ t, s.line.owner ≠ some ⟨s.agent.op, t⟩) : s.claim true =
    ⟨.ok, [1, BitVec.ofNat 8 s.agent.op.val] ++ natBytes 4 s.line.fifo.length,
      (s.onLine fun l => { l with fifo := [] }).changeOwner (some s.agent.op) .forced⟩ := by
  have notMe := ownerOp_ne_of_other other
  rw [State.claim]
  split
  · rfl
  · next op here => exact (if_neg fun same : op = s.caller => notMe (here.trans (congrArg some same))).trans (if_pos rfl)

theorem consoleRelease_of_free (free : s.line.owner = none) : s.consoleRelease r = ⟨.state, [], s⟩ := by
  simp only [State.consoleRelease, ownerOp_of_free free]

theorem consoleRelease_of_own (owned : s.line.owner = some ⟨s.agent.op, t⟩) :
    s.consoleRelease r = ⟨.ok, [], s.changeOwner none .released⟩ := by
  simp only [State.consoleRelease, ownerOp_of_owned owned]
  exact if_pos rfl

theorem consoleRelease_of_other (owned : s.line.owner = some ⟨o, t⟩) (other : o ≠ s.agent.op) :
    s.consoleRelease r = ⟨.conflict, [1, BitVec.ofNat 8 o.val], s⟩ := by
  simp only [State.consoleRelease, ownerOp_of_owned owned]
  exact if_neg other

end

/-- Settles O40: a claim and a release by who owns the line, and the idle limit. -/
theorem consoleOwnership : Obligations.ConsoleOwnership := by
  refine ⟨fun s new cause => ?_, fun r s passes => ?_, fun s => ⟨fun free => ?_, fun o owned => ⟨fun off => ?_, fun on passed => ?_⟩⟩⟩
  · cases new <;> exact ⟨rfl, changeOwner_same _ _ s⟩
  · intro me mine other renewed forced
    have claims {s1 : State} {st : Status} {body : List Byte} (ready : Ready .consoleClaim r s)
        (answer : s.popRecord.claim false = ⟨st, body, s1⟩) : Answers .consoleClaim s r st body s1 :=
      answers_of_handler (h := fun _ t => t.claim false) rfl nofun ready passes answer
    have forces {s1 : State} {body : List Byte} (ready : Ready .consoleClaimForce r s)
        (answer : s.popRecord.claim true = ⟨.ok, body, s1⟩) : Answers .consoleClaimForce s r .ok body s1 :=
      answers_of_handler (h := fun _ t => t.claim true) rfl nofun ready passes answer
    have releases {s1 : State} {st : Status} {body : List Byte} (ready : Ready .consoleRelease r s)
        (answer : s.popRecord.consoleRelease r = ⟨st, body, s1⟩) : Answers .consoleRelease s r st body s1 :=
      answers_of_handler (h := State.consoleRelease) rfl nofun ready passes answer
    exact ⟨fun ready => ⟨fun free => claims ready (claim_of_free (s := s.popRecord) free),
        fun t owned => claims ready (claim_of_own (s := s.popRecord) owned false),
        fun o t owned notMe => claims ready (claim_of_other (s := s.popRecord) owned notMe)⟩,
      fun ready => ⟨fun t owned => forces ready (claim_of_own (s := s.popRecord) owned true),
        fun notMe => forces ready (claim_forced (s := s.popRecord) notMe)⟩,
      fun ready => ⟨fun free => releases ready (consoleRelease_of_free (s := s.popRecord) free),
        fun t owned => releases ready (consoleRelease_of_own (s := s.popRecord) owned),
        fun o t owned notMe => releases ready (consoleRelease_of_other (s := s.popRecord) owned notMe)⟩⟩
  · exact congrArg Host.Outcome.next (releaseIfIdle_of_free free)
  · exact congrArg Host.Outcome.next ((releaseIfIdle_of_owned owned).trans (if_neg (by omega)))
  · exact congrArg Host.Outcome.next ((releaseIfIdle_of_owned owned).trans (if_pos ⟨on, passed⟩))

/-! ### Typing (R76, R77) -/

section
variable {r : Rec} {s : State}

theorem ownerBytes_owner : ownerBytes s.ownerOp = match s.line.owner with | none => [0, 0] | some o => [1, BitVec.ofNat 8 o.op.val] := by
  rw [State.ownerOp]
  cases s.line.owner <;> rfl

theorem renewOwner_of_own (own : s.line.owner.map (·.op) = some s.agent.op) : s.renewOwner =
    s.onLine fun l => { l with owner := some ⟨s.agent.op, s.clock.now⟩ } := by
  obtain ⟨⟨op, last⟩, owned, same⟩ := Option.map_eq_some_iff.mp own
  exact same ▸ renewOwner_of_owned owned

theorem consoleType_of_own (own : s.line.owner.map (·.op) = some s.agent.op) : s.consoleType r =
    ⟨.ok, natBytes 4 (min r.body.length (256 - s.line.fifo.length)), State.txNext (s.onLine fun l => { l with
      owner := some ⟨s.agent.op, s.clock.now⟩
      fifo := l.fifo ++ (r.body.take (min r.body.length (256 - s.line.fifo.length))).map .byte
      cnt := { l.cnt with
        typeShort := l.cnt.typeShort + BitVec.ofNat 32 (r.body.length - min r.body.length (256 - s.line.fifo.length)) } })⟩ := by
  rw [State.consoleType, if_pos (show s.ownerOp = some s.caller from own), renewOwner_of_own own]
  rfl

theorem consoleType_of_other (other : s.line.owner.map (·.op) ≠ some s.agent.op) :
    s.consoleType r = ⟨.conflict, ownerBytes s.ownerOp, s⟩ := if_neg other

theorem consoleBreak_of_own {d : Half} (own : s.line.owner.map (·.op) = some s.agent.op) (body : r.body = natBytes 2 d.toNat) :
    s.consoleBreak r =
      let xs := if 256 - s.line.fifo.length = 0 then [] else [FifoItem.brk (max 100 (min 2000 d.toNat))]
      ⟨.ok, natBytes 4 xs.length ++ natBytes 2 (max 100 (min 2000 d.toNat)),
        State.txNext (s.onLine fun l => { l with owner := some ⟨s.agent.op, s.clock.now⟩, fifo := l.fifo ++ xs })⟩ := by
  have field : fieldAt 0 2 r.body = d.toNat := body ▸ half_bytes d
  rw [State.consoleBreak, if_pos (show s.ownerOp = some s.caller from own), renewOwner_of_own own, field]
  rfl

theorem consoleBreak_of_other (other : s.line.owner.map (·.op) ≠ some s.agent.op) :
    s.consoleBreak r = ⟨.conflict, ownerBytes s.ownerOp, s⟩ := if_neg other

/-! ### The transmitter takes the head item (R71, R72) -/

theorem txNext_of_busy (busy : s.line.tx ≠ .idle ∨ s.line.fifo = []) : s.txNext = s := by
  unfold State.txNext
  split
  · next x rest idle head =>
    obtain sending | empty := busy
    · exact absurd idle sending
    · exact absurd (empty.symm.trans head) (List.cons_ne_nil x rest).symm
  · rfl

theorem txNext_of_waiting {x : FifoItem} {rest : List FifoItem} (idle : s.line.tx = .idle) (head : s.line.fifo = x :: rest)
    (flow : s.line.set.rtsCts = true) (off : s.pins.cts = false) : s.txNext =
      if s.line.ctsCounted = true then s else s.onLine fun l => { l with
        ctsCounted := true, cnt := { l.cnt with ctsWait := l.cnt.ctsWait + 1 } } := by
  simp only [State.txNext, idle, head, flow, off, Bool.not_false, Bool.and_self, if_true]
  rfl

/-- What the transmitter does to send an item. -/
def FifoItem.transmitter (c : CharSettings) (now : Time) : FifoItem → Transmitter
  | .byte b => .character b c now
  | .brk ms => .brk ms c now

theorem txNext_of_free {x : FifoItem} {rest : List FifoItem} (idle : s.line.tx = .idle) (head : s.line.fifo = x :: rest)
    (free : s.line.set.rtsCts = false ∨ s.pins.cts = true) : s.txNext = s.onLine fun l => { l with
      tx := x.transmitter s.line.set.char s.clock.now, fifo := rest, ctsCounted := false } := by
  have flows : ¬ (s.line.set.rtsCts && !s.pins.cts) = true := by
    obtain off | on := free
    · simp [off]
    · simp [on]
  simp only [State.txNext, idle, head, if_neg flows]
  cases x <;> rfl

end

/-- Settles O41: what an owner's record types, and what the transmitter makes of the head item. -/
theorem ownerTypesIntoFifo : Obligations.OwnerTypesIntoFifo := by
  refine ⟨fun r s passes => ?_, fun s => ⟨txNext_of_busy, fun x rest idle head => ⟨fun free => ⟨fun b item => ?_, fun ms item => ?_⟩,
    fun flow off => ⟨fun counted => ?_, fun uncounted => ?_⟩⟩⟩⟩
  · intro owner n
    refine ⟨fun own => ?_, fun other => ?_⟩
    · intro renewed
      refine ⟨fun ready => answers_of_handler (h := State.consoleType) rfl nofun ready passes (consoleType_of_own (s := s.popRecord) own),
        fun ready d body => ?_⟩
      intro ms
      have answer := consoleBreak_of_own (s := s.popRecord) own body
      refine ⟨fun room => ?_, fun full => ?_⟩
      · have some : ¬ 256 - s.popRecord.line.fifo.length = 0 := Nat.sub_ne_zero_of_lt room
        simp only [if_neg some] at answer
        exact answers_of_handler (h := State.consoleBreak) rfl nofun ready passes answer
      · have none : 256 - s.popRecord.line.fifo.length = 0 := Nat.sub_eq_zero_of_le full
        simp only [if_pos none, List.append_nil] at answer
        exact answers_of_handler (h := State.consoleBreak) rfl nofun ready passes answer
    · have bytes : owner = ownerBytes s.ownerOp := ownerBytes_owner.symm
      rw [bytes]
      exact ⟨fun ready => answers_of_handler (h := State.consoleType) rfl nofun ready passes (consoleType_of_other (s := s.popRecord) other),
        fun ready => answers_of_handler (h := State.consoleBreak) rfl nofun ready passes (consoleBreak_of_other (s := s.popRecord) other)⟩
  · subst item
    exact txNext_of_free idle head free
  · subst item
    exact txNext_of_free idle head free
  · exact (txNext_of_waiting idle head flow off).trans (if_pos counted)
  · exact (txNext_of_waiting idle head flow off).trans (if_neg (Bool.eq_false_iff.mp uncounted))

end Sys2Proof.Machine
end

section
/-! The transmitter's and the receiver's events (R63 to R66, R68, R71, R72). -/

namespace Sys2Proof.Machine

/-! ### The transmitter (R63, R71, R72) -/

section
variable {s : State} {b : Byte} {c : CharSettings} {t : Time} {n ms : Nat}

theorem txCharacterDone_of_sending (sending : s.line.tx = .character b c t) : s.txCharacterDone =
    if c.cycles < ((s.clock.now - t).toNat + 1) * 100 then
      State.txNext (s.onLine fun l => { l with tx := .idle, cnt := { l.cnt with txChars := l.cnt.txChars + 1 } })
    else s := by
  rw [State.txCharacterDone, sending]
  exact if_congr mayHavePassed_iff rfl rfl

theorem breakOutEnd_of_break (sending : s.line.tx = .brk ms c t) : s.breakOutEnd =
    if (s.clock.now - (t + BitVec.ofNat 48 (ms * 1000))).toNat < 2 ^ 47 then
      s.onLine fun l => { l with tx := .gap c.cycles s.clock.now }
    else s := by
  rw [State.breakOutEnd, sending]
  exact if_congr decide_eq_true_iff rfl rfl

theorem breakGapEnd_of_gap (gap : s.line.tx = .gap n t) : s.breakGapEnd =
    if n < ((s.clock.now - t).toNat + 1) * 100 then
      State.txNext (s.onLine fun l => { l with tx := .idle, cnt := { l.cnt with breakOut := l.cnt.breakOut + 1 } })
    else s := by
  rw [State.breakGapEnd, gap]
  exact if_congr mayHavePassed_iff rfl rfl

theorem level_of_bit {cycles k : Nat} {level : Bool} (bit : (wireBits c b)[k]? = some level) (since : k * c.div ≤ cycles)
    (before : cycles < (k + 1) * c.div) : Transmitter.level cycles (.character b c t) = level := by
  have place : cycles / c.div = k := Nat.div_eq_of_lt_le since before
  rw [Transmitter.level, place, List.getD_eq_getElem?_getD, bit, Option.getD_some]

end

/-- Settles O42: each completion in its item, by the time its bits take. -/
theorem transmitterSendsItems : Obligations.TransmitterSendsItems := by
  refine ⟨fun s b c t sending => ⟨fun done => ?_, fun early => ?_⟩, fun s ms l t sending => ⟨fun done => ?_, fun early => ?_⟩,
    fun s n t gap => ⟨fun done => ?_, fun early => ?_⟩,
    fun cycles ms b c t => ⟨rfl, rfl, rfl, fun k level bit since before => level_of_bit bit since before⟩, fun s => ⟨rfl, rfl⟩⟩
  · exact congrArg Host.Outcome.next ((txCharacterDone_of_sending sending).trans (if_pos done))
  · exact congrArg Host.Outcome.next ((txCharacterDone_of_sending sending).trans (if_neg (Nat.not_lt.mpr early)))
  · exact congrArg Host.Outcome.next ((breakOutEnd_of_break sending).trans (if_pos done))
  · exact congrArg Host.Outcome.next ((breakOutEnd_of_break sending).trans (if_neg (Nat.not_lt.mpr early)))
  · exact congrArg Host.Outcome.next ((breakGapEnd_of_gap gap).trans (if_pos done))
  · exact congrArg Host.Outcome.next ((breakGapEnd_of_gap gap).trans (if_neg (Nat.not_lt.mpr early)))

/-! ### The samples of a character (R65) -/

section
variable {c : CharSettings} {samples : List Bool}

theorem dataValue_take_getLsbD (n : Nat) {i : Nat} (bound : i < 8) :
    (dataValue (samples.take n)).getLsbD i = (decide (i < n) && samples.getD i false) := by
  rw [dataValue_getLsbD, decide_eq_true bound, Bool.true_and, List.getD_eq_getElem?_getD, List.getD_eq_getElem?_getD, List.getElem?_take]
  split
  · rw [decide_eq_true ‹i < n›, Bool.true_and]
  · rw [decide_eq_false ‹¬ i < n›, Bool.false_and]; rfl

theorem parity_sample {x : Bool} (one : c.parityBits = 1) (at' : samples[c.dataBits]? = some x) :
    (samples.drop c.dataBits).take c.parityBits = [x] := by
  obtain ⟨bound, here⟩ := List.getElem?_eq_some_iff.mp at'
  rw [one, List.take_one, List.head?_drop, at']
  rfl

theorem not_mod_two (n : Nat) : (!(n % 2 == 1)) = (n % 2 == 0) ∧ (!(n % 2 == 0)) = (n % 2 == 1) := by
  obtain even | odd := Nat.mod_two_eq_zero_or_one n
  · rw [even]; decide
  · rw [odd]; decide

theorem parityError_iff (length : samples.length = c.frameBits - 1) :
    (judgeCharacter c samples).2.2 = true ↔
      (c.parity = .even ∧ samples[c.dataBits]? = some (((samples.take c.dataBits).filter id).length % 2 == 0)) ∨
      (c.parity = .odd ∧ samples[c.dataBits]? = some (((samples.take c.dataBits).filter id).length % 2 == 1)) := by
  have flips (x y : Bool) : ([x] != [y]) = true ↔ x = !y := by cases x <;> cases y <;> decide
  cases parity : c.parity with
  | none =>
    have noBit : c.parityBits = 0 := if_pos parity
    simp only [judgeCharacter, noBit, parity, List.take_zero]
    exact ⟨nofun, nofun⟩
  | even | odd =>
    have oneBit : c.parityBits = 1 := if_neg (by rw [parity]; exact nofun)
    have inside : c.dataBits < samples.length := by
      rw [length, CharSettings.frameBits, oneBit, CharSettings.stopBits]
      split <;> omega
    have here := List.getElem?_eq_getElem inside
    simp only [judgeCharacter, parity_sample oneBit here, parity, parityBitOf_even, parityBitOf_odd, flips, here, Option.some.injEq,
      not_mod_two, reduceCtorEq, true_and, false_and, or_false, false_or]

theorem framingError_iff : (judgeCharacter c samples).2.1 = true ↔ false ∈ samples.drop (c.dataBits + c.parityBits) := by
  simp only [judgeCharacter, List.any_eq_true, Bool.not_eq_true', exists_eq_right]

end

/-! ### The receiver (R64 to R66) -/

section
variable {s : State} {c : CharSettings} {t : Time} {samples : List Bool} {rose : Bool}

theorem rxdFallingEdge_of_outOfService (out : s.inService = false) : s.rxdFallingEdge = s.setRxd false := by
  rw [State.rxdFallingEdge, out]; rfl

theorem rxdFallingEdge_of_measuring {n : Nat} {m : Option Nat} {low : Option Time} (service : s.inService = true)
    (measuring : s.line.state = .measuring n m t low) : s.rxdFallingEdge =
      (s.setRxd false).onLine fun l => { l with state := .measuring n m t (some (low.getD s.clock.now)) } := by
  rw [State.rxdFallingEdge, service, measuring]; rfl

theorem rxdFallingEdge_of_ready (service : s.inService = true) (running : s.line.state = .running) (ready : s.line.rx = .ready) :
    s.rxdFallingEdge = (s.setRxd false).setRx (.start s.line.set.char s.clock.now) := by
  rw [State.rxdFallingEdge, service, running, ready]; rfl

theorem rxdFallingEdge_of_receiving (service : s.inService = true) (running : s.line.state = .running) (busy : s.line.rx ≠ .ready) :
    s.rxdFallingEdge = s.setRxd false := by
  rw [State.rxdFallingEdge, service, running]
  cases rx : s.line.rx with
  | ready => exact absurd rx busy
  | start | character | lowWait | brk => rfl

theorem onLine_of_state {x : LineState} (same : s.line.state = x) : s.onLine (fun l => { l with state := x }) = s := by
  rw [← same]; rfl

theorem falseStart_of_start (start : s.line.rx = .start c t) : s.falseStart =
    if c.div / 2 < ((s.clock.now - t).toNat + 1) * 100 then (s.setRxd true).setRx .ready else s := by
  rw [State.falseStart, start]
  refine if_congr ?_ rfl rfl
  rw [mayHavePassed_iff, CharSettings.samplePoint, Nat.zero_mul, Nat.zero_add]

theorem rxCharacter_of_sampled (receiving : s.line.rx = .start c t ∨ s.line.rx = .character c t) :
    s.rxCharacter samples rose = s.judgeSamples c t samples rose := by
  obtain start | character := receiving
  · rw [State.rxCharacter, start]
  · rw [State.rxCharacter, character]

theorem judgeSamples_of_complete (length : samples.length = c.frameBits - 1)
    (passed : (c.frameBits - 1) * c.div + c.div / 2 < ((s.clock.now - t).toNat + 1) * 100) :
    s.judgeSamples c t samples rose =
      if (rose || samples.any id) = true then
        (s.setRxd (samples.getLast?.getD false)).takeCharacter (judgeCharacter c samples).1 (judgeCharacter c samples).2.1
          (judgeCharacter c samples).2.2
      else s.setRx (.lowWait c t) := by
  rw [State.judgeSamples, if_pos ⟨length, mayHavePassed_iff.mpr passed⟩]

theorem rxCharacter_of_rise (waiting : s.line.rx = .lowWait c t) (before : (s.clock.now - t).toNat * 100 < c.cycles + 100) :
    s.rxCharacter samples true = (s.setRxd true).takeCharacter 0 true (c.parity == .odd) := by
  rw [State.rxCharacter, waiting]
  exact if_pos ⟨rfl, decide_eq_false (Nat.not_le.mpr before)⟩

theorem breakDetected_of_lowWait (waiting : s.line.rx = .lowWait c t) : s.breakDetected =
    if c.cycles < ((s.clock.now - t).toNat + 1) * 100 then
      State.addMark .breakIn 0 (s.onLine fun l => { l with rx := .brk, cnt := { l.cnt with breakIn := l.cnt.breakIn + 1 } })
    else s := by
  rw [State.breakDetected, waiting]
  exact if_congr mayHavePassed_iff rfl rfl

end

/-- Settles O44: the samples by their places, and each event by what the receiver does. -/
theorem receiverTakesCharacters : Obligations.ReceiverTakesCharacters := by
  refine ⟨fun c samples length => ?_, fun s => ?_, fun s c t start => ⟨fun passed => ?_, fun early => ?_⟩,
    fun s c t samples rose receiving length passed => ⟨fun flat low => ?_, fun high value framing parity judged => ?_⟩,
    fun s c t waiting => ⟨fun before samples => ?_, fun passed => ?_, fun early => ?_⟩, fun s brk => ?_⟩
  · refine ⟨fun i bound => dataValue_take_getLsbD _ bound, framingError_iff.trans ?_, parityError_iff length⟩
    have place : c.dataBits + c.parityBits = if c.parity = .none then c.dataBits else c.dataBits + 1 := by
      rw [CharSettings.parityBits]
      split <;> rfl
    rw [place]
    rfl
  · intro low
    refine ⟨fun out => ?_, fun on => ?_⟩
    · have outside : s.inService = false := by obtain h | h := out <;> rw [State.inService, h] <;> rfl
      exact congrArg Host.Outcome.next (rxdFallingEdge_of_outOfService outside)
    · have service : s.inService = true := by obtain h | h := on <;> rw [State.inService, h] <;> rfl
      exact ⟨fun n m t measuring => congrArg Host.Outcome.next (rxdFallingEdge_of_measuring service measuring),
        fun n m t b measuring => congrArg Host.Outcome.next ((rxdFallingEdge_of_measuring service measuring).trans
          (onLine_of_state (s := low) measuring)),
        fun running ready => congrArg Host.Outcome.next (rxdFallingEdge_of_ready service running ready),
        fun running busy => congrArg Host.Outcome.next (rxdFallingEdge_of_receiving service running busy)⟩
  · exact congrArg Host.Outcome.next ((falseStart_of_start start).trans (if_pos passed))
  · exact congrArg Host.Outcome.next ((falseStart_of_start start).trans (if_neg (Nat.not_lt.mpr early)))
  · have nothing : ¬ (rose || samples.any id) = true := by
      rw [flat, Bool.false_or, List.any_eq_true]
      rintro ⟨b, member, set⟩
      exact Bool.false_ne_true ((low b member).symm.trans set)
    exact congrArg Host.Outcome.next ((rxCharacter_of_sampled receiving).trans
      ((judgeSamples_of_complete length passed).trans (if_neg nothing)))
  · have something : (rose || samples.any id) = true := by
      rw [Bool.or_eq_true, List.any_eq_true]
      exact high.imp_right fun member => ⟨true, member, rfl⟩
    have complete := judgeSamples_of_complete (rose := rose) length passed
    rw [if_pos something, judged] at complete
    exact congrArg Host.Outcome.next ((rxCharacter_of_sampled receiving).trans complete)
  · refine congrArg Host.Outcome.next ((rxCharacter_of_rise waiting before).trans ?_)
    cases c.parity <;> rfl
  · exact congrArg Host.Outcome.next ((breakDetected_of_lowWait waiting).trans (if_pos passed))
  · exact congrArg Host.Outcome.next ((breakDetected_of_lowWait waiting).trans (if_neg (Nat.not_lt.mpr early)))
  · refine congrArg Host.Outcome.next (?_ : s.breakInEnd = _)
    rw [State.breakInEnd, brk]
    rfl

end Sys2Proof.Machine
end

section
/-! The records that mark, arm and watch (R82 to R84, R94). -/

namespace Sys2Proof.Machine

/-! ### Marks and patterns -/

section
variable {r : Rec} {s : State} {b : Byte} {i : Fin 8}

theorem settleOffer_of_none (none : s.hist.nextPush = none) : s.settleOffer = s.onHist fun h => { h with offerWaiting := false } := by
  rw [State.settleOffer, none]; rfl

theorem settleOffer_of_some (some : s.hist.nextPush ≠ none) : s.settleOffer = s :=
  if_neg fun isNone => some (Option.isNone_iff_eq_none.mp isNone)

theorem consoleMark_eq {note : Half} (body : r.body = natBytes 2 note.toNat) : s.consoleMark r =
    ⟨.ok, counterBytes s.hist.nextMark ++ timeBytes s.hist.newest ++ timeBytes s.clock.now ++ epochBytes s.clock.epoch,
      s.addMark .operator note⟩ := by
  have field : BitVec.ofNat 16 (fieldAt 0 2 r.body) = note := body ▸ half_bytes_word note
  rw [State.consoleMark, field]

theorem consoleArm_of_missing (body : r.body = [b])
    (missing : ∀ i : Fin 8, b.toNat = i.val → (s.hist.patterns[i]).valid = false) : s.consoleArm r = ⟨.noSuch, [], s⟩ := by
  rw [State.consoleArm, body, fieldAt_zero_one, filter_idx?_eq_none_iff.mpr fun i same => missing i same.symm]

theorem filter_idx?_of_valid {n : Nat} {p : Fin n → Bool} {i : Fin n} (valid : p i = true) : (idx? n i.val).filter p = some i := by
  rw [idx?_val, Option.filter_some, if_pos valid]

theorem ofNat_of_toNat {n : Nat} (same : b.toNat = n) : BitVec.ofNat 8 n = b := by
  rw [← same, BitVec.ofNat_toNat, BitVec.setWidth_eq]

theorem consoleArm_of_valid (body : r.body = [b]) (index : b.toNat = i.val) (valid : (s.hist.patterns[i]).valid = true) :
    s.consoleArm r = ⟨.ok, [b, 1] ++ counterBytes (s.hist.patterns[i]).hits,
      s.onHist fun h => { h with patterns := h.patterns.set i { h.patterns[i] with armed := true, window := [] } }⟩ := by
  have byte : natBytes 1 i.val = [b] := congrArg ([·]) (ofNat_of_toNat index)
  simp only [State.consoleArm, body, fieldAt_zero_one, index, filter_idx?_of_valid (p := fun i => s.hist.patterns[i].valid) valid, byte,
    flagByte_true]
  rfl

end

/-! ### Watchers (R83, R84) -/

section
variable {r : Rec} {s : State} {data notices start : Byte} {x : Offset} {w : Fin 4}

theorem watchBody_fields (body : r.body = [data, notices, start] ++ timeBytes x) : flagAt 0 r.body = (data != 0) ∧
    flagAt 1 r.body = (notices != 0) ∧ fieldAt 2 1 r.body = start.toNat ∧ BitVec.ofNat 48 (fieldAt 3 6 r.body) = x := by
  rw [body]
  exact ⟨flag_byte data, flag_byte notices, beNat_singleton start, mac_bytes x⟩

theorem watchRange_iff (body : r.body = [data, notices, start] ++ timeBytes x) :
    ((!flagAt 0 r.body && !flagAt 1 r.body) || decide (2 < fieldAt 2 1 r.body)) = true ↔
      (data = 0 ∧ notices = 0) ∨ 2 < start.toNat := by
  obtain ⟨dataFlag, noticesFlag, startField, -⟩ := watchBody_fields body
  rw [dataFlag, noticesFlag, startField]
  simp

theorem consoleWatch_of_range (body : r.body = [data, notices, start] ++ timeBytes x)
    (out : (data = 0 ∧ notices = 0) ∨ 2 < start.toNat) : s.consoleWatch r = ⟨.range, [], s⟩ :=
  if_pos ((watchRange_iff body).mpr out)

theorem freeWatcher_eq_none_iff {h : History} : (firstIdx 4 fun w => h.watchers[w].isNone) = none ↔ ∀ w : Fin 4, h.watchers[w] ≠ none := by
  rw [firstIdx_eq_none_iff]
  exact forall_congr' fun w => by rw [← Bool.not_eq_true, Option.isNone_iff_eq_none]

theorem freeWatcher_eq_some_iff {h : History} : (firstIdx 4 fun w => h.watchers[w].isNone) = some w ↔ h.watchers[w] = none ∧
    ∀ v < w, h.watchers[v] ≠ none := by
  rw [firstIdx_eq_some_iff, Option.isNone_iff_eq_none]
  exact and_congr_right' (forall₂_congr fun v _ => by rw [← Bool.not_eq_true, Option.isNone_iff_eq_none])

section
variable (body : r.body = [data, notices, start] ++ timeBytes x) (some : ¬ (data = 0 ∧ notices = 0)) (listed : start.toNat ≤ 2)
include body some listed

theorem watchRange_of_within : ¬ ((!flagAt 0 r.body && !flagAt 1 r.body) || decide (2 < fieldAt 2 1 r.body)) = true :=
  mt (watchRange_iff body).mp (not_or.mpr ⟨some, Nat.not_lt.mpr listed⟩)

theorem consoleWatch_of_mine (mine : s.hist.watcherOf s.agent.op = Option.some w) : s.consoleWatch r = s.watchAt false w r := by
  rw [State.consoleWatch, if_neg (watchRange_of_within body some listed), show s.hist.watcherOf s.caller = Option.some w from mine]

theorem consoleWatch_of_full (others : s.hist.watcherOf s.agent.op = none) (full : ∀ w : Fin 4, s.hist.watchers[w] ≠ none) :
    s.consoleWatch r = ⟨.busy, [], s⟩ := by
  rw [State.consoleWatch, if_neg (watchRange_of_within body some listed), show s.hist.watcherOf s.caller = none from others,
    freeWatcher_eq_none_iff.mpr full]

theorem consoleWatch_of_free (others : s.hist.watcherOf s.agent.op = none) (free : s.hist.watchers[w] = none)
    (first : ∀ v < w, s.hist.watchers[v] ≠ none) : s.consoleWatch r = s.watchAt true w r := by
  rw [State.consoleWatch, if_neg (watchRange_of_within body some listed), show s.hist.watcherOf s.caller = none from others,
    freeWatcher_eq_some_iff.mpr ⟨free, first⟩]

end

/-- The offset a start names (R83). -/
theorem startOffset_eq {h : History} {next : Offset} (listed : start.toNat ≤ 2) (newest : start = 0 → next = h.newest)
    (oldest : start = 1 → next = h.oldest) (far : start = 2 → 2 ^ 47 ≤ (h.newest - x).toNat → next = h.newest)
    (near : start = 2 → (h.newest - x).toNat < 2 ^ 47 → next = x) : h.startOffset start.toNat x = next := by
  have cases : start = 0 ∨ start = 1 ∨ start = 2 := by
    rw [byte_eq_iff start 0, byte_eq_iff start 1, byte_eq_iff start 2]
    show start.toNat = 0 ∨ start.toNat = 1 ∨ start.toNat = 2
    omega
  obtain rfl | rfl | rfl := cases
  · exact (newest rfl).symm
  · exact (oldest rfl).symm
  · by_cases ahead : 2 ^ 47 ≤ (h.newest - x).toNat
    · rw [far rfl ahead]
      show (match h.relation x with | .ahead => h.newest | .held => x | .below => x) = _
      rw [relation_ahead (.inr ahead)]
    · rw [near rfl (Nat.not_le.mp ahead)]
      show (match h.relation x with | .ahead => h.newest | .held => x | .below => x) = _
      have close := Nat.not_le.mp ahead
      by_cases equal : (h.newest - x).toNat = 0
      · rw [relation_ahead (.inl equal)]
        exact eq_of_sub_eq_zero equal
      · by_cases most : (h.newest - x).toNat ≤ h.ring.length
        · rw [relation_held (Nat.one_le_iff_ne_zero.mpr equal) most close]
        · rw [relation_below (Nat.not_le.mp most) close]

theorem watchNext_eq {next : Offset} (body : r.body = [data, notices, start] ++ timeBytes x) (listed : start.toNat ≤ 2)
    (without : data = 0 → next = s.hist.newest) (newest : data ≠ 0 → start = 0 → next = s.hist.newest)
    (oldest : data ≠ 0 → start = 1 → next = s.hist.oldest)
    (far : data ≠ 0 → start = 2 → 2 ^ 47 ≤ (s.hist.newest - x).toNat → next = s.hist.newest)
    (near : data ≠ 0 → start = 2 → (s.hist.newest - x).toNat < 2 ^ 47 → next = x) :
    (if flagAt 0 r.body = true then s.hist.startOffset (fieldAt 2 1 r.body) (BitVec.ofNat 48 (fieldAt 3 6 r.body))
      else s.hist.newest) = next := by
  obtain ⟨dataFlag, -, startField, offset⟩ := watchBody_fields body
  rw [dataFlag, startField, offset]
  by_cases some : data = 0
  · rw [without some, some]; rfl
  · rw [if_pos (bne_iff_ne.mpr some)]
    exact startOffset_eq listed (newest some) (oldest some) (far some) (near some)

/-- The watcher an operator has of its record (R83). -/
def State.watcherMade (s : State) (w : Fin 4) (data notices : Bool) (next : Offset) : Watcher :=
  ⟨s.agent.op, if (s.operators[s.agent.op]).wildcard = true then s.agent.src else (s.operators[s.agent.op]).addr, data, notices, next,
    if next = s.hist.newest then none else some s.clock.now, 0, data && (s.hist.watchers[w]).any Watcher.due⟩

theorem staysDue_eq (s : State) (w : Fin 4) (data : Bool) : s.staysDue w data = (data && (s.hist.watchers[w]).any Watcher.due) := by
  rw [State.staysDue]
  cases s.hist.watchers[w] <;> rfl

theorem setWatcher_eq (s : State) (w : Fin 4) (data : Bool) (notices : Byte) (next : Offset) :
    s.setWatcher w data (notices != 0) next = State.settleOffer (s.onHist fun h => { h with
      watchers := h.watchers.set w (some (s.watcherMade w data (notices != 0) next))
      notices := if notices = 0 then
          (h.notices.map fun n => { n with owed := n.owed.filter (· != w) }).filter fun n => !n.owed.isEmpty
        else h.notices }) := by
  rw [State.setWatcher, staysDue_eq]
  by_cases zero : notices = 0
  · subst zero; rfl
  · simp only [if_neg zero, if_pos (bne_iff_ne.mpr zero)]
    rfl

theorem watchAt_eq {next : Offset} (body : r.body = [data, notices, start] ++ timeBytes x)
    (from' : (if flagAt 0 r.body = true then s.hist.startOffset (fieldAt 2 1 r.body) (BitVec.ofNat 48 (fieldAt 3 6 r.body))
      else s.hist.newest) = next) (created : Bool) : s.watchAt created w r =
      ⟨.ok, [BitVec.ofNat 8 w.val, if created = true then 0 else 1] ++ flagByte (data != 0) ++ flagByte (notices != 0) ++ timeBytes next ++
        timeBytes s.hist.newest ++ timeBytes s.hist.oldest, s.setWatcher w (data != 0) (notices != 0) next⟩ := by
  obtain ⟨dataFlag, noticesFlag, -, -⟩ := watchBody_fields body
  rw [State.watchAt]
  simp only [from', noticesFlag]
  simp only [dataFlag]
  cases created <;> rfl

theorem consoleUnwatch_of_none (none : ∀ (w : Fin 4) y, s.hist.watchers[w] = some y → y.op ≠ s.agent.op) :
    s.consoleUnwatch r = ⟨.state, [], s⟩ := by
  rw [State.consoleUnwatch, show s.hist.watcherOf s.caller = Option.none from watcherOf_eq_none_iff.mpr none]

theorem consoleUnwatch_of_first (mine : ∃ y, s.hist.watchers[w] = some y ∧ y.op = s.agent.op)
    (first : ∀ v < w, ∀ y, s.hist.watchers[v] = some y → y.op ≠ s.agent.op) : s.consoleUnwatch r = ⟨.ok, [], s.removeWatcher w⟩ := by
  rw [State.consoleUnwatch, show s.hist.watcherOf s.caller = some w from watcherOf_eq_some_iff.mpr ⟨mine, first⟩]

end

/-- Settles O45: each record by what it finds in the history. -/
theorem markArmAndWatchRecords : Obligations.MarkArmAndWatchRecords := by
  refine ⟨fun s => ⟨settleOffer_of_none, settleOffer_of_some⟩, fun r s passes => ?_⟩
  intro h mine
  have notMine {w : Fin 4} (other : ¬ mine w) (y : Watcher) (here : h.watchers[w] = some y) : y.op ≠ s.agent.op :=
    fun own => other ⟨y, here, own⟩
  refine ⟨fun ready note body => ?_, fun ready b body => ⟨fun missing => ?_, fun i index valid => ?_⟩,
    fun ready data notices start x body => ⟨fun out => ?_, fun some listed => ?_⟩, fun ready => ⟨fun others => ?_, fun w own first => ?_⟩⟩
  · exact answers_of_handler (h := State.consoleMark) rfl nofun ready passes (consoleMark_eq (s := s.popRecord) body)
  · exact answers_of_handler (h := State.consoleArm) rfl nofun ready passes (consoleArm_of_missing (s := s.popRecord) body missing)
  · exact answers_of_handler (h := State.consoleArm) rfl nofun ready passes (consoleArm_of_valid (s := s.popRecord) body index valid)
  · exact answers_of_handler (h := State.consoleWatch) rfl nofun ready passes (consoleWatch_of_range (s := s.popRecord) body out)
  · intro unsent
    refine ⟨fun others full => ?_, fun w how next place without newest oldest far near => ?_⟩
    · exact answers_of_handler (h := State.consoleWatch) rfl nofun ready passes (consoleWatch_of_full (s := s.popRecord) body some listed
        (watcherOf_eq_none_iff.mpr fun w => notMine (others w)) full)
    · intro o made entered
      have from' := watchNext_eq (s := s.popRecord) body listed without newest oldest far near
      have enters : s.popRecord.setWatcher w (data != 0) (notices != 0) next = entered.settleOffer := setWatcher_eq ..
      have answer (created : Bool) (byte : (if created = true then 0 else 1) = how) (judged : s.popRecord.consoleWatch r =
          s.popRecord.watchAt created w r) := answers_of_handler (c := .consoleWatch) (s := s) (h := State.consoleWatch) rfl nofun ready passes
            (judged.trans (watchAt_eq (w := w) body from' created))
      rw [← enters]
      obtain ⟨rfl, own, first⟩ | ⟨rfl, others, free, first⟩ := place
      · exact answer false rfl (consoleWatch_of_mine (s := s.popRecord) body some listed
          (watcherOf_eq_some_iff.mpr ⟨own, fun v before => notMine (first v before)⟩))
      · exact answer true rfl (consoleWatch_of_free (s := s.popRecord) body some listed
          (watcherOf_eq_none_iff.mpr fun v => notMine (others v)) free first)
  · exact answers_of_handler (h := State.consoleUnwatch) rfl nofun ready passes
      (consoleUnwatch_of_none (s := s.popRecord) fun w => notMine (others w))
  · exact answers_of_handler (h := State.consoleUnwatch) rfl nofun ready passes
      (consoleUnwatch_of_first (s := s.popRecord) own fun v before => notMine (first v before))

end Sys2Proof.Machine
end

section
/-! Marks, notices and pushes of the console history (R79, R81, R86 to R90, R179). -/

namespace Sys2Proof.Machine

/-! ### Marks (R81) -/

theorem addMark_of_room {s : State} (room : s.hist.marks.length < 32) (kind : MarkKind) (code : Half) : s.addMark kind code =
    s.onHist fun h => { h with
      marks := h.marks ++ [⟨kind, s.hist.nextMark, s.hist.newest, s.clock.now, s.clock.epoch, code⟩], nextMark := h.nextMark + 1 } := by
  have notFull : ¬ Config.markLimit ≤ s.hist.marks.length := Nat.not_le.mpr room
  simp only [State.addMark, State.onHist, if_neg notFull]

theorem addMark_of_full {s : State} (full : 32 ≤ s.hist.marks.length) (kind : MarkKind) (code : Half) : s.addMark kind code =
    s.onHist fun h => { h with
      marks := h.marks.drop 1 ++ [⟨kind, s.hist.nextMark, s.hist.newest, s.clock.now, s.clock.epoch, code⟩]
      nextMark := h.nextMark + 1, cnt := { h.cnt with markDropped := h.cnt.markDropped + 1 } } := by
  have atLimit : Config.markLimit ≤ s.hist.marks.length := full
  simp only [State.addMark, State.onHist, if_pos atLimit]

/-! ### Dueness (R86) -/

section
variable {h : History} {s : State} {now : Time} {x : Watcher} {w : Fin 4}

theorem delayPassed_iff : delayPassed h now x = true ↔ ∃ t, x.pendingSince = some t ∧ h.delay * 1000 ≤ (now - t).toNat := by
  rw [delayPassed]
  cases x.pendingSince with
  | none => exact ⟨nofun, nofun⟩
  | some t => 
    rw [decide_eq_true_eq]
    exact ⟨fun passed => ⟨t, rfl, passed⟩, fun ⟨_, same, passed⟩ => Option.some.inj same ▸ passed⟩

theorem watcherDue_iff : watcherDue h now x = true ↔ x.wantsData = true ∧
    (h.threshold ≤ (h.newest - x.next).toNat ∨ ∃ t, x.pendingSince = some t ∧ h.delay * 1000 ≤ (now - t).toNat) := by
  rw [watcherDue, Bool.and_eq_true, Bool.or_eq_true, decide_eq_true_eq, delayPassed_iff]
  rfl

theorem pushDelayExpiry_of_none (none : s.hist.watchers[w] = none) : s.pushDelayExpiry w = s := by
  rw [State.pushDelayExpiry, none]

theorem pushDelayExpiry_of_offOccasion (here : s.hist.watchers[w] = some x)
    (off : x.wantsData = false ∨ x.due = true ∨ ¬ delayPassed s.hist s.clock.now x = true) : s.pushDelayExpiry w = s := by
  rw [State.pushDelayExpiry, here]
  refine if_neg ?_
  rw [Bool.and_eq_true, Bool.and_eq_true, Bool.not_eq_true']
  rintro ⟨⟨wants, notDue⟩, passed⟩
  obtain h | h | h := off
  · exact Bool.false_ne_true (h.symm.trans wants)
  · exact Bool.false_ne_true (notDue.symm.trans h)
  · exact h passed

theorem pushDelayExpiry_of_passed (here : s.hist.watchers[w] = some x) (wants : x.wantsData = true) (notDue : x.due = false)
    (passed : delayPassed s.hist s.clock.now x = true) : s.pushDelayExpiry w = State.pump (s.onHist fun h => { h with
      watchers := h.watchers.set w (some { x with due := true }) }) := by
  have occasion : (x.wantsData && !x.due && delayPassed s.hist s.clock.now x) = true := by rw [wants, notDue, passed]; rfl
  have due : watcherDue s.hist s.clock.now x = true := by rw [watcherDue, wants, passed, Bool.or_true]; rfl
  rw [State.pushDelayExpiry, here]
  refine (if_pos occasion).trans (congrArg State.pump (congrArg (fun h => s.onHist fun _ => h) ?_))
  rw [History.judgeDue, History.onWatcher, here, Option.map_some, due, Bool.or_true]

end

/-! ### Notices (R89) -/

section
variable {h : History} {n : Notice} {now : Time} {epoch : Option Nat} {owed : List (Fin 4)}

theorem noticeWatchers_eq (h : History) : h.noticeWatchers = (List.finRange 4).filter fun w => (h.watchers[w]).any Watcher.wantsNotices :=
  List.filter_congr fun w _ => by cases h.watchers[w] <;> rfl

theorem raise_of_nobody (nobody : h.noticeWatchers = []) : h.raise n now epoch = h := by
  rw [History.raise, nobody]
  exact if_pos rfl

/-- The watchers owed an entry that is discarded lose it. -/
def History.loseOne (owed : List (Fin 4)) (h : History) : History :=
  owed.foldl (fun (g : History) w => g.onWatcher w fun x => { x with lost := x.lost + 1 }) h

theorem loseOne_others (owed : List (Fin 4)) (h : History) :
    h.loseOne owed = { h with watchers := (h.loseOne owed).watchers } := by
  induction owed generalizing h with
  | nil => rfl
  | cons w ws ih => exact (ih _).trans rfl

theorem loseOne_watchers {owed : List (Fin 4)} (once : owed.Nodup) (h : History) (v : Fin 4) :
    (h.loseOne owed).watchers[v] = (h.watchers[v]).map fun x => { x with lost := if v ∈ owed then x.lost + 1 else x.lost } := by
  induction owed generalizing h with
  | nil => 
    show h.watchers[v] = _
    cases h.watchers[v] <;> simp
  | cons w ws ih =>
    obtain ⟨absent, rest⟩ := List.nodup_cons.mp once
    show ((h.onWatcher w fun x => { x with lost := x.lost + 1 }).loseOne ws).watchers[v] = _
    rw [ih rest, onWatcher_watchers]
    by_cases same : w = v
    · subst same
      rw [if_pos rfl, Option.map_map]
      congr 1
      funext x
      simp [absent]
    · rw [if_neg same]
      simp only [List.mem_cons, Ne.symm same, false_or]

/-- The history once a full queue has discarded its oldest entry. -/
def History.roomMade (h : History) : History :=
  match h.notices with
  | [] => h
  | e :: rest =>
    if Config.noticeLimit ≤ h.notices.length then
      { h.loseOne e.owed with notices := rest, cnt := { (h.loseOne e.owed).cnt with noticeLost := (h.loseOne e.owed).cnt.noticeLost + 1 } }
    else h

theorem raise_of_owed (owes : h.noticeWatchers = owed) (some : owed ≠ []) : h.raise n now epoch = { h.roomMade with
    notices := h.roomMade.notices ++ [⟨n, now, epoch, owed⟩]
    cnt := { h.roomMade.cnt with notices := h.roomMade.cnt.notices + 1 } } := by
  subst owes
  exact if_neg (mt List.isEmpty_iff.mp some)

theorem roomMade_of_room (room : h.notices.length < 16) : h.roomMade = h := by
  have notFull : ¬ Config.noticeLimit ≤ h.notices.length := Nat.not_le.mpr room
  unfold History.roomMade
  split
  · rfl
  · exact if_neg notFull

theorem roomMade_of_full {e : NoticeEntry} {rest : List NoticeEntry} (full : 16 ≤ h.notices.length) (queue : h.notices = e :: rest) :
    h.roomMade = { h.loseOne e.owed with notices := rest, cnt := { h.cnt with noticeLost := h.cnt.noticeLost + 1 } } := by
  have atLimit : Config.noticeLimit ≤ (e :: rest).length := queue ▸ full
  rw [loseOne_others]
  simp only [History.roomMade, queue, if_pos atLimit]
  rw [loseOne_others]

theorem raise_of_room (owes : h.noticeWatchers = owed) (some : owed ≠ []) (room : h.notices.length < 16) :
    h.raise n now epoch = { h with
      notices := h.notices ++ [⟨n, now, epoch, owed⟩], cnt := { h.cnt with notices := h.cnt.notices + 1 } } := by
  rw [raise_of_owed owes some, roomMade_of_room room]

theorem raise_of_full {e : NoticeEntry} {rest : List NoticeEntry} (owes : h.noticeWatchers = owed) (some : owed ≠ [])
    (full : 16 ≤ h.notices.length) (queue : h.notices = e :: rest) : h.raise n now epoch = { h.loseOne e.owed with
      notices := rest ++ [⟨n, now, epoch, owed⟩]
      cnt := { h.cnt with notices := h.cnt.notices + 1, noticeLost := h.cnt.noticeLost + 1 } } := by
  rw [raise_of_owed owes some, roomMade_of_full full queue]

end

/-! ### What is offered next (R87, R88) -/

section
variable {h : History}

/-- A data watcher that is due. -/
def DueAt (h : History) (w : Fin 4) (x : Watcher) : Prop := h.watchers[w] = some x ∧ x.wantsData = true ∧ x.due = true

theorem firstDue_cons_of_notDue {w : Fin 4} (notDue : ∀ x, ¬ DueAt h w x) (ws : List (Fin 4)) : h.firstDue (w :: ws) = h.firstDue ws := by
  rw [History.firstDue]
  cases here : h.watchers[w] with
  | none => rfl
  | some x => exact if_neg fun due => notDue x ⟨here, Bool.and_eq_true_iff.mp due⟩

theorem firstDue_cons_of_due {w : Fin 4} {x : Watcher} (due : DueAt h w x) (ws : List (Fin 4)) : h.firstDue (w :: ws) = some (w, x) := by
  obtain ⟨here, wants, isDue⟩ := due
  rw [History.firstDue, here]
  exact if_pos (by rw [wants, isDue]; rfl)

theorem firstDue_of_noneDue (noneDue : ∀ w x, ¬ DueAt h w x) (ws : List (Fin 4)) : h.firstDue ws = none := by
  induction ws with
  | nil => rfl
  | cons w ws ih => rw [firstDue_cons_of_notDue (noneDue w), ih]

theorem cycle_eq {first : Fin 4} (fresh : h.lastServed = none → first = 0) (after : ∀ v, h.lastServed = some v → first = v + 1) :
    h.cycle = [first, first + 1, first + 2, first + 3] := by
  rw [History.cycle]
  cases served : h.lastServed with
  | none => rw [fresh served]
  | some v => rw [after v served]

theorem firstDue_cycle {first i : Fin 4} {x : Watcher} (fresh : h.lastServed = none → first = 0)
    (after : ∀ v, h.lastServed = some v → first = v + 1) (due : DueAt h (first + i) x)
    (before : ∀ j, j < i → ∀ y, ¬ DueAt h (first + j) y) : h.firstDue h.cycle = some (first + i, x) := by
  have skip (j : Fin 4) (earlier : j < i) (ws : List (Fin 4)) : h.firstDue ((first + j) :: ws) = h.firstDue ws :=
    firstDue_cons_of_notDue (before j earlier) ws
  have order : h.cycle = [first + 0, first + 1, first + 2, first + 3] := by rw [cycle_eq fresh after, Fin.add_zero]
  rw [order]
  match i with
  | 0 => exact firstDue_cons_of_due due _
  | 1 => rw [skip 0 (by decide), firstDue_cons_of_due due]
  | 2 => rw [skip 0 (by decide), skip 1 (by decide), firstDue_cons_of_due due]
  | 3 => rw [skip 0 (by decide), skip 1 (by decide), skip 2 (by decide), firstDue_cons_of_due due]

theorem nextPush_of_notice {e : NoticeEntry} {rest : List NoticeEntry} {w : Fin 4} {owed : List (Fin 4)} {x : Watcher}
    (queue : h.notices = e :: rest) (owes : e.owed = w :: owed) (here : h.watchers[w] = some x) : h.nextPush = some (.notice e w x) := by
  simp only [History.nextPush, queue, owes, here, Option.map_some]

theorem nextPush_of_noneDue (queue : h.notices = []) (noneDue : ∀ w x, ¬ DueAt h w x) : h.nextPush = none := by
  simp only [History.nextPush, queue, firstDue_of_noneDue noneDue]

theorem nextPush_of_firstDue {w : Fin 4} {x : Watcher} (queue : h.notices = []) (first : h.firstDue h.cycle = some (w, x)) :
    h.nextPush = some (if h.lags x = true then .gap w x else .data w x) := by
  simp only [History.nextPush, queue, first]

theorem lags_iff {x : Watcher} : h.lags x = true ↔ h.ring.length < (h.newest - x.next).toNat := decide_eq_true_iff

end

/-! ### Rounds of offers (R87) -/

section
variable {s : State} {n : Nat} {p : Push}

theorem pumpN_of_settled (settled : s.hist.offerWaiting = true ∨ s.hist.nextPush = none) : s.pumpN n = s := by
  cases n with
  | zero => rfl
  | succ n =>
    rw [State.pumpN]
    by_cases waiting : s.hist.offerWaiting = true
    · exact if_pos waiting
    · rw [if_neg waiting, settled.resolve_left waiting]

theorem pumpN_of_unplaced (free : s.hist.offerWaiting = false) (next : s.hist.nextPush = some p) (unplaced : s.placePush p = none) :
    s.pumpN (n + 1) = s.waitOffer := by
  rw [State.pumpN, free, next]
  simp only [Bool.false_eq_true, if_false, unplaced]

theorem pumpN_of_placed {t : State} (free : s.hist.offerWaiting = false) (next : s.hist.nextPush = some p)
    (placed : s.placePush p = some t) : s.pumpN (n + 1) = t.pumpN n := by
  rw [State.pumpN, free, next]
  simp only [Bool.false_eq_true, if_false, placed]

theorem placePush_of_none (full : s.placeOut .agent (s.pushFrame p) = none) : s.placePush p = none := by
  rw [State.placePush, full]; rfl

theorem placePush_of_some {t : State} (room : s.placeOut .agent (s.pushFrame p) = some t) : s.placePush p =
    some ((t.onAgent fun a => { a with
      lastPlaced := .push, cnt := { a.cnt with pushFrames := a.cnt.pushFrames + 1 } }).onHist fun h => h.commitPush t.clock.now p) := by
  rw [State.placePush, room]; rfl

/-- What a placed push makes of the history. -/
theorem hist_of_placePush {t : State} (placed : s.placePush p = some t) : t.hist = s.hist.commitPush s.clock.now p := by
  rw [State.placePush, Option.map_eq_some_iff] at placed
  obtain ⟨u, room, rfl⟩ := placed
  have same := SameButTraffic.placeOut room
  show u.hist.commitPush u.clock.now p = _
  rw [same.hist, same.clock]

end

/-! ### What a placed push leaves (R88, R90) -/

section
variable {h : History} {now : Time} {w : Fin 4} {x : Watcher}

theorem commitPush_notice {e e' : NoticeEntry} {rest : List NoticeEntry} (queue : h.notices = e :: rest) :
    h.commitPush now (.notice e' w x) = { h with
      notices := if e.owed.filter (· != w) = [] then rest else { e with owed := e.owed.filter (· != w) } :: rest
      watchers := h.watchers.set w ((h.watchers[w]).map fun y => { y with lost := 0 }) } := by
  simp only [History.commitPush, queue, List.isEmpty_iff]
  rfl

theorem commitPush_gap (here : h.watchers[w] = some x) : h.commitPush now (.gap w x) = { h with
    watchers := h.watchers.set w (some { x with next := h.oldest, lost := 0 }), lastServed := some w
    cnt := { h.cnt with gaps := h.cnt.gaps + 1, gapBytes := h.cnt.gapBytes + BitVec.ofNat 32 (h.oldest - x.next).toNat } } := by
  simp only [History.commitPush, History.onWatcher, here, Option.map_some]
  rfl

/-- The bytes one data push takes (R88). -/
def History.pushBytes (h : History) (x : Watcher) : Nat := min (h.newest - x.next).toNat 1024

/-- A watcher after a data push. -/
def History.pushed (h : History) (now : Time) (x : Watcher) : Watcher :=
  { x with
    next := x.next + BitVec.ofNat 48 (h.pushBytes x)
    pendingSince := if x.next + BitVec.ofNat 48 (h.pushBytes x) = h.newest then none else some now
    due := x.wantsData && (decide (h.threshold ≤ (h.newest - (x.next + BitVec.ofNat 48 (h.pushBytes x))).toNat) ||
      (decide (x.next + BitVec.ofNat 48 (h.pushBytes x) ≠ h.newest) && decide (h.delay = 0))) }

theorem delayPassed_now {next : Offset} (since : x.pendingSince = if next = h.newest then none else some now) :
    delayPassed h now x = (decide (next ≠ h.newest) && decide (h.delay = 0)) := by
  rw [delayPassed, since]
  by_cases all : next = h.newest
  · simp [all]
  · simp [all, elapsed, Nat.mul_eq_zero]

theorem onWatcher_twice (h : History) (w : Fin 4) (f g : Watcher → Watcher) :
    (h.onWatcher w f).onWatcher w g = h.onWatcher w (g ∘ f) := by
  have here : (h.onWatcher w f).watchers[w] = (h.watchers[w]).map f := (onWatcher_watchers h w f w).trans (if_pos rfl)
  rw [History.onWatcher, here, Option.map_map]
  exact congrArg (fun ws => { h with watchers := ws }) (Vector.set_set ..)

theorem onWatcher_of_some (here : h.watchers[w] = some x) (f : Watcher → Watcher) :
    h.onWatcher w f = { h with watchers := h.watchers.set w (some (f x)) } := by
  rw [History.onWatcher, here, Option.map_some]

theorem commitPush_data (here : h.watchers[w] = some x) : h.commitPush now (.data w x) = { h with
    watchers := h.watchers.set w (some (h.pushed now x)), lastServed := some w
    cnt := { h.cnt with
      dataPushes := h.cnt.dataPushes + 1, dataBytes := h.cnt.dataBytes + BitVec.ofNat 32 (h.pushBytes x) } } := by
  have judged : h.commitPush now (.data w x) = { (h.onWatcher w fun y => { y with
        next := x.next + BitVec.ofNat 48 (h.pushBytes x)
        pendingSince := if x.next + BitVec.ofNat 48 (h.pushBytes x) = h.newest then none else some now
        due := false }).onWatcher w fun y => { y with due := y.due || watcherDue h now y } with
      lastServed := some w
      cnt := { h.cnt with
        dataPushes := h.cnt.dataPushes + 1, dataBytes := h.cnt.dataBytes + BitVec.ofNat 32 (h.pushBytes x) } } := rfl
  have pushed : h.pushed now x = { x with
        next := x.next + BitVec.ofNat 48 (h.pushBytes x)
        pendingSince := if x.next + BitVec.ofNat 48 (h.pushBytes x) = h.newest then none else some now
        due := false || watcherDue h now { x with
          next := x.next + BitVec.ofNat 48 (h.pushBytes x)
          pendingSince := if x.next + BitVec.ofNat 48 (h.pushBytes x) = h.newest then none else some now
          due := false } } := by
    rw [History.pushed, Bool.false_or, watcherDue, delayPassed_now (next := x.next + BitVec.ofNat 48 (h.pushBytes x)) rfl]
    rfl
  rw [judged, onWatcher_twice, onWatcher_of_some here, pushed]
  rfl

end

/-! ### What a round of offers takes (R87): each push lowers a measure -/

/-- Pushes a watcher can still take: a gap where it lags, and a push for each 1,024 bytes. -/
def History.watcherCost (h : History) (x : Watcher) : Nat :=
  if x.wantsData = true ∧ x.due = true then
    if h.lags x = true then 65 else max 1 (((h.newest - x.next).toNat + 1023) / 1024)
  else 0

def History.costAt (h : History) (w : Fin 4) : Nat := ((h.watchers[w]).map h.watcherCost).getD 0

/-- Notices still owed. -/
def History.owedCount (h : History) : Nat := (h.notices.map fun e => e.owed.length).sum

/-- All that is left to push. -/
def History.pushesLeft (h : History) : Nat := h.owedCount + (h.costAt 0 + h.costAt 1 + h.costAt 2 + h.costAt 3)

/-- The settings and bounds under which a round ends (R79, R85). -/
structure Pushable (h : History) : Prop where
  ring : h.ring.length ≤ 65536
  threshold : 1 ≤ h.threshold

section
variable {h : History} {w : Fin 4} {x : Watcher} {now : Time}

theorem watcherCost_le (bounds : Pushable h) (x : Watcher) : h.watcherCost x ≤ 65 := by
  unfold History.watcherCost
  split
  · split
    · exact Nat.le_refl _
    · rename_i lag
      have ring := bounds.ring
      rw [lags_iff] at lag
      omega
  · exact Nat.zero_le _

theorem watcherCost_pos (wants : x.wantsData = true) (due : x.due = true) : 0 < h.watcherCost x := by
  rw [History.watcherCost, if_pos ⟨wants, due⟩]
  split <;> omega

theorem offset_after {h : History} {x : Watcher} : (h.newest - (x.next + BitVec.ofNat 48 (h.pushBytes x))).toNat =
    (h.newest - x.next).toNat - h.pushBytes x := by
  have bound : h.pushBytes x ≤ (h.newest - x.next).toNat := Nat.min_le_left ..
  have word := (h.newest - x.next).isLt
  have small : (BitVec.ofNat 48 (h.pushBytes x)).toNat = h.pushBytes x := Nat.mod_eq_of_lt (by omega)
  have shift : h.newest - (x.next + BitVec.ofNat 48 (h.pushBytes x)) = (h.newest - x.next) - BitVec.ofNat 48 (h.pushBytes x) :=
    (BitVec.sub_sub ..).symm
  rw [shift, BitVec.toNat_sub_of_le (BitVec.le_def.mpr (Nat.le_trans (Nat.le_of_eq small) bound)), small]

theorem pushed_due_behind (bounds : Pushable h) (due : (h.pushed now x).due = true) :
    0 < (h.newest - (x.next + BitVec.ofNat 48 (h.pushBytes x))).toNat := by
  have positive := bounds.threshold
  simp only [History.pushed, Bool.and_eq_true, Bool.or_eq_true, decide_eq_true_eq] at due
  obtain ⟨-, reached | ⟨behind, -⟩⟩ := due
  · omega
  · exact Nat.pos_of_ne_zero fun zero => behind (eq_of_sub_eq_zero zero).symm

theorem watcherCost_pushed (bounds : Pushable h) (wants : x.wantsData = true) (due : x.due = true) (near : ¬ h.lags x = true) :
    h.watcherCost (h.pushed now x) < h.watcherCost x := by
  have cost : h.watcherCost x = max 1 (((h.newest - x.next).toNat + 1023) / 1024) := by
    rw [History.watcherCost, if_pos ⟨wants, due⟩, if_neg near]
  rw [lags_iff, Nat.not_lt] at near
  have after := offset_after (h := h) (x := x)
  have taken : h.pushBytes x = min (h.newest - x.next).toNat 1024 := rfl
  by_cases still : (h.pushed now x).due = true
  · have behind := pushed_due_behind bounds still
    have notLag : ¬ h.lags (h.pushed now x) = true := by
      rw [lags_iff, Nat.not_lt]
      show (h.newest - (x.next + BitVec.ofNat 48 (h.pushBytes x))).toNat ≤ _
      omega
    rw [cost, History.watcherCost, if_pos ⟨wants, still⟩, if_neg notLag]
    show max 1 (((h.newest - (x.next + BitVec.ofNat 48 (h.pushBytes x))).toNat + 1023) / 1024) < _
    omega
  · rw [History.watcherCost, if_neg fun both => still both.2]
    exact watcherCost_pos wants due

theorem watcherCost_gap (bounds : Pushable h) (wants : x.wantsData = true) (due : x.due = true) (lag : h.lags x = true) :
    h.watcherCost { x with next := h.oldest, lost := 0 } < h.watcherCost x := by
  have ring := bounds.ring
  have behind : (h.newest - h.oldest).toNat = h.ring.length := behind_oldest (by omega)
  have notLag : ¬ h.lags { x with next := h.oldest, lost := 0 } = true := by
    rw [lags_iff, behind]
    exact Nat.lt_irrefl _
  have before : h.watcherCost x = 65 := by rw [History.watcherCost, if_pos ⟨wants, due⟩, if_pos lag]
  have after : h.watcherCost { x with next := h.oldest, lost := 0 } = max 1 ((h.ring.length + 1023) / 1024) := by
    rw [History.watcherCost, if_pos (show x.wantsData = true ∧ x.due = true from ⟨wants, due⟩), if_neg notLag, behind]
  omega

end

section
variable {h g : History} {now : Time} {p : Push}

theorem watcherCost_congr (ring : g.ring = h.ring) (newest : g.newest = h.newest) : g.watcherCost = h.watcherCost := by
  funext x
  have lag : g.lags x = h.lags x := by
    rw [Bool.eq_iff_iff, lags_iff, lags_iff, ring, newest]
  rw [History.watcherCost, History.watcherCost, lag, newest]

/-- A change of one watcher that lowers its cost lowers the sum. -/
theorem costs_lt_of_set {w : Fin 4} {x y : Watcher} (here : h.watchers[w] = some x) (changed : g.watchers = h.watchers.set w (some y))
    (same : g.watcherCost = h.watcherCost) (less : h.watcherCost y < h.watcherCost x) :
    g.costAt 0 + g.costAt 1 + g.costAt 2 + g.costAt 3 < h.costAt 0 + h.costAt 1 + h.costAt 2 + h.costAt 3 := by
  have each (v : Fin 4) : g.costAt v = if w = v then h.watcherCost y else h.costAt v := by
    rw [History.costAt, changed, same, getElem_set_if]
    split <;> rfl
  have lower : h.watcherCost y < h.costAt w := by rwa [History.costAt, here]
  rw [each, each, each, each]
  match w with
  | 0 | 1 | 2 | 3 => simp; omega

theorem costs_of_lost {w : Fin 4} (changed : g.watchers = h.watchers.set w ((h.watchers[w]).map fun y => { y with lost := 0 }))
    (same : g.watcherCost = h.watcherCost) (v : Fin 4) : g.costAt v = h.costAt v := by
  rw [History.costAt, changed, same, getElem_set_if]
  split
  · subst ‹w = v›
    rw [Option.map_map]
    rfl
  · rfl

theorem dueAt_of_firstDue {ws : List (Fin 4)} {w : Fin 4} {x : Watcher} (first : h.firstDue ws = some (w, x)) : DueAt h w x := by
  induction ws with
  | nil => cases first
  | cons v ws ih =>
    by_cases due : ∃ y, DueAt h v y
    · obtain ⟨y, due⟩ := due
      rw [firstDue_cons_of_due due] at first
      cases first
      exact due
    · rw [firstDue_cons_of_notDue (not_exists.mp due)] at first
      exact ih first

theorem nextPush_cases (next : h.nextPush = some p) :
    (∃ e rest w owed x, h.notices = e :: rest ∧ e.owed = w :: owed ∧ h.watchers[w] = some x ∧ p = .notice e w x) ∨
    (h.notices = [] ∧ ∃ w x, DueAt h w x ∧ p = if h.lags x = true then .gap w x else .data w x) := by
  cases queue : h.notices with
  | cons e rest =>
    cases owes : e.owed with
    | nil => simp [History.nextPush, queue, owes] at next
    | cons w owed =>
      simp only [History.nextPush, queue, owes, Option.map_eq_some_iff] at next
      obtain ⟨x, here, rfl⟩ := next
      exact .inl ⟨e, rest, w, owed, x, rfl, owes, here, rfl⟩
  | nil =>
    cases first : h.firstDue h.cycle with
    | none => simp [History.nextPush, queue, first] at next
    | some due =>
      obtain ⟨w, x⟩ := due
      rw [nextPush_of_firstDue queue first] at next
      exact .inr ⟨rfl, w, x, dueAt_of_firstDue first, (Option.some.inj next).symm⟩

theorem owedCount_lt {e : NoticeEntry} {rest : List NoticeEntry} {w : Fin 4} {owed : List (Fin 4)} (queue : h.notices = e :: rest)
    (owes : e.owed = w :: owed)
    (changed : g.notices = if e.owed.filter (· != w) = [] then rest else { e with owed := e.owed.filter (· != w) } :: rest) :
    g.owedCount < h.owedCount := by
  have fewer : (e.owed.filter (· != w)).length < e.owed.length :=
    List.length_filter_lt_length_iff_exists.mpr ⟨w, by rw [owes]; exact List.mem_cons_self, by simp⟩
  rw [History.owedCount, History.owedCount, changed, queue]
  split
  · rw [List.map_cons, List.sum_cons]; omega
  · rw [List.map_cons, List.sum_cons, List.map_cons, List.sum_cons]
    exact Nat.add_lt_add_right fewer _

/-- A placed push lowers what is left to push. -/
theorem pushesLeft_lt (bounds : Pushable h) (next : h.nextPush = some p) : (h.commitPush now p).pushesLeft < h.pushesLeft := by
  obtain ⟨ring, newest, -⟩ := History.commitPush_same h now p
  have same : (h.commitPush now p).watcherCost = h.watcherCost := watcherCost_congr ring newest
  obtain ⟨e, rest, w, owed, x, queue, owes, here, rfl⟩ | ⟨queue, w, x, ⟨here, wants, due⟩, kind⟩ := nextPush_cases next
  · have committed := commitPush_notice (now := now) (w := w) (x := x) (e' := e) queue
    have fewer := owedCount_lt (g := h.commitPush now (.notice e w x)) queue owes (by rw [committed])
    have costs (v : Fin 4) := costs_of_lost (g := h.commitPush now (.notice e w x)) (w := w) (by rw [committed]) same v
    rw [History.pushesLeft, History.pushesLeft, costs, costs, costs, costs]
    omega
  · by_cases lag : h.lags x = true
    · rw [if_pos lag] at kind
      subst kind
      have committed := commitPush_gap (now := now) here
      have costs := costs_lt_of_set here (by rw [committed]) same (watcherCost_gap bounds wants due lag)
      have owed : (h.commitPush now (.gap w x)).owedCount = h.owedCount := by rw [committed]; rfl
      rw [History.pushesLeft, History.pushesLeft, owed]
      omega
    · rw [if_neg lag] at kind
      subst kind
      have committed := commitPush_data (now := now) here
      have costs := costs_lt_of_set here (by rw [committed]) same (watcherCost_pushed (now := now) bounds wants due lag)
      have owed : (h.commitPush now (.data w x)).owedCount = h.owedCount := by rw [committed]; rfl
      rw [History.pushesLeft, History.pushesLeft, owed]
      omega

/-- A round with as much fuel as there is left to push ends with an offer that waits or with nothing to push. -/
theorem pumpN_settles (n : Nat) (s : State) (bounds : Pushable s.hist) (enough : s.hist.pushesLeft ≤ n) :
    (s.pumpN n).hist.offerWaiting = true ∨ (s.pumpN n).hist.nextPush = none := by
  induction n generalizing s with
  | zero =>
    cases next : s.hist.nextPush with
    | none => exact .inr next
    | some p => have := pushesLeft_lt (now := 0) bounds next; omega
  | succ n ih =>
    by_cases settled : s.hist.offerWaiting = true ∨ s.hist.nextPush = none
    · rw [pumpN_of_settled settled]; exact settled
    · obtain ⟨free, some⟩ := not_or.mp settled
      obtain ⟨p, next⟩ := Option.ne_none_iff_exists'.mp some
      cases placed : s.placePush p with
      | none => rw [pumpN_of_unplaced (Bool.not_eq_true _ ▸ free) next placed]; exact .inl rfl
      | some t =>
        have hist := hist_of_placePush placed
        obtain ⟨ring, -, -, -, -, threshold, -⟩ := History.commitPush_same s.hist s.clock.now p
        have left := pushesLeft_lt (now := s.clock.now) bounds next
        rw [pumpN_of_placed (Bool.not_eq_true _ ▸ free) next placed]
        refine ih t ⟨?_, ?_⟩ (by rw [hist]; omega)
        · rw [hist, ring]; exact bounds.ring
        · rw [hist, threshold]; exact bounds.threshold

theorem sum_le_of_forall {n : Nat} {xs : List Nat} (each : ∀ x ∈ xs, x ≤ n) : xs.sum ≤ xs.length * n := by
  induction xs with
  | nil => exact Nat.zero_le _
  | cons x xs ih =>
    have rest := ih fun y member => each y (List.mem_cons_of_mem x member)
    have here := each x List.mem_cons_self
    rw [List.sum_cons, List.length_cons, Nat.succ_mul]
    omega

theorem pushesLeft_le (bounds : Pushable h) (queue : h.notices.length ≤ 16) (owes : ∀ e ∈ h.notices, e.owed.length ≤ 4) :
    h.pushesLeft ≤ 400 := by
  have cost (v : Fin 4) : h.costAt v ≤ 65 := by
    rw [History.costAt]
    cases h.watchers[v] with
    | none => exact Nat.zero_le _
    | some x => exact watcherCost_le bounds x
  have owed : h.owedCount ≤ (h.notices.map fun e => e.owed.length).length * 4 :=
    sum_le_of_forall (by simpa using owes)
  rw [List.length_map] at owed
  have c0 := cost 0
  have c1 := cost 1
  have c2 := cost 2
  have c3 := cost 3
  unfold History.pushesLeft
  omega

end

end Sys2Proof.Machine
end

section
/-! The frames of pushes and the bodies of notices (R51, R53, R88, R90, R179). -/

namespace Sys2Proof.Machine

theorem pushFrame_of_record (s : State) (dst : Mac) (type : Half) (body : List Byte) :
    s.controlFrame dst flagPush 1 (recordBytes type 0 0 0 body) .push =
      ⟨⟨dst, s.ports.partMac, none, 0x88B5,
        [1, 1, 1] ++ natBytes 2 type.toNat ++ natBytes 2 (8 + body.length) ++ [0, 0, 0, 0] ++ body ++
          List.replicate (64 - (18 + ([1, 1, 1] ++ natBytes 2 type.toNat ++ natBytes 2 (8 + body.length) ++ [0, 0, 0, 0] ++ body).length)) 0⟩,
        s.dom.mgmt, .push⟩ := by
  have payload : natBytes 1 1 ++ natBytes 1 flagPush ++ natBytes 1 1 ++ recordBytes type 0 0 0 body =
      [1, 1, 1] ++ natBytes 2 type.toNat ++ natBytes 2 (8 + body.length) ++ [0, 0, 0, 0] ++ body := by
    simp only [recordBytes, List.append_assoc]
    rfl
  rw [State.controlFrame, payload, builtFrame_eq]
  rfl

theorem lastErrorBytes_eq (e : Option LastError) : lastErrorBytes e = match e with
    | none => List.replicate 13 0
    | some x => [1] ++ natBytes 1 x.code.code ++ optBytes 4 x.sector ++ natBytes 6 x.time.toNat := by
  cases e <;> rfl

theorem source_bytes (src : Source) : src.bytes = match src with
    | .operator i => [0, BitVec.ofNat 8 i.val]
    | .pattern i => [1, BitVec.ofNat 8 i.val]
    | .trigger i => [2, BitVec.ofNat 8 i.val] := by
  cases src <;> rfl

theorem noticeFrame_eq (s : State) (dst : Mac) (n : Notice) (time : Time) (epoch : Option Nat) (lost : Counter) :
    s.controlFrame dst flagPush 1 (noticeRecord n time epoch lost) .push =
      let body := natBytes 1 n.kindCode ++ natBytes 6 time.toNat ++
        (match epoch with | none => [0, 0, 0, 0, 0, 0] | some v => 1 :: natBytes 5 v) ++ natBytes 4 lost.toNat ++ n.bodyBytes
      ⟨⟨dst, s.ports.partMac, none, 0x88B5,
        [1, 1, 1] ++ natBytes 2 (0x0081 : Half).toNat ++ natBytes 2 (8 + body.length) ++ [0, 0, 0, 0] ++ body ++
          List.replicate (64 - (18 + ([1, 1, 1] ++ natBytes 2 (0x0081 : Half).toNat ++ natBytes 2 (8 + body.length) ++
            [0, 0, 0, 0] ++ body).length)) 0⟩,
        s.dom.mgmt, .push⟩ := by
  rw [noticeRecord, pushFrame_of_record, epochBytes_eq]
  rfl

/-- Settles O46: each function of the history by its cases; a round of offers ends because every push lowers what is left to push. -/
theorem marksNoticesAndPushes : Obligations.MarksNoticesAndPushes := by
  refine ⟨fun h => rfl, fun s kind code => ⟨fun room => addMark_of_room room kind code, fun full => addMark_of_full full kind code⟩,
    fun h now x => watcherDue_iff, fun s n => rfl, fun h n now epoch owed owes => ?_, fun s w => ⟨fun none => ?_, fun x here => ?_⟩,
    fun h => ?_, fun s n => ⟨pumpN_of_settled, fun p free next => ⟨pumpN_of_unplaced free next, fun t => pumpN_of_placed free next⟩⟩,
    fun s => ⟨rfl, fun ring threshold queue owes => ?_⟩, fun s p => ⟨placePush_of_none, fun t => placePush_of_some⟩,
    fun s w x e => ?_, fun f n script src prio step o code g st err i off off' hits flag former new cause lost div baud m std => ?_,
    ⟨rfl, rfl, rfl, rfl⟩, fun h now e e' rest w x queue => ?_, fun h now w x here => ?_⟩
  · have owes : h.noticeWatchers = owed := (noticeWatchers_eq h).trans owes.symm
    refine ⟨fun nobody => raise_of_nobody (owes.trans nobody), fun some room => raise_of_room owes some room,
      fun some full e rest queue once => ?_⟩
    have raised := raise_of_full (n := n) (now := now) (epoch := epoch) owes some full queue
    refine ⟨by rw [raised], by rw [raised], fun w => ?_⟩
    rw [raised]
    exact loseOne_watchers once h w
  · exact congrArg Host.Outcome.next (pushDelayExpiry_of_none none)
  · intro passed
    exact ⟨fun off => congrArg Host.Outcome.next (pushDelayExpiry_of_offOccasion here
        (off.imp_right (Or.imp_right (mt delayPassed_iff.mp)))),
      fun wants notDue late => congrArg Host.Outcome.next (pushDelayExpiry_of_passed here wants notDue (delayPassed_iff.mpr late))⟩
  · intro due
    refine ⟨fun e rest w owed x queue owes here => nextPush_of_notice queue owes here, fun queue noneDue => nextPush_of_noneDue queue noneDue,
      fun first i x queue fresh after isDue before => ?_⟩
    have next := nextPush_of_firstDue queue (firstDue_cycle fresh after isDue before)
    exact ⟨fun lag => next.trans (congrArg some (if_pos (lags_iff.mpr lag))),
      fun near => next.trans (congrArg some (if_neg (mt lags_iff.mp (Nat.not_lt.mpr near))))⟩
  · have bounds : Pushable s.hist := ⟨ring, threshold⟩
    exact pumpN_settles 400 s bounds (pushesLeft_le bounds queue owes)
  · intro frame notice behind bytes
    refine ⟨?_, ?_, ?_⟩
    · exact (noticeFrame_eq s x.addr _ _ _ _)
    · exact (noticeFrame_eq s x.addr _ _ _ _)
    · exact pushFrame_of_record s x.addr 0x0080 _
  · intro b1 opt owner source outcome error carries
    have optionals : opt = optBytes := by
      funext k v
      cases v <;> rfl
    have sources : src.bytes = source := source_bytes src
    have outcomes : o.bytes = outcome := outcome_bytes o
    have errors : lastErrorBytes err = error := (lastErrorBytes_eq err).trans (by cases err <;> simp only [error, b1, optionals])
    refine ⟨⟨rfl, rfl⟩, ⟨rfl, congrArg (natBytes 1 script.val ++ · ++ natBytes 1 prio) sources⟩,
      ⟨rfl, congrArg (natBytes 1 script.val ++ · ++ natBytes 1 step) outcomes⟩,
      ⟨rfl, congrArg (natBytes 1 script.val ++ · ++ natBytes 1 prio) sources⟩, ⟨rfl, rfl⟩,
      ⟨rfl, congrArg (natBytes 1 g.val ++ natBytes 1 st.code ++ ·) errors⟩, ⟨rfl, ?_⟩, ⟨rfl, ?_⟩, ⟨rfl, rfl⟩, ⟨rfl, ?_⟩, ⟨rfl, rfl⟩,
      ⟨rfl, ?_⟩⟩
    · cases flag <;> rfl
    · simp only [owner, optionals]
      rfl
    · rw [optionals]
      rfl
    · cases flag <;> rfl
  · exact commitPush_notice queue
  · exact ⟨commitPush_gap here, commitPush_data here⟩

end Sys2Proof.Machine
end

section
/-! A byte stored in the console history and judged against the patterns (R79, R86, R92, R93). -/

namespace Sys2Proof.Machine

theorem foldByte_of_upper {b : Byte} (upper : 0x41 ≤ b.toNat ∧ b.toNat ≤ 0x5A) : foldByte b = b + 0x20 := if_pos upper

theorem foldByte_of_other {b : Byte} (other : b.toNat < 0x41 ∨ 0x5A < b.toNat) : foldByte b = b := if_neg (by omega)

theorem store_eq (h : History) (b : Byte) (now : Time) : h.store b now = { h with
    ring := (b :: h.ring).take 65536
    newest := h.newest + 1
    watchers := h.watchers.map fun w => w.map (Watcher.afterAppend h.newest (h.newest + 1) now) } := by
  have watchers : (Vector.ofFn fun w : Fin 4 => (h.watchers[w]).map (Watcher.afterAppend h.newest (h.newest + 1) now)) =
      h.watchers.map fun w => w.map (Watcher.afterAppend h.newest (h.newest + 1) now) :=
    Vector.ext fun i bound => by simp only [Vector.getElem_ofFn, Vector.getElem_map, Fin.getElem_fin]
  exact congrArg (fun ws => { h with ring := (b :: h.ring).take 65536, newest := h.newest + 1, watchers := ws }) watchers

/-- Two lists of one length agree under `f` when their elements agree index by index. -/
theorem map_eq_iff_getElem? {α β : Type} (f : α → β) {xs ys : List α} (length : xs.length = ys.length) :
    xs.map f = ys.map f ↔ ∀ (j : Nat) x y, xs[j]? = some x → ys[j]? = some y → f x = f y := by
  constructor
  · intro same j x y atX atY
    have both := congrArg (·[j]?) same
    simpa only [List.getElem?_map, atX, atY, Option.map_some, Option.some.injEq] using both
  · intro each
    refine List.ext_getElem (by simp only [List.length_map, length]) fun j left right => ?_
    rw [List.length_map] at left right
    simpa only [List.getElem_map] using each j _ _ (List.getElem?_eq_getElem left) (List.getElem?_eq_getElem right)

section Patterns
variable {s : State} {b : Byte} {i : Fin 8} {p : Pattern} {w : List Byte}

theorem windowMatches_iff (fits : p.len ≤ p.bytes.length) : p.windowMatches w = true ↔ w.length = p.len ∧
    ∀ (j : Nat) x y, w[j]? = some x → p.bytes[j]? = some y → if p.fold = true then foldByte x = foldByte y else x = y := by
  rw [Pattern.windowMatches, Bool.and_eq_true, beq_iff_eq]
  refine and_congr_right fun full => ?_
  have length : w.length = (p.bytes.take p.len).length := by rw [List.length_take, Nat.min_eq_left fits, full]
  have prefixes (j : Nat) (x y : Byte) (atX : w[j]? = some x) : (p.bytes.take p.len)[j]? = some y ↔ p.bytes[j]? = some y := by
    have inside : j < w.length := (List.getElem?_eq_some_iff.mp atX).1
    rw [List.getElem?_take, if_pos (full ▸ inside)]
  cases p.fold with
  | true =>
    simp only [if_true, beq_iff_eq]
    rw [map_eq_iff_getElem? foldByte length]
    exact forall₃_congr fun j x y => imp_congr_right fun atX => imp_congr_left (prefixes j x y atX)
  | false =>
    simp only [Bool.false_eq_true, if_false, beq_iff_eq]
    rw [← List.map_id w, ← List.map_id (p.bytes.take p.len), map_eq_iff_getElem? id length, List.map_id]
    exact forall₃_congr fun j x y => imp_congr_right fun atX => imp_congr_left (prefixes j x y atX)

theorem qualifierHolds_iff {q : Nat} {ps : PowerState} {α : Type} {window : Option α} : qualifierHolds q ps window.isSome = true ↔
    q = 0 ∨ (q = 1 ∧ ps = .on) ∨ (q = 2 ∧ window ≠ none) := by
  match q with
  | 0 => simp only [qualifierHolds, true_or]
  | 1 => simp only [qualifierHolds, beq_iff_eq, Nat.reduceEqDiff, false_or, true_and, false_and, or_false]
  | 2 => simp only [qualifierHolds, Option.isSome_iff_ne_none, Nat.reduceEqDiff, false_and, false_or, true_and]
  | q + 3 => simp only [qualifierHolds, Bool.false_eq_true, false_iff]; omega

theorem judgePattern_of_idle (idle : (s.hist.patterns[i]).valid = false ∨ (s.hist.patterns[i]).armed = false) : s.judgePattern b i = s := by
  refine if_neg ?_
  rw [Bool.and_eq_true]
  rintro ⟨valid, armed⟩
  rcases idle with off | off
  · exact Bool.false_ne_true (off.symm.trans valid)
  · exact Bool.false_ne_true (off.symm.trans armed)

theorem judgePattern_of_armed (here : s.hist.patterns[i] = p) (valid : p.valid = true) (armed : p.armed = true) : s.judgePattern b i =
    if p.windowMatches (p.push b) && qualifierHolds p.qualifier s.power.state s.power.window.isSome then
      s.patternHit i { p with window := p.push b }
    else s.setPattern i { p with window := p.push b } := by
  subst here
  exact if_pos (by rw [valid, armed]; rfl)

theorem patternHit_eq : s.patternHit i p =
    (let counted := (s.setPattern i { p with hits := p.hits + 1, armed := p.mode != 0 }).onHistCnt fun c => { c with
      patternHits := c.patternHits + 1 }
    let marked := if p.mark = true then counted.addMark .pattern (BitVec.ofNat 16 i.val) else counted
    let noted := if p.notify = true then marked.raiseNotice (.patternHit i s.hist.newest (p.hits + 1) p.request) else marked
    if p.request = true then noted.presentFrom p.script (.pattern i) p.prio p.preempt else noted) := by
  rw [State.patternHit]
  cases p.mark <;> rfl

end Patterns

/-- Settles O47: the fold, the store and the match are each read off their definitions. -/
theorem byteAppendedAndMatched : Obligations.ByteAppendedAndMatched := by
  refine ⟨fun b => ⟨foldByte_of_upper, foldByte_of_other⟩, fun s b => ?_, fun s b i => ?_⟩
  · intro stored matched
    have same : s.onHist (fun h => h.store b s.clock.now) = stored := congrArg (fun h => { s with hist := h }) (store_eq ..)
    rw [State.appendByte, same]
    simp only [judgeDue_four]
    rfl
  · intro p full window same hit put
    refine ⟨judgePattern_of_idle, fun valid armed fits => ?_⟩
    have judged : (p.windowMatches (p.push b) && qualifierHolds p.qualifier s.power.state s.power.window.isSome) = true ↔ hit := by
      rw [Bool.and_eq_true, windowMatches_iff fits, qualifierHolds_iff, and_assoc]
      rfl
    have step := judgePattern_of_armed (s := s) (b := b) (i := i) rfl valid armed
    refine ⟨fun miss => step.trans (if_neg (mt judged.mp miss)), fun hits => ?_⟩
    intro counted marked noted
    have hit : s.judgePattern b i = if p.request = true then noted.presentFrom p.script (.pattern i) p.prio p.preempt else noted :=
      (step.trans (if_pos (judged.mpr hits))).trans patternHit_eq
    exact ⟨fun off => hit.trans (if_neg (by rw [off]; exact Bool.false_ne_true)), fun on => hit.trans (if_pos on)⟩

end Sys2Proof.Machine
end

section
/-! What the shared operations of the media engine do to its state (R25, R26, R100, R105, R112, R115, R121). -/

namespace Sys2Proof.Machine

section Reply
variable (s : State) (p : Port) (d : Fin 16) (k : Fin 4)

theorem choose_media : (s.choose p).media = s.media := by
  unfold State.choose
  split
  · cases p <;> rfl
  · rfl

theorem offerClass_media (n : Nat) (q : QFrame) : (s.offerClass p k n q).2.media = s.media := by
  unfold State.offerClass
  split
  · rfl
  · split
    · rfl
    · split
      · rfl
      · split
        · rfl
        · exact choose_media ..

theorem offerEgress_media (f : Frame) (o : Origin) : (s.offerEgress p d k f o).2.media = s.media := by
  unfold State.offerEgress
  split
  · rfl
  · rfl
  · exact offerClass_media ..

/-- A reply to the server counts; it leaves the media engine otherwise as it was. -/
theorem blkReply_media (mac : Mac) (b : List Byte) (st : BlkStatus) :
    ∃ blk, (s.blkReply mac d b st).media = { s.media with blk := blk } := by
  unfold State.blkReply
  dsimp only
  split
  · exact ⟨_, offerEgress_media ..⟩
  · exact ⟨_, congrArg (fun m : Media => { m with blk := { m.blk with replyDrop := m.blk.replyDrop + 1 } }) (offerEgress_media ..)⟩

theorem blkReply_pool (mac : Mac) (b : List Byte) (st : BlkStatus) :
    (s.blkReply mac d b st).pool.ceiling = s.pool.ceiling := by
  unfold State.blkReply
  dsimp only
  split <;> exact (SameButTraffic.offerEgress ..).ceiling

end Reply

section Lines
variable (s : State) (p : CacheLine → Bool)

/-- Freed lines leave the cache and the dirty order; otherwise only rescans may be owed. -/
theorem freeLines_media : ∃ n, (s.freeLines p).media = { s.media with
    lines := s.media.lines.filter fun l => !p l
    dirtyOrder := s.media.dirtyOrder.filter fun d => !(s.media.lines.filter p).any (CacheLine.isFor d.1 d.2)
    rescans := n } := by
  unfold State.freeLines
  dsimp only
  split
  case isTrue nobody =>
    refine ⟨s.media.rescans, ?_⟩
    have gone : s.media.lines.filter p = [] := List.isEmpty_iff.mp nobody
    have kept : (s.media.lines.filter fun l => !p l) = s.media.lines := by
      rw [List.filter_eq_self]
      exact fun l here => Bool.not_eq_true' .. ▸ Bool.eq_false_iff.mpr (List.filter_eq_nil_iff.mp gone l here)
    have ordered : (s.media.dirtyOrder.filter fun d => !(s.media.lines.filter p).any (CacheLine.isFor d.1 d.2)) = s.media.dirtyOrder := by
      rw [List.filter_eq_self, gone]
      exact fun _ _ => rfl
    rw [kept, ordered]
  case isFalse => exact ⟨_, rfl⟩

theorem freeLines_pool : (s.freeLines p).pool.ceiling = s.pool.ceiling := by
  unfold State.freeLines
  dsimp only
  split <;> rfl

/-- Evictions take clean lines away; the lines stay in their order. -/
theorem trimN_media (n : Nat) : ∃ ls r, (s.trimN n).media = { s.media with lines := ls, rescans := r } ∧ ls.Sublist s.media.lines := by
  induction n generalizing s with
  | zero => exact ⟨_, _, rfl, .refl _⟩
  | succ n ih =>
    unfold State.trimN
    split
    · exact ⟨_, _, rfl, .refl _⟩
    · split
      · exact ⟨_, _, rfl, .refl _⟩
      · rename_i l _
        obtain ⟨ls, r, media, sub⟩ := ih (((s.dropLine l).onPool fun p => { p with ceilingEvict := p.ceilingEvict + 1 }).returnCells Config.lineCells)
        exact ⟨ls, r, media, sub.trans List.filter_sublist⟩

theorem trimN_ceiling (n : Nat) : (s.trimN n).pool.ceiling = s.pool.ceiling := by
  induction n generalizing s with
  | zero => rfl
  | succ n ih =>
    unfold State.trimN
    split
    · rfl
    · split
      · rfl
      · exact ih _

theorem trimExcess_of_within {s : State} (within : 4 * s.media.lines.length ≤ s.pool.ceiling) : s.trimExcess = s := by
  unfold State.trimExcess
  cases s.media.lines.length with
  | zero => rfl
  | succ n =>
    unfold State.trimN
    exact if_pos within

end Lines

/-! ### Held requests -/

section Held
variable {st : BlkStatus}

/-- A held request that ends not OK leaves the list; the rest of the engine is as it was, but for counters, rescans and lines that a
pending excess takes. -/
theorem endHeld_media (notOk : st ≠ .ok) (s : State) (h : Held) : ∃ ls r blk, (s.endHeld st h).media = { s.media with
    held := s.media.held.erase h, lines := ls, rescans := r, blk := blk } ∧ ls.Sublist s.media.lines ∧
    (s.endHeld st h).pool.ceiling = s.pool.ceiling ∧ (4 * s.media.lines.length ≤ s.pool.ceiling → ls = s.media.lines) := by
  have ended : s.endHeld st h = ((s.onMedia fun m => { m with held := m.held.erase h }).blkReply h.mac h.domain
      (blkReplyBytes blkRequestType h.unit.val h.op.code h.count h.tag h.first st []) st).trimExcess := by
    have no : (st == BlkStatus.ok) = false := beq_eq_false_iff_ne.mpr notOk
    unfold State.endHeld
    simp only [no, Bool.false_eq_true, if_false]
  rw [ended]
  obtain ⟨blk, replied⟩ := blkReply_media (s.onMedia fun m => { m with held := m.held.erase h }) h.domain h.mac
    (blkReplyBytes blkRequestType h.unit.val h.op.code h.count h.tag h.first st []) st
  have ceiling := blkReply_pool (s.onMedia fun m => { m with held := m.held.erase h }) h.domain h.mac
    (blkReplyBytes blkRequestType h.unit.val h.op.code h.count h.tag h.first st []) st
  generalize State.blkReply h.mac h.domain _ st _ = t at replied ceiling ⊢
  have lines : t.media.lines = s.media.lines := by rw [replied]; rfl
  obtain ⟨ls, r, trimmed, sub⟩ := trimN_media t t.media.lines.length
  refine ⟨ls, r, blk, trimmed.trans (by rw [replied]; rfl), lines ▸ sub, (trimN_ceiling t _).trans ceiling, fun within => ?_⟩
  have same : t.trimExcess.media.lines = ls := congrArg Media.lines trimmed
  rw [trimExcess_of_within (s := t) (by rw [lines, ceiling]; exact within), lines] at same
  exact same.symm

/-- The same of several. -/
theorem endHelds_media (notOk : st ≠ .ok) (hs : List Held) (s : State) : ∃ ls r blk, (hs.foldl (State.endHeld st) s).media = { s.media with
    held := hs.foldl List.erase s.media.held, lines := ls, rescans := r, blk := blk } ∧ ls.Sublist s.media.lines ∧
    (hs.foldl (State.endHeld st) s).pool.ceiling = s.pool.ceiling ∧ (4 * s.media.lines.length ≤ s.pool.ceiling → ls = s.media.lines) := by
  induction hs generalizing s with
  | nil => exact ⟨_, _, _, rfl, .refl _, rfl, fun _ => rfl⟩
  | cons h hs ih =>
    obtain ⟨ls, r, blk, media, sub, ceiling, kept⟩ := endHeld_media notOk s h
    obtain ⟨ls', r', blk', media', sub', ceiling', kept'⟩ := ih (s.endHeld st h)
    have lines : (s.endHeld st h).media.lines = ls := congrArg Media.lines media
    refine ⟨ls', r', blk', media'.trans (by rw [media]; rfl), (lines ▸ sub').trans sub, ceiling'.trans ceiling, fun within => ?_⟩
    have before := kept within
    rw [kept' (by rw [lines, before, ceiling]; exact within), lines, before]

theorem foldl_erase_cons {α : Type} [DecidableEq α] {a : α} (xs l : List α) (other : ∀ x ∈ xs, x ≠ a) :
    xs.foldl List.erase (a :: l) = a :: xs.foldl List.erase l := by
  induction xs generalizing l with
  | nil => rfl
  | cons x xs ih =>
    rw [List.foldl_cons, List.foldl_cons, List.erase_cons_tail (by simpa using (other x List.mem_cons_self).symm)]
    exact ih _ fun y here => other y (List.mem_cons_of_mem _ here)

/-- Erasing the elements that pass a test, one by one, leaves those that do not. -/
theorem foldl_erase_filter {α : Type} [DecidableEq α] (p : α → Bool) (l : List α) :
    (l.filter p).foldl List.erase l = l.filter fun x => !p x := by
  induction l with
  | nil => rfl
  | cons a l ih =>
    cases test : p a with
    | true => rw [List.filter_cons_of_pos test, List.foldl_cons, List.erase_cons_head, ih, List.filter_cons_of_neg (by simp [test])]
    | false =>
      rw [List.filter_cons_of_neg (by simp [test]), List.filter_cons_of_pos (by simp [test]), foldl_erase_cons, ih]
      intro x here same
      exact Bool.false_ne_true (test.symm.trans (same ▸ (List.mem_filter.mp here).2))

theorem endHeldWhere_media (notOk : st ≠ .ok) (p : Held → Bool) (s : State) : ∃ ls r blk, (s.endHeldWhere p st).media = { s.media with
    held := s.media.held.filter fun h => !p h, lines := ls, rescans := r, blk := blk } ∧ ls.Sublist s.media.lines ∧
    (s.endHeldWhere p st).pool.ceiling = s.pool.ceiling ∧ (4 * s.media.lines.length ≤ s.pool.ceiling → ls = s.media.lines) := by
  have ended := endHelds_media notOk (s.media.held.filter p) s
  rwa [foldl_erase_filter] at ended

end Held

end Sys2Proof.Machine
end

section
/-! Media records: a detach step by step, an attach and a resume (R97 to R103). -/

namespace Sys2Proof.Machine

/-! ### Transfer entries that end -/

/-- A transfer table in which the entries listed are free. -/
def freedTable (es : List (Fin 16)) (tb : Vector TransferEntry 16) : Vector TransferEntry 16 :=
  es.foldl (fun tb (e : Fin 16) => tb.set e { tb[e] with use := none }) tb

theorem freedTable_getElem (es : List (Fin 16)) (tb : Vector TransferEntry 16) (e : Fin 16) :
    (freedTable es tb)[e] = ⟨(tb[e]).gen, if e ∈ es then none else (tb[e]).use⟩ := by
  induction es generalizing tb with
  | nil => rfl
  | cons d es ih =>
    show (freedTable es (tb.set d { tb[d] with use := none }))[e] = _
    rw [ih, getElem_set_if]
    by_cases same : e = d
    · subst same
      simp only [if_true, List.mem_cons, true_or, ite_self]
    · simp only [if_neg (Ne.symm same), List.mem_cons, same, false_or]

theorem entriesOf_eq (m : Media) (g : Fin 4) (k : TransferKind → Bool) : m.entriesOf g k =
    (List.finRange 16).filter fun e => (m.table[e]).use.any fun t => t.region == g && k t.kind := by
  refine List.filter_congr fun e _ => ?_
  cases m.table[e].use <;> rfl

theorem mem_entriesOf {m : Media} {g : Fin 4} {k : TransferKind → Bool} {e : Fin 16} : e ∈ m.entriesOf g k ↔
    ((m.table[e]).use.any fun t => t.region == g && k t.kind) = true := by
  rw [entriesOf_eq, List.mem_filter]
  exact and_iff_right (List.mem_finRange e)

theorem freeEntries_media (es : List (Fin 16)) (s : State) : ∃ iss w r, (es.foldl (fun t e => t.freeEntry e) s).media = { s.media with
    table := freedTable es s.media.table, issue := iss, issueWaiting := w, rescans := r } := by
  induction es generalizing s with
  | nil => exact ⟨_, _, _, rfl⟩
  | cons e es ih => exact ih (s.freeEntry e)

/-- Cancelled transfers are free, the lines they were filling gone. -/
theorem cancelEntries_media (es : List (Fin 16)) (s : State) : ∃ ord iss w r,
    (es.foldl (fun t e => (t.freeLines fun l => l.cond == .filling e).freeEntry e) s).media = { s.media with
      lines := s.media.lines.filter fun l => !es.any fun e => l.cond == .filling e
      dirtyOrder := ord, table := freedTable es s.media.table, issue := iss, issueWaiting := w, rescans := r } := by
  induction es generalizing s with
  | nil =>
    refine ⟨s.media.dirtyOrder, s.media.issue, s.media.issueWaiting, s.media.rescans, ?_⟩
    have all : (s.media.lines.filter fun l => !([] : List (Fin 16)).any fun e => l.cond == .filling e) = s.media.lines :=
      List.filter_eq_self.mpr fun _ _ => rfl
    rw [all]
    rfl
  | cons e es ih =>
    obtain ⟨ord, iss, w, r, media⟩ := ih ((s.freeLines fun l => l.cond == .filling e).freeEntry e)
    refine ⟨ord, iss, w, r, media.trans ?_⟩
    obtain ⟨n, freed⟩ := freeLines_media s fun l => l.cond == .filling e
    have lines : (((s.freeLines fun l => l.cond == .filling e).freeEntry e).media.lines.filter fun l => !es.any fun e => l.cond == .filling e) =
        s.media.lines.filter fun l => !(e :: es).any fun e => l.cond == .filling e := by
      show (s.freeLines fun l => l.cond == .filling e).media.lines.filter _ = _
      rw [freed]
      simp only [List.filter_filter, List.any_cons, Bool.not_or, Bool.and_comm]
    rw [lines]
    show ({ (s.freeLines fun l => l.cond == .filling e).media with
      lines := _, dirtyOrder := ord, table := freedTable es ((s.freeLines fun l => l.cond == .filling e).media.table.set e _),
      issue := iss, issueWaiting := w, rescans := r } : Media) = _
    rw [freed]
    rfl

/-! ### A detach -/

section Detach
variable (s : State) (g : Fin 4)

theorem enterRegion_media (st : RegionState) : (s.enterRegion g st).media.held = s.media.held ∧
    (s.enterRegion g st).media.lines = s.media.lines ∧ (s.enterRegion g st).media.waitingInquiries = s.media.waitingInquiries ∧
    (s.enterRegion g st).media.blk = s.media.blk := by
  have pushes := SameButPushes.raiseNotice (s.onRegion g fun r => { r with
    state := st, failures := if st = .attached ∨ st = .detached then 0 else r.failures })
    (.regionState g st (s.onRegion g fun r => { r with
      state := st, failures := if st = .attached ∨ st = .detached then 0 else r.failures }).media.regions[g].err)
  exact ⟨pushes.held, pushes.cache.1, pushes.issue.2, pushes.mediaCnt.1⟩

theorem enterRegion_regions (st : RegionState) (d : Fin 4) : (s.enterRegion g st).media.regions[d] =
    if d = g then { s.media.regions[g] with state := st, failures := if st = .attached ∨ st = .detached then 0 else (s.media.regions[g]).failures }
    else s.media.regions[d] := by
  have pushes := SameButPushes.raiseNotice (s.onRegion g fun r => { r with
    state := st, failures := if st = .attached ∨ st = .detached then 0 else r.failures })
    (.regionState g st (s.onRegion g fun r => { r with
      state := st, failures := if st = .attached ∨ st = .detached then 0 else r.failures }).media.regions[g].err)
  have regions : (s.enterRegion g st).media.regions = s.media.regions.set g _ := pushes.regions
  rw [regions, getElem_set_if]
  exact if_congr eq_comm rfl rfl

theorem enterRegion_state (st : RegionState) : ((s.enterRegion g st).media.regions[g]).state = st := by
  rw [enterRegion_regions, if_pos rfl]

end Detach

end Sys2Proof.Machine
end

section
/-! A detach step by step, an attach and a resume (R97 to R103). -/

namespace Sys2Proof.Machine

/-- A detach's first step: its region's held requests are answered NO_UNIT (R100). -/
def State.unitAnswered (s : State) (g : Fin 4) : State := s.endHeldWhere (fun h => h.unit == g) .noUnit

/-- Its second: its inquiry and FETCH entries are cancelled, and its waiting inquiry with them (R100). -/
def State.unitCancelled (s : State) (g : Fin 4) : State :=
  ((s.unitAnswered g).cancelFetches g (· != .flush)).onMedia fun m => { m with
    waitingInquiries := m.waitingInquiries.filter (· != g) }

/-- What is left before the region is settled (R100, R101). -/
def State.unitEmptied (s : State) (g : Fin 4) (discard : Bool) : State :=
  if discard then (s.unitCancelled g).discardDirty g else s.unitCancelled g

section
variable (s : State) (g : Fin 4)

theorem detachRegion_eq (discard : Bool) : s.detachRegion g discard =
    if (s.unitEmptied g discard).media.regionDirty g = 0 then (s.unitEmptied g discard).becomeDetached g
    else (s.unitEmptied g discard).enterRegion g .detaching := rfl

theorem unitAnswered_media : ∃ ls r blk, (s.unitAnswered g).media = { s.media with
    held := s.media.held.filter fun h => !h.unit == g, lines := ls, rescans := r, blk := blk } ∧ ls.Sublist s.media.lines ∧
    (4 * s.media.lines.length ≤ s.pool.ceiling → ls = s.media.lines) := by
  obtain ⟨ls, r, blk, media, sub, -, kept⟩ := endHeldWhere_media (st := .noUnit) nofun (fun h => h.unit == g) s
  exact ⟨ls, r, blk, media, sub, kept⟩

theorem unitCancelled_media : ∃ ord iss w r, (s.unitCancelled g).media = { (s.unitAnswered g).media with
    lines := (s.unitAnswered g).media.lines.filter fun l => !(s.media.entriesOf g (· != .flush)).any fun e => l.cond == .filling e
    dirtyOrder := ord, table := freedTable (s.media.entriesOf g (· != .flush)) s.media.table
    issue := iss, issueWaiting := w, rescans := r
    waitingInquiries := s.media.waitingInquiries.filter (· != g) } := by
  obtain ⟨ls, r, blk, answered, -, -⟩ := unitAnswered_media s g
  have table : (s.unitAnswered g).media.table = s.media.table := by rw [answered]
  have waiting : (s.unitAnswered g).media.waitingInquiries = s.media.waitingInquiries := by rw [answered]
  have entries : (s.unitAnswered g).media.entriesOf g (· != .flush) = s.media.entriesOf g (· != .flush) := by
    simp only [Media.entriesOf, table]
  obtain ⟨ord, iss, w, r, cancelled⟩ := cancelEntries_media (s.media.entriesOf g (· != .flush)) (s.unitAnswered g)
  refine ⟨ord, iss, w, r, ?_⟩
  show ({ ((s.unitAnswered g).cancelFetches g (· != .flush)).media with
    waitingInquiries := ((s.unitAnswered g).cancelFetches g (· != .flush)).media.waitingInquiries.filter (· != g) } : Media) = _
  rw [State.cancelFetches, entries, cancelled, ← table, ← waiting]

theorem unitCancelled_dirty : KeepsDirty s (s.unitCancelled g) :=
  ((KeepsDirty.endHeldWhere ..).trans (KeepsDirty.cancelFetches ..)).trans (KeepsDirty.onMedia _ _ rfl rfl)

theorem discardDirty_media : ∃ ord iss w r, (s.discardDirty g).media = { s.media with
    lines := s.media.lines.filter fun l => !(l.region == g && l.cond.isDirty)
    dirtyOrder := ord, table := freedTable (s.media.entriesOf g (· == .flush)) s.media.table
    issue := iss, issueWaiting := w, rescans := r
    blk := { s.media.blk with dirtyLost := s.media.blk.dirtyLost + BitVec.ofNat 32 (s.media.regionDirty g) } } := by
  obtain ⟨iss, w, r, freed⟩ := freeEntries_media (s.media.entriesOf g (· == .flush)) s
  unfold State.discardDirty
  dsimp only
  generalize (s.media.entriesOf g (· == .flush)).foldl (fun t e => t.freeEntry e) s = t at freed ⊢
  obtain ⟨n, media⟩ := freeLines_media t fun l => l.region == g && l.cond.isDirty
  refine ⟨(t.freeLines fun l => l.region == g && l.cond.isDirty).media.dirtyOrder, iss, w, n, ?_⟩
  show ({ (t.freeLines fun l => l.region == g && l.cond.isDirty).media with blk := _ } : Media) = _
  rw [media, freed]

theorem regionDirty_eq_zero_iff (m : Media) : m.regionDirty g = 0 ↔ ∀ l ∈ m.lines, l.region = g → l.cond.isDirty = false := by
  simp only [Media.regionDirty, List.countP_eq_zero, Bool.and_eq_true, beq_iff_eq, not_and, Bool.not_eq_true]

/-- What the two steps leave clean stays so. -/
theorem unitCancelled_clean (clean : s.media.regionDirty g = 0) : (s.unitCancelled g).media.regionDirty g = 0 := by
  rw [regionDirty_eq_zero_iff] at clean ⊢
  obtain ⟨ls, r, blk, answered, sub, -⟩ := unitAnswered_media s g
  obtain ⟨ord, iss, w, r, cancelled⟩ := unitCancelled_media s g
  intro l here
  rw [cancelled, answered] at here
  exact clean l (sub.subset (List.mem_filter.mp here).1)

theorem unitEmptied_discarded_clean : (s.unitEmptied g true).media.regionDirty g = 0 := by
  obtain ⟨ord, iss, w, r, discarded⟩ := discardDirty_media (s.unitCancelled g) g
  rw [regionDirty_eq_zero_iff]
  intro l here region
  have listed : l ∈ (s.unitCancelled g).media.lines.filter fun l => !(l.region == g && l.cond.isDirty) := by
    have same : (s.unitEmptied g true).media.lines = (s.unitCancelled g).media.lines.filter fun l => !(l.region == g && l.cond.isDirty) :=
      congrArg Media.lines discarded
    exact same ▸ here
  simpa only [region, beq_self_eq_true, Bool.true_and, Bool.not_eq_true'] using (List.mem_filter.mp listed).2

theorem unitEmptied_clean {discard : Bool} (clean : discard = true ∨ s.media.regionDirty g = 0) :
    (s.unitEmptied g discard).media.regionDirty g = 0 := by
  cases discard with
  | true => exact unitEmptied_discarded_clean s g
  | false => exact unitCancelled_clean s g (clean.resolve_left Bool.false_ne_true)

theorem unitEmptied_media (discard : Bool) :
    (s.unitEmptied g discard).media.held = (s.unitAnswered g).media.held ∧
    (s.unitEmptied g discard).media.regions = s.media.regions ∧
    (s.unitEmptied g discard).media.waitingInquiries = s.media.waitingInquiries.filter (· != g) := by
  obtain ⟨ls, r, blk, answered, -, -⟩ := unitAnswered_media s g
  obtain ⟨ord, iss, w, r, cancelled⟩ := unitCancelled_media s g
  have regions : (s.unitAnswered g).media.regions = s.media.regions := by rw [answered]
  cases discard with
  | false =>
    show (s.unitCancelled g).media.held = _ ∧ (s.unitCancelled g).media.regions = _ ∧ (s.unitCancelled g).media.waitingInquiries = _
    rw [cancelled]
    exact ⟨rfl, regions, rfl⟩
  | true =>
    obtain ⟨ord', iss', w', r', discarded⟩ := discardDirty_media (s.unitCancelled g) g
    show ((s.unitCancelled g).discardDirty g).media.held = _ ∧ ((s.unitCancelled g).discardDirty g).media.regions = _ ∧
      ((s.unitCancelled g).discardDirty g).media.waitingInquiries = _
    rw [discarded, cancelled]
    exact ⟨rfl, regions, rfl⟩

/-! ### The state a detach leaves -/

theorem becomeDetached_media : (s.becomeDetached g).media.held = s.media.held ∧
    (s.becomeDetached g).media.waitingInquiries = s.media.waitingInquiries ∧
    (s.becomeDetached g).media.lines = (s.media.lines.filter fun l => !l.region == g) ∧
    (s.becomeDetached g).media.blk = s.media.blk ∧ ((s.becomeDetached g).media.regions[g]).state = .detached := by
  obtain ⟨held, lines, waiting, blk⟩ := enterRegion_media (s.freeLines fun l => l.region == g) g .detached
  obtain ⟨n, freed⟩ := freeLines_media s fun l => l.region == g
  refine ⟨held.trans (by rw [freed]), waiting.trans (by rw [freed]), lines.trans (by rw [freed]), blk.trans (by rw [freed]),
    enterRegion_state _ g _⟩

theorem detachRegion_held (discard : Bool) : (s.detachRegion g discard).media.held = (s.unitAnswered g).media.held ∧
    (s.detachRegion g discard).media.waitingInquiries = s.media.waitingInquiries.filter (· != g) ∧
    (s.detachRegion g discard).media.blk = (s.unitEmptied g discard).media.blk := by
  obtain ⟨held, -, waiting⟩ := unitEmptied_media s g discard
  rw [detachRegion_eq]
  split
  · obtain ⟨held', waiting', -, blk, -⟩ := becomeDetached_media (s.unitEmptied g discard) g
    exact ⟨held'.trans held, waiting'.trans waiting, blk⟩
  · obtain ⟨held', -, waiting', blk⟩ := enterRegion_media (s.unitEmptied g discard) g .detaching
    exact ⟨held'.trans held, waiting'.trans waiting, blk⟩

theorem detachRegion_detached {discard : Bool} (clean : discard = true ∨ s.media.regionDirty g = 0) :
    ((s.detachRegion g discard).media.regions[g]).state = .detached ∧ ∀ l ∈ (s.detachRegion g discard).media.lines, l.region ≠ g := by
  rw [detachRegion_eq, if_pos (unitEmptied_clean s g clean)]
  obtain ⟨-, -, lines, -, state⟩ := becomeDetached_media (s.unitEmptied g discard) g
  refine ⟨state, fun l here => ?_⟩
  rw [lines, List.mem_filter, Bool.not_eq_true', beq_eq_false_iff_ne] at here
  exact here.2

theorem detachRegion_detaching (dirty : s.media.regionDirty g ≠ 0) (once : OneLineEach s.media) :
    ((s.detachRegion g false).media.regions[g]).state = .detaching := by
  have same : (s.unitEmptied g false).media.regionDirty g = s.media.regionDirty g := ((unitCancelled_dirty s g).lines once).2 g
  rw [detachRegion_eq, if_neg (same ▸ dirty)]
  exact enterRegion_state ..

theorem detachRegion_dirtyLost_kept : (s.detachRegion g false).media.blk.dirtyLost = s.media.blk.dirtyLost := by
  rw [(detachRegion_held s g false).2.2]
  exact (unitCancelled_dirty s g).lost

theorem detachRegion_dirtyLost (once : OneLineEach s.media) : (s.detachRegion g true).media.blk.dirtyLost =
    s.media.blk.dirtyLost + BitVec.ofNat 32 (s.media.regionDirty g) := by
  obtain ⟨ord, iss, w, r, discarded⟩ := discardDirty_media (s.unitCancelled g) g
  have counted : (s.unitEmptied g true).media.blk.dirtyLost =
      (s.unitCancelled g).media.blk.dirtyLost + BitVec.ofNat 32 ((s.unitCancelled g).media.regionDirty g) :=
    congrArg (fun m => m.blk.dirtyLost) discarded
  rw [(detachRegion_held s g true).2.2, counted, (unitCancelled_dirty s g).lost, ((unitCancelled_dirty s g).lines once).2 g]

end

end Sys2Proof.Machine
end

section
/-! Media records answered (R97 to R103). -/

namespace Sys2Proof.Machine

section Records
variable {s : State} {r : Rec} {b : Byte} {g : Fin 4}

theorem validRegion_of_missing (body : r.body = [b]) (missing : ∀ g : Fin 4, b.toNat = g.val → (s.media.regions[g]).cfg.valid = false) :
    s.validRegion r = none := by
  rw [State.validRegion, body, fieldAt_zero_one, filter_idx?_eq_none_iff]
  exact fun g named => missing g named.symm

theorem validRegion_of_region (body : r.body = [b]) (named : b.toNat = g.val) (valid : (s.media.regions[g]).cfg.valid = true) :
    s.validRegion r = some g := by
  rw [State.validRegion, body, fieldAt_zero_one, named, idx?_val]
  exact Option.filter_eq_some_iff.mpr ⟨rfl, valid⟩

theorem mediaAttach_of_missing (missing : s.validRegion r = none) : s.mediaAttach r = ⟨.noSuch, [], s⟩ := by
  rw [State.mediaAttach, missing]

theorem mediaAttach_of_region (valid : s.validRegion r = some g) : s.mediaAttach r =
    if (s.media.regions[g]).state = .detached then ⟨.ok, [1], s.beginAttach g⟩ else ⟨.state, [], s⟩ := by
  rw [State.mediaAttach, valid]
  rfl

theorem mediaResume_of_missing (missing : s.validRegion r = none) : s.mediaResume r = ⟨.noSuch, [], s⟩ := by
  rw [State.mediaResume, missing]

theorem mediaResume_of_region (valid : s.validRegion r = some g) : s.mediaResume r =
    if (s.media.regions[g]).state = .faulted then
      ⟨.ok, [2] ++ natBytes 4 (s.media.regionDirty g), (s.enterRegion g .attached).runFlushes⟩ else ⟨.state, [], s⟩ := by
  rw [State.mediaResume, valid]
  rfl

theorem detach_of_missing (discard : Bool) (missing : s.validRegion r = none) : s.detach discard r = ⟨.noSuch, [], s⟩ := by
  rw [State.detach, missing]

theorem detach_of_refused {discard : Bool} (valid : s.validRegion r = some g)
    (refused : (s.media.regions[g]).state = .detached ∨ ((s.media.regions[g]).state = .detaching ∧ discard = false)) :
    s.detach discard r = ⟨.state, [], s⟩ := by
  rw [State.detach, valid]
  exact if_pos refused

/-- What a detach that is taken replies with. -/
def detachReply (s : State) (g : Fin 4) (st : RegionState) (kept lost : Nat) : List Byte :=
  [BitVec.ofNat 8 st.code] ++ natBytes 4 (s.media.held.countP fun h => h.unit == g) ++ natBytes 4 kept ++ natBytes 4 lost

theorem detach_of_taken {discard : Bool} (valid : s.validRegion r = some g)
    (taken : ¬ ((s.media.regions[g]).state = .detached ∨ ((s.media.regions[g]).state = .detaching ∧ discard = false))) :
    s.detach discard r = ⟨.ok, detachReply s g ((s.detachRegion g (s.detachDiscards g discard)).media.regions[g]).state
      (if s.detachDiscards g discard then 0 else s.media.regionDirty g) (if s.detachDiscards g discard then s.media.regionDirty g else 0),
      s.detachRegion g (s.detachDiscards g discard)⟩ := by
  rw [State.detach, valid]
  exact if_neg taken

theorem detach_of_discarded {discard : Bool} (valid : s.validRegion r = some g)
    (taken : ¬ ((s.media.regions[g]).state = .detached ∨ ((s.media.regions[g]).state = .detaching ∧ discard = false)))
    (drop : s.detachDiscards g discard = true) :
    s.detach discard r = ⟨.ok, detachReply s g .detached 0 (s.media.regionDirty g), s.detachRegion g true⟩ := by
  rw [detach_of_taken valid taken, drop, (detachRegion_detached s g (.inl rfl)).1]
  rfl

theorem detach_of_kept {discard : Bool} {st : RegionState} (valid : s.validRegion r = some g)
    (taken : ¬ ((s.media.regions[g]).state = .detached ∨ ((s.media.regions[g]).state = .detaching ∧ discard = false)))
    (drop : s.detachDiscards g discard = false) (leaves : ((s.detachRegion g false).media.regions[g]).state = st) :
    s.detach discard r = ⟨.ok, detachReply s g st (s.media.regionDirty g) 0, s.detachRegion g false⟩ := by
  rw [detach_of_taken valid taken, drop, leaves]
  rfl

theorem detachDiscards_true : s.detachDiscards g true = true := rfl

theorem detachDiscards_faulted (faulted : (s.media.regions[g]).state = .faulted) : s.detachDiscards g false = true := by
  rw [State.detachDiscards, State.regionState, faulted]
  rfl

theorem detachDiscards_other (other : (s.media.regions[g]).state ≠ .faulted) : s.detachDiscards g false = false := by
  rw [State.detachDiscards, State.regionState, Bool.false_or, beq_eq_false_iff_ne]
  exact other

/-! ### An attach -/

theorem freeEntry_eq_some_iff {m : Media} {e : Fin 16} : m.freeEntry = some e ↔
    (m.table[e]).use = none ∧ ∀ d : Fin 16, d < e → (m.table[d]).use ≠ none := by
  simp only [Media.freeEntry, firstIdx_eq_some_iff, Option.isNone_iff_eq_none, Option.isNone_eq_false_iff, Option.isSome_iff_ne_none]

theorem freeEntry_eq_none_iff {m : Media} : m.freeEntry = none ↔ ∀ e : Fin 16, (m.table[e]).use ≠ none := by
  simp only [Media.freeEntry, firstIdx_eq_none_iff, Option.isNone_eq_false_iff, Option.isSome_iff_ne_none]

/-- What a notice leaves of the media engine that an attach looks at. -/
theorem enterRegion_entries (s : State) (g : Fin 4) (st : RegionState) :
    (s.enterRegion g st).media.waitingInquiries = s.media.waitingInquiries ∧
    (s.enterRegion g st).media.freeEntry = s.media.freeEntry := by
  refine ⟨(enterRegion_media s g st).2.2.1, congrArg (firstIdx 16) (funext fun e => ?_)⟩
  have pushes := SameButPushes.raiseNotice (s.onRegion g fun r => { r with
    state := st, failures := if st = .attached ∨ st = .detached then 0 else r.failures })
    (.regionState g st (s.onRegion g fun r => { r with
      state := st, failures := if st = .attached ∨ st = .detached then 0 else r.failures }).media.regions[g].err)
  have use : ((s.enterRegion g st).media.table[e]).use.map Transfer.undated = (s.media.table[e]).use.map Transfer.undated := pushes.uses e
  have both := congrArg Option.isNone use
  simpa only [Option.isNone_map] using both

theorem beginAttach_of_free {e : Fin 16} (nobody : s.media.waitingInquiries = []) (free : s.media.freeEntry = some e) :
    s.beginAttach g = (s.enterRegion g .attaching).allocate .inquire g 0 0 e := by
  obtain ⟨waiting, entry⟩ := enterRegion_entries s g .attaching
  simp only [State.beginAttach, waiting, entry, nobody, free]

theorem beginAttach_of_busy (busy : s.media.waitingInquiries ≠ [] ∨ s.media.freeEntry = none) :
    s.beginAttach g = (s.enterRegion g .attaching).onMedia fun m => { m with waitingInquiries := m.waitingInquiries ++ [g] } := by
  obtain ⟨waiting, entry⟩ := enterRegion_entries s g .attaching
  have unready : ∀ e, s.media.waitingInquiries = [] → s.media.freeEntry = some e → False := by
    intro e nobody free
    exact busy.elim (fun some => some nobody) fun none => nomatch none.symm.trans free
  unfold State.beginAttach
  dsimp only
  split
  · rename_i e nobody free
    exact (unready e (waiting ▸ nobody) (entry ▸ free)).elim
  · rfl

end Records

theorem enterRegion_eq (s : State) (g : Fin 4) (st : RegionState) : s.enterRegion g st =
    (s.onMedia fun m => { m with regions := m.regions.set g { m.regions[g] with
      state := st, failures := if st = .attached ∨ st = .detached then 0 else (m.regions[g]).failures } }).raiseNotice
        (.regionState g st (s.media.regions[g]).err) := by
  have same : ((s.media.regions.set g { s.media.regions[g] with
      state := st, failures := if st = .attached ∨ st = .detached then 0 else (s.media.regions[g]).failures })[g]).err =
      (s.media.regions[g]).err := by rw [getElem_set_if, if_pos rfl]
  rw [← same]
  rfl

section Steps
variable (s : State) (g : Fin 4)

theorem unitCancelled_eq : s.unitCancelled g =
    State.onMedia (((List.finRange 16).filter fun e => (s.media.table[e]).use.any fun t => t.region == g && t.kind != .flush).foldl
      (fun t e => (t.freeLines fun l => l.cond == .filling e).freeEntry e)
      ((s.media.held.filter fun h => h.unit == g).foldl (State.endHeld .noUnit) s))
      fun m => { m with waitingInquiries := m.waitingInquiries.filter (· != g) } := by
  obtain ⟨ls, r, blk, answered, -, -⟩ := unitAnswered_media s g
  have table : (s.unitAnswered g).media.table = s.media.table := by rw [answered]
  rw [State.unitCancelled, State.cancelFetches, entriesOf_eq, table]
  rfl

theorem unitCancelled_table (e : Fin 16) : (s.unitCancelled g).media.table[e] =
    ⟨(s.media.table[e]).gen, if (s.media.table[e]).use.any (fun t => t.region == g && t.kind != .flush) then none else (s.media.table[e]).use⟩ := by
  obtain ⟨ord, iss, w, r, cancelled⟩ := unitCancelled_media s g
  rw [cancelled]
  show (freedTable _ s.media.table)[e] = _
  rw [freedTable_getElem]
  simp only [mem_entriesOf]

/-- The FLUSH entries of the region outlast the first two steps. -/
theorem unitCancelled_flushes : (s.unitCancelled g).media.entriesOf g (· == .flush) = s.media.entriesOf g (· == .flush) := by
  rw [entriesOf_eq, entriesOf_eq]
  refine List.filter_congr fun e _ => ?_
  rw [unitCancelled_table]
  cases use : (s.media.table[e]).use with
  | none => simp
  | some t =>
    cases kind : t.kind <;> cases region : t.region == g <;> simp [kind, region]

theorem discardDirty_unitCancelled : (s.unitCancelled g).discardDirty g =
    ((((List.finRange 16).filter fun e => (s.media.table[e]).use.any fun t => t.region == g && t.kind == .flush).foldl
      (fun t e => t.freeEntry e) (s.unitCancelled g)).freeLines fun l => l.region == g && l.cond.isDirty).onBlk fun n => { n with
        dirtyLost := n.dirtyLost + BitVec.ofNat 32 ((s.unitCancelled g).media.lines.countP fun l => l.region == g && l.cond.isDirty) } := by
  rw [State.discardDirty, unitCancelled_flushes, entriesOf_eq]
  rfl

theorem discardDirty_table (e : Fin 16) : ((s.unitCancelled g).discardDirty g).media.table[e] =
    ⟨(s.media.table[e]).gen, if (s.media.table[e]).use.any (fun t => t.region == g && true) then none else (s.media.table[e]).use⟩ := by
  obtain ⟨ord, iss, w, r, discarded⟩ := discardDirty_media (s.unitCancelled g) g
  rw [discarded]
  show (freedTable _ (s.unitCancelled g).media.table)[e] = _
  rw [freedTable_getElem, unitCancelled_table, unitCancelled_flushes]
  simp only [mem_entriesOf]
  cases use : (s.media.table[e]).use with
  | none => simp
  | some t => cases kind : t.kind <;> cases region : t.region == g <;> simp [kind, region]

theorem detachRegion_of_dirty {discard : Bool}
    (dirty : ∃ l ∈ (s.unitEmptied g discard).media.lines, l.region = g ∧ l.cond.isDirty = true) :
    s.detachRegion g discard = (s.unitEmptied g discard).enterRegion g .detaching := by
  rw [detachRegion_eq, if_neg]
  rw [regionDirty_eq_zero_iff]
  obtain ⟨l, here, region, isDirty⟩ := dirty
  exact fun clean => Bool.false_ne_true ((clean l here region).symm.trans isDirty)

theorem detachRegion_of_clean {discard : Bool}
    (clean : ∀ l ∈ (s.unitEmptied g discard).media.lines, l.region = g → l.cond.isDirty = false) :
    s.detachRegion g discard = ((s.unitEmptied g discard).freeLines fun l => l.region == g).enterRegion g .detached := by
  rw [detachRegion_eq, if_pos ((regionDirty_eq_zero_iff ..).mpr clean)]
  rfl

end Steps

/-- Settles O48: the records by the region's state, a detach by its steps. -/
theorem mediaRecordsMoveRegions : Obligations.MediaRecordsMoveRegions := by
  refine ⟨fun r s b passes body => ⟨fun missing => ?_, fun g named valid => ?_⟩, fun s g st => ?_, fun s g => ?_, fun s g discard => ?_,
    fun s g discard => ?_⟩
  · have none : s.popRecord.validRegion r = none := validRegion_of_missing body missing
    exact ⟨fun ready => answers_of_handler (h := State.mediaAttach) rfl nofun ready passes (mediaAttach_of_missing none),
      fun ready => answers_of_handler (h := State.detach false) rfl nofun ready passes (detach_of_missing false none),
      fun ready => answers_of_handler (h := State.detach true) rfl nofun ready passes (detach_of_missing true none),
      fun ready => answers_of_handler (h := State.mediaResume) rfl nofun ready passes (mediaResume_of_missing none)⟩
  · have some : s.popRecord.validRegion r = Option.some g := validRegion_of_region body named valid
    intro st dirty answered reply
    have untaken (up : st = .attaching ∨ st = .attached) : ¬ ((s.media.regions[g]).state = .detached ∨
        ((s.media.regions[g]).state = .detaching ∧ false = false)) := by
      rintro (out | ⟨out, -⟩) <;> rcases up with h | h <;> exact nomatch h.symm.trans out
    have notFaulted (up : st = .attaching ∨ st = .attached) : (s.media.regions[g]).state ≠ .faulted := by
      rintro out
      rcases up with h | h <;> exact nomatch h.symm.trans out
    refine ⟨fun ready => ⟨fun detached => ?_, fun other => ?_⟩, fun ready => ⟨fun faulted => ?_, fun other => ?_⟩,
      fun ready => ⟨fun out => ?_, fun up => ⟨fun clean => ?_, fun unclean once => ?_⟩, fun faulted => ?_⟩,
      fun ready => ⟨fun detached => ?_, fun other => ?_⟩⟩
    · exact answers_of_handler (h := State.mediaAttach) rfl nofun ready passes ((mediaAttach_of_region some).trans (if_pos detached))
    · exact answers_of_handler (h := State.mediaAttach) rfl nofun ready passes ((mediaAttach_of_region some).trans (if_neg other))
    · exact answers_of_handler (h := State.mediaResume) rfl nofun ready passes ((mediaResume_of_region some).trans (if_pos faulted))
    · exact answers_of_handler (h := State.mediaResume) rfl nofun ready passes ((mediaResume_of_region some).trans (if_neg other))
    · exact answers_of_handler (h := State.detach false) rfl nofun ready passes
        (detach_of_refused some (out.imp_right fun detaching => ⟨detaching, rfl⟩))
    · have kept := detach_of_kept (discard := false) some (untaken up) (detachDiscards_other (notFaulted up))
        (detachRegion_detached s.popRecord g (.inr clean)).1
      have none : s.popRecord.media.regionDirty g = 0 := clean
      rw [none] at kept
      exact answers_of_handler (h := State.detach false) rfl nofun ready passes kept
    · exact answers_of_handler (h := State.detach false) rfl nofun ready passes (detach_of_kept (discard := false) some (untaken up)
        (detachDiscards_other (notFaulted up)) (detachRegion_detaching s.popRecord g unclean once))
    · have untaken : ¬ ((s.media.regions[g]).state = .detached ∨ ((s.media.regions[g]).state = .detaching ∧ false = false)) := by
        rintro (out | ⟨out, -⟩) <;> exact nomatch faulted.symm.trans out
      exact answers_of_handler (h := State.detach false) rfl nofun ready passes
        (detach_of_discarded (discard := false) some untaken (detachDiscards_faulted faulted))
    · exact answers_of_handler (h := State.detach true) rfl nofun ready passes (detach_of_refused some (.inl detached))
    · have untaken : ¬ ((s.media.regions[g]).state = .detached ∨ ((s.media.regions[g]).state = .detaching ∧ true = false)) :=
        fun out => out.elim other fun both => nomatch both.2
      exact answers_of_handler (h := State.detach true) rfl nofun ready passes
        (detach_of_discarded (discard := true) some untaken detachDiscards_true)
  · intro entered
    exact ⟨enterRegion_eq s g st, SameButPushes.raiseNotice ..⟩
  · exact ⟨fun e nobody free first => beginAttach_of_free nobody (freeEntry_eq_some_iff.mpr ⟨free, first⟩),
      fun busy => beginAttach_of_busy (busy.imp_right freeEntry_eq_none_iff.mpr)⟩
  · intro own given cancels answered freed cancelled lost discarded rest
    obtain ⟨ls, r, blk, answeredMedia, -, kept⟩ := unitAnswered_media s g
    obtain ⟨ord, iss, w, r', cancelledMedia⟩ := unitCancelled_media s g
    obtain ⟨ord', iss', w', r'', discardedMedia⟩ := discardDirty_media (s.unitCancelled g) g
    have isAnswered : answered = s.unitAnswered g := rfl
    have isCancelled : cancelled = s.unitCancelled g := (unitCancelled_eq s g).symm
    have isDiscarded : discarded = (s.unitCancelled g).discardDirty g := by
      rw [discardDirty_unitCancelled, ← isCancelled]
    have isRest : rest = s.unitEmptied g discard := by
      show (if discard = true then discarded else cancelled) = _
      rw [isDiscarded, isCancelled]
      rfl
    clear_value answered cancelled discarded rest
    subst isRest isDiscarded isCancelled isAnswered
    have regions : (s.unitCancelled g).media.regions = s.media.regions := by rw [cancelledMedia, answeredMedia]
    refine ⟨detachRegion_of_dirty s g, detachRegion_of_clean s g, by rw [answeredMedia]; rfl, by rw [answeredMedia], by rw [answeredMedia],
      by rw [answeredMedia], fun within => ?_, by rw [cancelledMedia], regions, unitCancelled_table s g, ?_,
      by rw [discardedMedia, cancelledMedia], by rw [discardedMedia]; exact regions, by rw [discardedMedia], discardDirty_table s g,
      by rw [discardedMedia]⟩
    · rw [answeredMedia]
      exact ⟨kept within, rfl⟩
    · rw [cancelledMedia]
      simp only [entriesOf_eq, List.any_filter]
      rfl
  · intro t
    obtain ⟨held, waiting, -⟩ := detachRegion_held s g discard
    obtain ⟨ls, r, blk, answered, -, -⟩ := unitAnswered_media s g
    refine ⟨fun h here => ?_, ?_, detachRegion_detached s g, ?_, ?_, ?_⟩
    · rw [held, answered] at here
      simpa using (List.mem_filter.mp here).2
    · rw [waiting]
      simp
    · rintro rfl dirty once
      exact detachRegion_detaching s g dirty once
    · rintro rfl once
      exact detachRegion_dirtyLost s g once
    · rintro rfl
      exact detachRegion_dirtyLost_kept s g

end Sys2Proof.Machine
end

section
/-! What a media frame's bytes spell, and what lines say of a sector (R106 to R109, 11.4). -/

namespace Sys2Proof.Machine

/-! ### Fields of several bytes -/

theorem toNat_bytes_append {n : Nat} (x : BitVec n) (b : Byte) : (x ++ b).toNat = x.toNat * 256 + b.toNat := by
  rw [BitVec.toNat_append, ← Nat.shiftLeft_add_eq_or_of_lt b.isLt, Nat.shiftLeft_eq]

theorem beNat_two (a b : Byte) : beNat [a, b] = (a ++ b).toNat := by
  rw [toNat_bytes_append]
  show (0 * 256 + a.toNat) * 256 + b.toNat = _
  omega

theorem beNat_four (a b c d : Byte) : beNat [a, b, c, d] = (a ++ b ++ c ++ d).toNat := by
  rw [toNat_bytes_append, toNat_bytes_append, toNat_bytes_append]
  show (((0 * 256 + a.toNat) * 256 + b.toNat) * 256 + c.toNat) * 256 + d.toNat = _
  omega

section Command
variable {m : MediaIn}

theorem request_spelled {ty unit op count t0 t1 f0 f1 f2 f3 : Byte} {data : List Byte}
    (bytes : m.frame.payload = [ty, unit, op, count, t0, t1, f0, f1, f2, f3] ++ data) :
    m.request = ⟨m.frame.src, m.domain, ty.toNat, unit.toNat, op.toNat, count.toNat, t0 ++ t1, (f0 ++ f1 ++ f2 ++ f3).toNat, data⟩ := by
  rw [MediaIn.request, bytes]
  have type : fieldAt 0 1 ([ty, unit, op, count, t0, t1, f0, f1, f2, f3] ++ data) = ty.toNat := beNat_singleton ty
  have unit' : fieldAt 1 1 ([ty, unit, op, count, t0, t1, f0, f1, f2, f3] ++ data) = unit.toNat := beNat_singleton unit
  have op' : fieldAt 2 1 ([ty, unit, op, count, t0, t1, f0, f1, f2, f3] ++ data) = op.toNat := beNat_singleton op
  have count' : fieldAt 3 1 ([ty, unit, op, count, t0, t1, f0, f1, f2, f3] ++ data) = count.toNat := beNat_singleton count
  have tag : BitVec.ofNat 16 (fieldAt 4 2 ([ty, unit, op, count, t0, t1, f0, f1, f2, f3] ++ data)) = t0 ++ t1 :=
    (congrArg (BitVec.ofNat 16) (beNat_two t0 t1)).trans (BitVec.ofNat_toNat ..)
  have first : fieldAt 6 4 ([ty, unit, op, count, t0, t1, f0, f1, f2, f3] ++ data) = (f0 ++ f1 ++ f2 ++ f3).toNat := beNat_four f0 f1 f2 f3
  simp only [type, unit', op', count', tag, first]
  rfl

theorem command_of_server (port : m.port = .s) : m.command = if m.request.type = 1 then
    (match m.request.op with
      | 0 => .blkRead
      | 1 => .blkWrite
      | 2 => .blkInquire
      | 3 => .blkSync
      | _ => .blkMalformed) else .blkMalformed := by
  rw [MediaIn.command, port] <;> rfl

theorem command_of_image (port : m.port = .u) : m.command ∉ [Instr.blkRead, .blkWrite, .blkInquire, .blkSync, .blkMalformed] := by
  rw [MediaIn.command, port]
  dsimp only
  split
  · split <;> decide
  · split
    · decide
    · split <;> decide
  · split <;> decide
  · decide

/-- The four block commands have the op of their code. -/
theorem op_of_command {c : Instr} (command : m.command = c) (block : c ∈ [Instr.blkRead, .blkWrite, .blkInquire, .blkSync]) :
    (c = .blkRead → m.request.op = 0) ∧ (c = .blkWrite → m.request.op = 1) ∧ (c = .blkInquire → m.request.op = 2) ∧
      (c = .blkSync → m.request.op = 3) := by
  cases port : m.port with
  | u =>
    refine absurd ?_ (command_of_image port)
    rw [command]
    exact List.mem_append_left [Instr.blkMalformed] block
  | s =>
    rw [command_of_server port] at command
    subst command
    split
    · split <;> rename_i op <;> simp [op]
    · exact ⟨nofun, nofun, nofun, nofun⟩

end Command

/-! ### What lines say of a sector -/

section Lines
variable {m : Media} {g : Fin 4} {x : Nat} {l : CacheLine}

theorem sectorReadable_of_none (none : m.findLine g x = none) : m.sectorReadable g x = false := by rw [Media.sectorReadable, none]

theorem newlyDirty_of_none (none : m.findLine g x = none) : m.newlyDirty g x = true := by rw [Media.newlyDirty, none]

theorem sectorData_of_some (here : m.findLine g x = some l) : m.sectorData g x = l.data := by rw [Media.sectorData, here]

theorem sectorReadable_iff (here : m.findLine g x = some l) : m.sectorReadable g x = true ↔ ∀ e, l.cond ≠ .filling e := by
  rw [Media.sectorReadable, here]
  show l.cond.readable = true ↔ _
  cases l.cond <;> simp [LineCond.readable]

theorem newlyDirty_iff (here : m.findLine g x = some l) : m.newlyDirty g x = true ↔ l.cond = .clean ∨ ∃ e, l.cond = .filling e := by
  rw [Media.newlyDirty, here]
  show (!l.cond.isDirty) = true ↔ _
  cases l.cond <;> simp [LineCond.isDirty]

theorem isDirty_iff {c : LineCond} : c.isDirty = true ↔ c = .dirty ∨ ∃ e, c = .flushing e ∨ c = .redirtied e := by
  cases c <;> simp [LineCond.isDirty]

/-- Lines touched one after the other stand at the recent end in the order in which they were touched. -/
theorem touchLines_eq {xs : List Nat} (once : xs.Nodup) (ls : List CacheLine) : xs.foldl (fun ls x => touchLine g x ls) ls =
    (ls.filter fun l => !(l.region == g && xs.contains l.sector)) ++
      (xs.map fun x => ls.filter fun l => l.region == g && l.sector == x).flatten := by
  induction xs generalizing ls with
  | nil =>
    rw [List.filter_eq_self.mpr fun l _ => by rw [List.contains_nil, Bool.and_false]; rfl]
    exact (List.append_nil ls).symm
  | cons x xs ih =>
    obtain ⟨fresh, once⟩ := List.nodup_cons.mp once
    rw [List.foldl_cons, ih once, touchLine, List.filter_append, List.filter_filter, List.filter_filter, List.map_cons, List.flatten_cons]
    have kept : (ls.filter fun l => !(l.region == g && xs.contains l.sector) && !l.isFor g x) =
        ls.filter fun l => !(l.region == g && (x :: xs).contains l.sector) := by
      refine List.filter_congr fun l _ => ?_
      rw [CacheLine.isFor, List.contains_cons]
      cases l.region == g <;> cases l.sector == x <;> simp
    have touched : (ls.filter fun l => !(l.region == g && xs.contains l.sector) && l.isFor g x) =
        ls.filter fun l => l.region == g && l.sector == x := by
      refine List.filter_congr fun l _ => ?_
      rw [CacheLine.isFor]
      by_cases same : l.sector = x
      · simp [same, fresh]
      · simp [same]
    have others : (xs.map fun y => ((ls.filter fun l => !l.isFor g x) ++ ls.filter (CacheLine.isFor g x)).filter fun l =>
        l.region == g && l.sector == y) = xs.map fun y => ls.filter fun l => l.region == g && l.sector == y := by
      refine List.map_congr_left fun y here => ?_
      have other : y ≠ x := fun same => fresh (same ▸ here)
      rw [List.filter_append, List.filter_filter, List.filter_filter]
      have nothing : (ls.filter fun l => (l.region == g && l.sector == y) && l.isFor g x) = [] := by
        refine List.filter_eq_nil_iff.mpr fun l _ => ?_
        simp only [CacheLine.isFor, Bool.and_eq_true, beq_iff_eq]
        rintro ⟨⟨-, atY⟩, -, atX⟩
        exact other (atY.symm.trans atX)
      rw [nothing, List.append_nil]
      refine List.filter_congr fun l _ => ?_
      by_cases same : l.sector = y
      · simp [CacheLine.isFor, same, other]
      · simp [same]
    rw [kept, touched, others, List.append_assoc]

end Lines

end Sys2Proof.Machine
end

section
/-! Block requests judged and answered (R105 to R112). -/

namespace Sys2Proof.Machine

/-! ### The judgement -/

section Judge
variable {s : State} {r : BlkRequest} {g : Fin 4} {f : Fin 4 → State → State}

theorem judgeUnit_of_missing (missing : ∀ g : Fin 4, r.unit = g.val → (s.media.regions[g]).cfg.valid = false) :
    s.judgeUnit r = .error .noUnit := by
  rw [State.judgeUnit]
  cases named : idx? 4 r.unit with
  | none => rfl
  | some g =>
    have invalid := missing g (idx?_some named).symm
    simp only [invalid, Bool.not_false, if_true]

theorem judgeUnit_of_region (named : r.unit = g.val) (valid : (s.media.regions[g]).cfg.valid = true) : s.judgeUnit r =
    if (s.media.regions[g]).cfg.bootOnly = true ∧ s.power.window = none then .error .noUnit
    else if (s.media.regions[g]).state = .attached then .ok g
    else if (s.media.regions[g]).state = .faulted then .error .mediaError else .error .noUnit := by
  rw [State.judgeUnit, named, idx?_val]
  simp only [valid, Bool.not_true, Bool.false_eq_true, if_false, Bool.and_eq_true, Option.isNone_iff_eq_none]
  congr 1
  cases (s.media.regions[g]).state <;> rfl

theorem judged_of_badForm (bad : r.formOk = false) : s.judged r f = s.answer r .malformed [] := by
  rw [State.judged, State.judgeBlock, bad]
  rfl

theorem judged_of_error {e : BlkStatus} (form : r.formOk = true) (error : s.judgeUnit r = .error e) : s.judged r f = s.answer r e [] := by
  rw [State.judged, State.judgeBlock, form, error]
  rfl

theorem judged_of_region (form : r.formOk = true) (unit : s.judgeUnit r = .ok g) : s.judged r f =
    if r.op ≤ 1 ∧ (s.media.regions[g]).sectors < r.first + r.count then s.answer r .range [] else f g s := by
  rw [State.judged, State.judgeBlock, form, unit]
  simp only [Bool.not_true, Bool.false_eq_true, if_false]
  split
  · rename_i e failed
    split at failed
    · rename_i beyond
      cases failed
      exact (if_pos beyond).symm
    · cases failed
  · rename_i d passed
    split at passed
    · cases passed
    · rename_i within
      cases passed
      exact (if_neg within).symm

end Judge

theorem formOk_read {r : BlkRequest} (op : r.op = 0) : r.formOk = true ↔ r.count = 1 ∨ r.count = 2 := by
  rw [BlkRequest.formOk, op]
  simp only [Bool.and_eq_true, bne_iff_ne, decide_eq_true_eq]
  omega

theorem formOk_write {r : BlkRequest} (op : r.op = 1) : r.formOk = true ↔ (r.count = 1 ∨ r.count = 2) ∧ r.data.length = r.count * 512 := by
  rw [BlkRequest.formOk, op]
  simp only [Bool.and_eq_true, bne_iff_ne, decide_eq_true_eq, beq_iff_eq, Config.sectorBytes]
  omega

theorem formOk_inquire {r : BlkRequest} (op : r.op = 2) : r.formOk = true := by
  rw [BlkRequest.formOk, op]
  rfl

theorem formOk_sync {r : BlkRequest} (op : r.op = 3) : r.formOk = true := by
  rw [BlkRequest.formOk, op]
  rfl

/-! ### The frame at the head of the media inbox -/

/-- What a block command does with the request and its region. -/
def blockTask : Instr → BlkRequest → Fin 4 → State → State
  | .blkRead => State.readRequest
  | .blkWrite => State.writeRequest
  | .blkInquire => State.inquireRequest
  | _ => State.syncRequest

/-- The frame at the head has left the inbox, its cells returned. -/
def State.mediaTaken (m : MediaIn) (t : State) : State :=
  (t.onMedia fun x => { x with inbox := x.inbox.drop 1 }).returnCells m.frame.cells

theorem takeMedia_of_head {s : State} {m : MediaIn} {rest : List MediaIn} {c : Instr} (queue : s.media.inbox = m :: rest)
    (command : m.command = c) (f : MediaIn → State → State) : s.takeMedia c f = (f m s).mediaTaken m := by
  rw [State.takeMedia, queue]
  exact if_pos command

section Head
variable {s : State} {m : MediaIn} {rest : List MediaIn} {c : Instr} (queue : s.media.inbox = m :: rest) (command : m.command = c)
include queue command

theorem exec_of_badSource (block : c ∈ [Instr.blkRead, .blkWrite, .blkInquire, .blkSync, .blkMalformed])
    (group : isGroup m.frame.src = true) :
    exec c s = .next ((s.onBlk fun n => { n with badSource := n.badSource + 1 }).mediaTaken m) := by
  have taken (f : BlkRequest → State → State) : s.takeRequest c f = (s.onBlk fun n => { n with badSource := n.badSource + 1 }).mediaTaken m :=
    (takeMedia_of_head queue command _).trans (congrArg (State.mediaTaken m) (if_pos group))
  simp only [List.mem_cons, List.not_mem_nil, or_false] at block
  rcases block with rfl | rfl | rfl | rfl | rfl <;> exact congrArg Host.Outcome.next (taken _)

theorem exec_of_judged (block : c ∈ [Instr.blkRead, .blkWrite, .blkInquire, .blkSync]) (judged : isGroup m.frame.src = false) :
    exec c s = .next ((s.judged m.request (blockTask c m.request)).mediaTaken m) := by
  have taken (f : BlkRequest → State → State) : s.takeRequest c f = (f m.request s).mediaTaken m :=
    (takeMedia_of_head queue command _).trans (congrArg (State.mediaTaken m) (if_neg (by rw [judged]; exact Bool.false_ne_true)))
  simp only [List.mem_cons, List.not_mem_nil, or_false] at block
  rcases block with rfl | rfl | rfl | rfl <;> exact congrArg Host.Outcome.next (taken _)

theorem exec_of_malformed (malformed : c = .blkMalformed) (judged : isGroup m.frame.src = false) :
    exec c s = .next ((s.answer m.request .malformed []).mediaTaken m) := by
  have taken (f : BlkRequest → State → State) : s.takeRequest c f = (f m.request s).mediaTaken m :=
    (takeMedia_of_head queue command _).trans (congrArg (State.mediaTaken m) (if_neg (by rw [judged]; exact Bool.false_ne_true)))
  subst malformed
  exact congrArg Host.Outcome.next (taken _)

end Head

/-! ### Replies and held requests -/

section Answer
variable {s : State} {r : BlkRequest} {st : BlkStatus} {body : List Byte}

theorem blkReply_eq (s : State) (mac : Mac) (d : Fin 16) (bytes : List Byte) (st : BlkStatus) : s.blkReply mac d bytes st =
    (let offered := (s.onBlk fun n => n.replied st).offerEgress .s d s.sched.mediaClass
      (builtFrame mac s.ports.partMac 0x88B6 bytes) .blkReply
    if offered.1 = true then offered.2 else offered.2.onBlk fun n => { n with replyDrop := n.replyDrop + 1 }) := rfl

section Write
variable {g : Fin 4} (unprotected : (s.media.regions[g]).cfg.writeProtect = false) (writable : (s.media.regions[g]).writable = true)
include unprotected writable

theorem writeRequest_of_unprotected : s.writeRequest r g =
    if 256 < ((sectorsOf r.first r.count).filter fun x => s.media.newlyDirty g x).length + s.media.dirtyCount then s.writeBusy r
    else match s.writeLines g (sectorsOf r.first r.count ++ sectorsOf r.first r.count) with
      | ((false, got), t) => (t.freeLines fun l => l.region == g && got.contains l.sector).writeBusy r
      | ((true, _), t) =>
        ((sectorsOf r.first r.count).foldl (fun t x => t.sectorArrived g x)
          ((r.sectors.foldl (State.storeSector g ((sectorsOf r.first r.count).filter fun x => s.media.newlyDirty g x)) t).answer r .ok
            [])).runJoined (!((sectorsOf r.first r.count).filter fun x => s.media.newlyDirty g x).isEmpty) := by
  simp only [State.writeRequest, unprotected, writable, Bool.not_true, Bool.or_self, Bool.false_eq_true, if_false] <;> rfl

theorem writeRequest_of_many (many : 256 < ((sectorsOf r.first r.count).filter fun x => s.media.newlyDirty g x).length + s.media.dirtyCount) :
    s.writeRequest r g = s.writeBusy r := (writeRequest_of_unprotected unprotected writable).trans (if_pos many)

variable (few : ((sectorsOf r.first r.count).filter fun x => s.media.newlyDirty g x).length + s.media.dirtyCount ≤ 256)
  {got : List Nat} {t : State}
include few

theorem writeRequest_of_failed
    (failed : s.writeLines g (sectorsOf r.first r.count ++ sectorsOf r.first r.count) = ((false, got), t)) :
    s.writeRequest r g = (t.freeLines fun l => l.region == g && got.contains l.sector).writeBusy r := by
  rw [writeRequest_of_unprotected unprotected writable, if_neg (Nat.not_lt.mpr few), failed]

theorem writeRequest_of_had
    (had : s.writeLines g (sectorsOf r.first r.count ++ sectorsOf r.first r.count) = ((true, got), t)) :
    s.writeRequest r g =
      (let joins := (sectorsOf r.first r.count).filter fun x => s.media.newlyDirty g x
      let stored := (sectorsOf r.first r.count).foldl (fun t x => t.sectorArrived g x)
        ((r.sectors.foldl (State.storeSector g joins) t).answer r .ok [])
      if joins = [] then stored else stored.runFlushes) := by
  rw [writeRequest_of_unprotected unprotected writable, if_neg (Nat.not_lt.mpr few), had]
  cases (sectorsOf r.first r.count).filter fun x => s.media.newlyDirty g x <;> rfl

end Write

theorem writeRequest_of_protected {g : Fin 4} (protect : (s.media.regions[g]).cfg.writeProtect = true ∨ (s.media.regions[g]).writable = false) :
    s.writeRequest r g = s.answer r .prot [] := by
  refine if_pos ?_
  rw [Bool.or_eq_true, Bool.not_eq_true']
  exact protect

/-- A held READ of the same request stands already (R111). -/
def State.heldAlready (s : State) (g : Fin 4) (r : BlkRequest) : Prop :=
  ∃ h ∈ s.media.held, h.op = .read ∧ h.mac = r.mac ∧ h.unit = g ∧ h.tag = r.tag

theorem heldAlready_iff {g : Fin 4} : s.media.held.any (fun h => h.op == .read && h.mac == r.mac && h.unit == g && h.tag == r.tag) = true ↔
    s.heldAlready g r := by
  simp only [State.heldAlready, List.any_eq_true, Bool.and_eq_true, beq_iff_eq, and_assoc]

theorem dispose_eq {g : Fin 4} {op : HeldOp} (service : (s.media.regions[g]).cfg.service ≠ 1) (fresh : ¬ (op = .read ∧ s.heldAlready g r)) :
    s.dispose g op r = if 16 ≤ s.media.held.length then s.answer r .busy [] else s.onMedia fun m => { m with
      held := m.held ++ [⟨r.mac, r.domain, g, op, r.tag, r.first, r.count, s.clock.now + BitVec.ofNat 48 ((s.media.regions[g]).cfg.holdMs * 1000),
        if op = .read then (sectorsOf r.first r.count).filter fun x => !s.media.sectorReadable g x else []⟩]
      blk := { m.blk with requests := m.blk.requests + 1, heldEntered := m.blk.heldEntered + 1 } } := by
  rw [← heldAlready_iff] at fresh
  exact (if_neg service).trans (if_neg fresh)

theorem dispose_of_duplicate {g : Fin 4} {op : HeldOp} (service : (s.media.regions[g]).cfg.service ≠ 1)
    (duplicate : op = .read ∧ s.heldAlready g r) : s.dispose g op r = s.onBlk fun n => { n with duplicate := n.duplicate + 1 } := by
  rw [← heldAlready_iff] at duplicate
  exact (if_neg service).trans (if_pos duplicate)

end Answer

theorem readRequest_of_readable {s : State} {r : BlkRequest} {g : Fin 4}
    (all : ∀ x ∈ sectorsOf r.first r.count, s.media.sectorReadable g x = true) : s.readRequest r g =
      (s.touch g (sectorsOf r.first r.count)).answer r .ok ((sectorsOf r.first r.count).map fun x => s.media.sectorData g x).flatten :=
  if_pos (List.all_eq_true.mpr all)

theorem readRequest_of_unreadable {s : State} {r : BlkRequest} {g : Fin 4}
    (some : ∃ x ∈ sectorsOf r.first r.count, s.media.sectorReadable g x = false) : s.readRequest r g =
      ((sectorsOf r.first r.count).foldl (fun t x => (t.ensureFill g x).2) s).dispose g .read r := by
  refine if_neg fun all => ?_
  obtain ⟨x, here, unreadable⟩ := some
  exact Bool.false_ne_true (unreadable.symm.trans (List.all_eq_true.mp all x here))

/-- Settles O49: the bytes, the lines, the judgement step by step, and the tasks of the four ops. -/
theorem blockRequestsJudged : Obligations.BlockRequestsJudged := by
  refine ⟨fun m ty unit op count t0 t1 f0 f1 f2 f3 data bytes => ⟨request_spelled bytes, fun port => ?_⟩,
    fun r => ⟨?_, fun k bound => ?_⟩, rfl, fun m g x => ⟨rfl, fun none => ⟨sectorReadable_of_none none, newlyDirty_of_none none⟩,
      fun l here => ⟨sectorData_of_some here, sectorReadable_iff here, newlyDirty_iff here⟩, rfl⟩, fun c => isDirty_iff,
    fun s g xs once => ?_, fun s m rest c queue command block => ?_, fun s r st body => ?_, fun s g op r => ?_⟩
  · have request := request_spelled bytes
    have named := command_of_server port
    rw [request] at named
    have byte (n : Byte) : ty.toNat = n.toNat ↔ ty = n := BitVec.toNat_inj
    exact ⟨fun other => named.trans (if_neg fun one => other ((byte 1).mp one)), fun one => named.trans (if_pos (by rw [one]; rfl))⟩
  · simp [BlkRequest.sectors]
  · simp [BlkRequest.sectors, List.getElem?_range bound, Nat.mul_comm, Config.sectorBytes]
  · exact congrArg (fun ls => s.setLines ls) (touchLines_eq once s.media.lines)
  · intro r taken judged form
    have formOk (four : c ∈ [Instr.blkRead, .blkWrite, .blkInquire, .blkSync]) : r.formOk = true ↔ form := by
      obtain ⟨read, write, inquire, sync⟩ := op_of_command command four
      simp only [List.mem_cons, List.not_mem_nil, or_false] at four
      rcases four with rfl | rfl | rfl | rfl
      · exact formOk_read (read rfl)
      · exact formOk_write (write rfl)
      · exact iff_of_true (formOk_inquire (inquire rfl)) trivial
      · exact iff_of_true (formOk_sync (sync rfl)) trivial
    have four (hasForm : form) : c ∈ [Instr.blkRead, .blkWrite, .blkInquire, .blkSync] := by
      simp only [List.mem_cons, List.not_mem_nil, or_false] at block ⊢
      rcases block with rfl | rfl | rfl | rfl | rfl
      · exact .inl rfl
      · exact .inr (.inl rfl)
      · exact .inr (.inr (.inl rfl))
      · exact .inr (.inr (.inr rfl))
      · exact hasForm.elim
    have runs (single : judged) (hasForm : form) := exec_of_judged queue command (four hasForm) single
    refine ⟨exec_of_badSource queue command block, fun single bad => ?_, fun single hasForm missing => ?_,
      fun g single hasForm named valid => ?_⟩
    · by_cases malformed : c = .blkMalformed
      · exact exec_of_malformed queue command malformed single
      · have four : c ∈ [Instr.blkRead, .blkWrite, .blkInquire, .blkSync] := by
          simp only [List.mem_cons, List.not_mem_nil, or_false, malformed] at block ⊢
          exact block
        rw [exec_of_judged queue command four single, judged_of_badForm (Bool.eq_false_iff.mpr (mt (formOk four).mp bad))]
        rfl
    · rw [runs single hasForm, judged_of_error ((formOk (four hasForm)).mpr hasForm) (judgeUnit_of_missing missing)]
      rfl
    · intro rg shut beyond xs
      have ok := (formOk (four hasForm)).mpr hasForm
      have unit := judgeUnit_of_region named valid
      refine ⟨fun isShut => ?_, fun isOpen faulted => ?_, fun isOpen notFaulted notAttached => ?_, fun isOpen attached => ?_⟩
      · rw [runs single hasForm, judged_of_error ok (unit.trans (if_pos isShut))]
        rfl
      · have other : (s.media.regions[g]).state ≠ .attached := fun h => nomatch (show _ = RegionState.faulted from faulted).symm.trans h
        rw [runs single hasForm, judged_of_error ok (unit.trans ((if_neg isOpen).trans ((if_neg other).trans (if_pos faulted))))]
        rfl
      · rw [runs single hasForm, judged_of_error ok (unit.trans ((if_neg isOpen).trans ((if_neg notAttached).trans (if_neg notFaulted))))]
        rfl
      · obtain ⟨read, write, inquire, sync⟩ := op_of_command command (four hasForm)
        have passed := judged_of_region (f := blockTask c r) ok (unit.trans ((if_neg isOpen).trans (if_pos attached)))
        have run : exec c s = taken (if r.op ≤ 1 ∧ rg.sectors < r.first + r.count then s.answer r .range [] else blockTask c r g s) :=
          (runs single hasForm).trans (congrArg taken passed)
        have within (inside : ¬ beyond) : exec c s = taken (blockTask c r g s) := run.trans (congrArg taken (if_neg fun h => inside h.2))
        have beyondOp (op : 1 < r.op) : exec c s = taken (blockTask c r g s) :=
          run.trans (congrArg taken (if_neg fun h => Nat.not_lt.mpr h.1 op))
        clear runs passed
        refine ⟨fun readOrWrite far => ?_, ?_, ?_, ?_, ?_, ?_, ?_, ?_⟩
        · refine run.trans (congrArg taken (if_pos ⟨?_, far⟩))
          rcases readOrWrite with isRead | isWrite
          · exact Nat.le_trans (Nat.le_of_eq (read isRead)) (Nat.zero_le 1)
          · exact Nat.le_of_eq (write isWrite)
        · rintro rfl
          exact beyondOp (Nat.lt_of_lt_of_eq (by decide) (inquire rfl).symm)
        · rintro rfl clean
          exact (beyondOp (Nat.lt_of_lt_of_eq (by decide) (sync rfl).symm)).trans (congrArg taken (if_pos clean))
        · rintro rfl dirty
          exact (beyondOp (Nat.lt_of_lt_of_eq (by decide) (sync rfl).symm)).trans (congrArg taken (if_neg dirty))
        · rintro rfl inside all
          exact (within inside).trans (congrArg taken (readRequest_of_readable all))
        · rintro rfl inside unreadable
          exact (within inside).trans (congrArg taken (readRequest_of_unreadable unreadable))
        · rintro rfl inside protect
          exact (within inside).trans (congrArg taken (writeRequest_of_protected protect))
        · rintro rfl inside unprotected writable joins
          have writes := within inside
          refine ⟨fun many => writes.trans (congrArg taken (writeRequest_of_many unprotected writable many)),
            fun few got t => ⟨fun had => ?_, fun failed => ?_⟩⟩
          · exact writes.trans (congrArg taken (writeRequest_of_had unprotected writable few had))
          · exact writes.trans (congrArg taken (writeRequest_of_failed unprotected writable few failed))
  · intro counted f offered
    have replied := blkReply_eq (s.onBlk fun n => { n with requests := n.requests + 1 }) r.mac r.domain
      (blkReplyBytes r.type r.unit r.op r.count r.tag r.first st body) st
    exact ⟨fun got => replied.trans (if_pos got), fun failed => replied.trans (if_neg (ne_true_of_eq_false failed))⟩
  · intro rg duplicate
    refine ⟨fun off => if_pos off, dispose_of_duplicate, fun on fresh full => (dispose_eq on fresh).trans (if_pos full),
      fun on fresh room awaiting sync read => ?_⟩
    rw [dispose_eq on fresh, if_neg (Nat.not_le.mpr room)]
    have awaits : (if op = .read then (sectorsOf r.first r.count).filter fun x => !s.media.sectorReadable g x else []) = awaiting := by
      cases op with
      | read => exact (read rfl).symm
      | sync => exact (sync rfl).symm
    rw [awaits]

end Sys2Proof.Machine
end

section
/-! The answers of image servers and the ends of transfers and held requests: what bytes spell, and each function by its cases
(R97 to R131, 11.4). -/

namespace Sys2Proof.Machine

/-! ### The bytes of an answer -/

section Bytes
variable {m : MediaIn} {ty : Byte} {rest : List Byte}

theorem command_of_info (port : m.port = .u) (bytes : m.frame.payload = 0x11 :: rest) :
    m.command = if 12 ≤ rest.length then .imgInfo else .imgMalformedAnswer := by
  rw [MediaIn.command, port, bytes]
  show (if rest.length + 1 < 13 then Instr.imgMalformedAnswer else .imgInfo) = _
  split <;> split
  · omega
  · rfl
  · rfl
  · omega

theorem command_of_ack (port : m.port = .u) (bytes : m.frame.payload = 0x15 :: rest) :
    m.command = if 7 ≤ rest.length then .imgWriteAck else .imgMalformedAnswer := by
  rw [MediaIn.command, port, bytes]
  show (if rest.length + 1 < 8 then Instr.imgMalformedAnswer else .imgWriteAck) = _
  split <;> split
  · omega
  · rfl
  · rfl
  · omega

theorem command_of_data (port : m.port = .u) (bytes : m.frame.payload = 0x13 :: rest) :
    m.command = if rest.length + 1 < 9 then .imgMalformedAnswer
      else if fieldAt 7 1 (0x13 :: rest) = 0 ∧ (fieldAt 8 1 (0x13 :: rest) = 0 ∨ 2 < fieldAt 8 1 (0x13 :: rest) ∨
        rest.length + 1 < 9 + fieldAt 8 1 (0x13 :: rest) * 516) then .imgMalformedAnswer else .imgData := by
  rw [MediaIn.command, port, bytes]
  rfl

theorem command_of_dataFields {head sectors : List Byte} {st n : Byte} (port : m.port = .u) (bytes : m.frame.payload = 0x13 :: rest)
    (fields : rest = head ++ [st, n] ++ sectors) (length : head.length = 6) :
    m.command = if st = 0 ∧ ¬ (1 ≤ n.toNat ∧ n.toNat ≤ 2 ∧ n.toNat * 516 ≤ sectors.length) then .imgMalformedAnswer else .imgData := by
  have status : fieldAt 7 1 (0x13 :: rest) = st.toNat := by
    rw [fields, fieldAt, List.drop_succ_cons, List.append_assoc, List.drop_append_of_le_length (Nat.le_of_eq length.symm), ← length,
      List.drop_length]
    exact beNat_singleton st
  have number : fieldAt 8 1 (0x13 :: rest) = n.toNat := by
    have place : (head ++ [st, n] ++ sectors).drop 7 = n :: sectors := by
      rw [List.append_assoc, List.drop_append, length]
      simp [List.drop_eq_nil_of_le, length]
    rw [fields, fieldAt, List.drop_succ_cons, place]
    exact beNat_singleton n
  have long : rest.length = sectors.length + 8 := by
    rw [fields, List.length_append, List.length_append, length]
    simp only [List.length_cons, List.length_nil]
    omega
  have zero : st.toNat = 0 ↔ st = 0 := BitVec.toNat_inj (y := 0)
  rw [command_of_data port bytes, status, number, long, if_neg (by omega)]
  refine if_congr (and_congr zero ?_) rfl rfl
  omega

theorem command_of_otherType (port : m.port = .u) (bytes : m.frame.payload = ty :: rest) (notInfo : ty ≠ 0x11) (notData : ty ≠ 0x13)
    (notAck : ty ≠ 0x15) : m.command = .imgMalformedAnswer := by
  have type : fieldAt 0 1 m.frame.payload = ty.toNat := by rw [bytes, fieldAt_zero_one]
  have byte {n : Byte} (other : ty ≠ n) : ty.toNat ≠ n.toNat := mt BitVec.toNat_inj.mp other
  rw [MediaIn.command, port]
  dsimp only
  split
  · rename_i h; exact absurd (type.symm.trans h) (byte notInfo)
  · rename_i h; exact absurd (type.symm.trans h) (byte notData)
  · rename_i h; exact absurd (type.symm.trans h) (byte notAck)
  · rfl

theorem imgSectors_succ {n : Nat} {x0 x1 x2 x3 : Byte} {data rest : List Byte} (length : data.length = 512) :
    imgSectors (n + 1) ([x0, x1, x2, x3] ++ data ++ rest) = ((x0 ++ x1 ++ x2 ++ x3).toNat, data) :: imgSectors n rest := by
  have number : fieldAt 0 4 ([x0, x1, x2, x3] ++ data ++ rest) = (x0 ++ x1 ++ x2 ++ x3).toNat := beNat_four x0 x1 x2 x3
  have first : (([x0, x1, x2, x3] ++ data ++ rest).drop 4).take 512 = data := by
    show (data ++ rest).take 512 = data
    rw [← length, List.take_left]
  have others : ([x0, x1, x2, x3] ++ data ++ rest).drop 516 = rest := by
    show (data ++ rest).drop 512 = rest
    rw [← length, List.drop_left]
  rw [imgSectors, number, others]
  exact congrArg (fun d => ((x0 ++ x1 ++ x2 ++ x3).toNat, d) :: imgSectors n rest) first

end Bytes

/-! ### The transfer an answer belongs to -/

section Answered
variable {m : Media} {kind : TransferKind} {p : List Byte}

/-- The answer with bytes `p` fits transfer `t` in entry `e` (R128). -/
def Media.AnswerFits (m : Media) (kind : TransferKind) (p : List Byte) (e : Fin 16) (t : Transfer) : Prop :=
  fieldAt 1 1 p = e.val ∧ m.table[e] = ⟨BitVec.ofNat 8 (fieldAt 2 1 p), some t⟩ ∧ t.kind = kind ∧
    (m.regions[t.region]).cfg.imageId = BitVec.ofNat 32 (fieldAt 3 4 p) ∧ (fieldAt 7 1 p = 0 ∨ t.deadline ≠ none)

theorem answered_eq_some_iff {e : Fin 16} {t : Transfer} : m.answered kind p = some (e, t) ↔ m.AnswerFits kind p e t := by
  unfold Media.answered Media.AnswerFits
  constructor
  · intro found
    split at found
    · cases found
    · rename_i d index
      split at found
      · cases found
      · rename_i u use
        split at found
        · rename_i both
          obtain ⟨gen, ofKind, image, dated⟩ := both
          simp only [Option.some.injEq, Prod.mk.injEq] at found
          obtain ⟨rfl, rfl⟩ := found
          refine ⟨(idx?_some index).symm, ?_, ofKind, image, ?_⟩
          · rw [show (BitVec.ofNat 8 (fieldAt 2 1 p) : Byte) = _ from gen.symm, ← use]
          · exact Classical.byContradiction fun neither => dated ((not_or.mp neither).imp id Classical.not_not.mp)
        · cases found
  · rintro ⟨index, entry, ofKind, image, dated⟩
    have place : idx? 16 (imgIndex p) = some e := by
      show idx? 16 (fieldAt 1 1 p) = some e
      rw [index, idx?_val]
    rw [place]
    simp only [entry]
    refine if_pos ⟨rfl, ofKind, image, ?_⟩
    rintro ⟨refused, undated⟩
    exact dated.elim refused (fun some => some undated)

theorem answered_eq_none (stale : ∀ e t, ¬ m.AnswerFits kind p e t) : m.answered kind p = none := by
  cases found : m.answered kind p with
  | none => rfl
  | some both => exact absurd (answered_eq_some_iff.mp found) (stale both.1 both.2)

end Answered

section Take
variable {s : State} {m : MediaIn} {rest : List MediaIn} {c : Instr} {kind : TransferKind}
  {f : Fin 16 → Transfer → List Byte → State → State}

theorem takeAnswer_of_stale (queue : s.media.inbox = m :: rest) (command : m.command = c)
    (stale : ∀ e t, ¬ s.media.AnswerFits kind m.frame.payload e t) :
    s.takeAnswer c kind f = (s.onXfer fun n => { n with stale := n.stale + 1 }).mediaTaken m := by
  refine (takeMedia_of_head queue command _).trans ?_
  rw [answered_eq_none stale]
  rfl

theorem takeAnswer_of_fits {e : Fin 16} {t : Transfer} (queue : s.media.inbox = m :: rest) (command : m.command = c)
    (fits : s.media.AnswerFits kind m.frame.payload e t) :
    s.takeAnswer c kind f = (f e t m.frame.payload s).mediaTaken m := by
  refine (takeMedia_of_head queue command _).trans ?_
  rw [answered_eq_some_iff.mpr fits]

end Take

/-! ### Sectors that arrive -/

theorem missing_nil_iff {t : Transfer} : t.missing = [] ↔ ∀ x, t.first ≤ x → x < t.first + t.count → x ∈ t.received := by
  simp only [Transfer.missing, sectorsOf, List.filter_eq_nil_iff, List.mem_map, List.mem_range, Bool.not_eq_true', Bool.not_eq_false,
    List.contains_iff_mem, forall_exists_index, and_imp, forall_apply_eq_imp_iff₂]
  constructor
  · intro each x least most
    have there := each (x - t.first) (by omega)
    rwa [Nat.add_sub_cancel' least] at there
  · exact fun each i bound => each _ (Nat.le_add_right ..) (by omega)

section Sectors
variable {s : State} {e : Fin 16} {t : Transfer} {x : Nat} {data : List Byte} (use : (s.media.table[e]).use = some t)
include use

theorem takeSector_of_outside (outside : x < t.first ∨ t.first + t.count ≤ x) : s.takeSector e (x, data) = s.countStale := by
  rw [State.takeSector, use]
  exact if_pos outside

theorem takeSector_of_received (least : t.first ≤ x) (most : x < t.first + t.count) (received : x ∈ t.received) :
    s.takeSector e (x, data) = s.discardData := by
  rw [State.takeSector, use]
  exact (if_neg (by omega)).trans (if_pos (List.contains_iff_mem.mpr received))

theorem takeSector_of_unfilled (least : t.first ≤ x) (most : x < t.first + t.count) (fresh : x ∉ t.received)
    (unfilled : ∀ l, s.media.findLine t.region x = some l → l.cond ≠ .filling e) :
    s.takeSector e (x, data) = (s.setTransfer e { t with received := t.received ++ [x] }).discardData := by
  rw [State.takeSector, use]
  refine (if_neg (by omega)).trans ((if_neg (mt List.contains_iff_mem.mp fresh)).trans ?_)
  dsimp only
  split
  · rfl
  · rename_i l here
    exact if_neg (unfilled l here)

theorem takeSector_of_filling (least : t.first ≤ x) (most : x < t.first + t.count) (fresh : x ∉ t.received) {l : CacheLine}
    (here : s.media.findLine t.region x = some l) (filling : l.cond = .filling e) :
    s.takeSector e (x, data) = ((((s.setTransfer e { t with received := t.received ++ [x] }).onLineOf t.region x fun l =>
      { l with cond := .clean, data := data }).sectorArrived t.region x).trimExcess) := by
  rw [State.takeSector, use]
  refine (if_neg (by omega)).trans ((if_neg (mt List.contains_iff_mem.mp fresh)).trans ?_)
  dsimp only
  rw [here]
  exact if_pos filling

theorem completeFetch_of_all (all : ∀ x, t.first ≤ x → x < t.first + t.count → x ∈ t.received) : s.completeFetch e =
    ((s.freeEntry e).onXfer fun n => { n with fetchDone := n.fetchDone + 1 }).countCompletion t.region := by
  rw [State.completeFetch, use]
  exact if_pos (List.isEmpty_iff.mpr (missing_nil_iff.mpr all))

theorem completeFetch_of_missing (some : ∃ x, t.first ≤ x ∧ x < t.first + t.count ∧ x ∉ t.received) : s.completeFetch e = s := by
  rw [State.completeFetch, use]
  refine if_neg fun none => ?_
  obtain ⟨x, least, most, missing⟩ := some
  exact missing (missing_nil_iff.mp (List.isEmpty_iff.mp none) x least most)

end Sectors

end Sys2Proof.Machine
end

section
/-! The ends of transfers and of held requests (R97 to R131). -/

namespace Sys2Proof.Machine

theorem coveredBy_iff {l : CacheLine} {e : Fin 16} : l.coveredBy e = true ↔ l.cond = .filling e ∨ l.cond = .flushing e ∨ l.cond = .redirtied e := by
  simp only [CacheLine.coveredBy, Bool.or_eq_true, beq_iff_eq, or_assoc]

theorem isFor_iff {l : CacheLine} {g : Fin 4} {x : Nat} : l.isFor g x = true ↔ l.region = g ∧ l.sector = x := by
  simp only [CacheLine.isFor, Bool.and_eq_true, beq_iff_eq]

theorem onLineOf_eq (s : State) (g : Fin 4) (x : Nat) (f : CacheLine → CacheLine) : s.onLineOf g x f = s.onMedia fun m => { m with
    lines := m.lines.map fun l => if l.region = g ∧ l.sector = x then f l else l } := by
  have same : (fun l : CacheLine => if l.isFor g x then f l else l) = fun l => if l.region = g ∧ l.sector = x then f l else l :=
    funext fun l => if_congr isFor_iff rfl rfl
  rw [State.onLineOf, same]
  rfl

/-! ### Attempts -/

section Attempts
variable {s : State} {e : Fin 16} {t : Transfer}

theorem judgeAttempt_of_more (more : t.attempts ≤ s.media.retryCount) : s.judgeAttempt e t =
    ((s.setTransfer e { t with deadline := none, attempts := t.attempts + 1 }).onMedia fun m => { m with
      issue := m.issue ++ [e] }).onXfer fun c => { c with retries := c.retries + 1 } := if_pos more

theorem judgeAttempt_of_last (last : s.media.retryCount < t.attempts) :
    s.judgeAttempt e t = (s.setTransfer e { t with deadline := none }).failTransfer e t := if_neg (Nat.not_le.mpr last)

theorem failTransfer_of_fetch (kind : t.kind = .fetch) : s.failTransfer e t = s.failFetch e t := by rw [State.failTransfer, kind]

theorem failTransfer_of_flush (kind : t.kind = .flush) : s.failTransfer e t = s.failFlush e t := by rw [State.failTransfer, kind]

theorem failTransfer_of_inquire (kind : t.kind = .inquire) :
    s.failTransfer e t = (s.freeEntry e).failAttach t.region .inquireFailed := by rw [State.failTransfer, kind]

end Attempts

theorem missing_head? (t : Transfer) : t.missing.head? = ((List.range t.count).map fun i => t.first + i).find? fun x => !t.received.contains x :=
  List.head?_filter ..

/-! ### Lines freed, held requests ended -/

theorem freeLines_of_nobody {s : State} {p : CacheLine → Bool} (nobody : s.media.lines.filter p = []) : s.freeLines p = s :=
  if_pos (List.isEmpty_iff.mpr nobody)

theorem freeLines_of_some {s : State} {p : CacheLine → Bool} (some : s.media.lines.filter p ≠ []) : s.freeLines p =
    (s.onMedia fun m => { m with
      lines := m.lines.filter fun l => !p l
      dirtyOrder := m.dirtyOrder.filter fun d => !(s.media.lines.filter p).any fun l => l.region == d.1 && l.sector == d.2 }).returnCells
        (4 * (s.media.lines.filter p).length) :=
  if_neg (mt List.isEmpty_iff.mp some)

theorem endHeld_of_ok (s : State) (h : Held) (xs : List Nat) (sectors : (if h.op = .read then sectorsOf h.first h.count else []) = xs) :
    s.endHeld .ok h = (((s.onMedia fun m => { m with held := m.held.erase h }).touch h.unit xs).blkReply h.mac h.domain
      (blkReplyBytes 0x01 h.unit.val h.op.code h.count h.tag h.first .ok (xs.map fun x => s.media.sectorData h.unit x).flatten)
        .ok).trimExcess := by
  subst sectors
  rfl

theorem endHeld_of_notOk {st : BlkStatus} (notOk : st ≠ .ok) (s : State) (h : Held) :
    s.endHeld st h = ((s.onMedia fun m => { m with held := m.held.erase h }).blkReply h.mac h.domain
      (blkReplyBytes 0x01 h.unit.val h.op.code h.count h.tag h.first st []) st).trimExcess := by
  have no : (st == BlkStatus.ok) = false := beq_eq_false_iff_ne.mpr notOk
  unfold State.endHeld
  simp only [no, Bool.false_eq_true, if_false]
  rfl

theorem sectorArrived_eq (s : State) (g : Fin 4) (x : Nat) : s.sectorArrived g x =
    (s.onMedia fun m => { m with held := m.held.map fun h =>
      if h.op = .read ∧ h.unit = g ∧ x ∈ h.awaiting then { h with awaiting := h.awaiting.filter (· != x) } else h }).endHeldWhere
        (fun h => h.op == .read && h.awaiting.isEmpty) .ok := by
  have same : (fun h : Held => if (h.op == .read && h.unit == g && h.awaiting.contains x) = true then
        { h with awaiting := h.awaiting.filter (· != x) } else h) =
      fun h => if h.op = .read ∧ h.unit = g ∧ x ∈ h.awaiting then { h with awaiting := h.awaiting.filter (· != x) } else h :=
    funext fun h => if_congr (by simp only [Bool.and_eq_true, beq_iff_eq, List.contains_iff_mem, and_assoc]) rfl rfl
  rw [← same]
  rfl

theorem endHeldWhere_regions (p : Held → Bool) (st : BlkStatus) (s : State) : (s.endHeldWhere p st).media.regions = s.media.regions := by
  have each (t : State) (h : Held) : (t.endHeld st h).media.regions = t.media.regions := by
    unfold State.endHeld
    dsimp only
    obtain ⟨ls, r, trimmed, -⟩ := trimN_media (State.blkReply h.mac h.domain
      (blkReplyBytes blkRequestType h.unit.val h.op.code h.count h.tag h.first st
        (if st == .ok then t.media.readData h.unit (if h.op = .read then sectorsOf h.first h.count else []) else [])) st
      (if st == .ok then (t.onMedia fun m => { m with held := m.held.erase h }).touch h.unit
        (if h.op = .read then sectorsOf h.first h.count else []) else t.onMedia fun m => { m with held := m.held.erase h })) _
    refine (congrArg Media.regions trimmed).trans ?_
    obtain ⟨blk, replied⟩ := blkReply_media (if st == .ok then (t.onMedia fun m => { m with held := m.held.erase h }).touch h.unit
        (if h.op = .read then sectorsOf h.first h.count else []) else t.onMedia fun m => { m with held := m.held.erase h })
      h.domain h.mac (blkReplyBytes blkRequestType h.unit.val h.op.code h.count h.tag h.first st
        (if st == .ok then t.media.readData h.unit (if h.op = .read then sectorsOf h.first h.count else []) else [])) st
    refine (congrArg Media.regions replied).trans ?_
    split <;> rfl
  unfold State.endHeldWhere
  generalize s.media.held.filter p = hs
  induction hs generalizing s with
  | nil => rfl
  | cons h hs ih => exact (ih _).trans (each s h)

/-! ### The lines of an ended FLUSH -/

section Flush
variable {s : State} {e : Fin 16} {g : Fin 4} {x : Nat} {l : CacheLine}

theorem acknowledge_of_none (none : s.media.findLine g x = none) : s.acknowledge e (g, x) = s := by rw [State.acknowledge, none]

theorem returnDirty_of_none (none : s.media.findLine g x = none) : s.returnDirty e (g, x) = s := by rw [State.returnDirty, none]

theorem returnDirty_of_covered (here : s.media.findLine g x = some l) (covered : l.coveredBy e = true) : s.returnDirty e (g, x) =
    (s.onLineOf g x fun l => { l with cond := .dirty }).onMedia fun m => { m with dirtyOrder := m.dirtyOrder ++ [(g, x)] } := by
  rw [State.returnDirty, here]
  exact if_pos covered

theorem acknowledge_of_flushing (here : s.media.findLine g x = some l) (flushing : l.cond = .flushing e) :
    s.acknowledge e (g, x) = (s.onLineOf g x fun l => { l with cond := .clean }).trimExcess := by
  rw [State.acknowledge, here]
  exact if_pos flushing

theorem acknowledge_of_redirtied (here : s.media.findLine g x = some l) (redirtied : l.cond = .redirtied e) :
    s.acknowledge e (g, x) = s.returnDirty e (g, x) := by
  rw [State.acknowledge, here]
  exact (if_neg (by rw [redirtied]; exact nofun)).trans (if_pos redirtied)

theorem acknowledge_of_other (here : s.media.findLine g x = some l) (notFlushing : l.cond ≠ .flushing e)
    (notRedirtied : l.cond ≠ .redirtied e) : s.acknowledge e (g, x) = s := by
  rw [State.acknowledge, here]
  exact (if_neg notFlushing).trans (if_neg notRedirtied)

end Flush

/-! ### Failures and completions of a region -/

section Region
variable {s : State} {g : Fin 4}

theorem countFailure_of_attached (attached : (s.media.regions[g]).state = .attached) : s.countFailure g =
    if 4 ≤ (s.media.regions[g]).failures + 1 then
      (s.onRegion g fun r => { r with failures := r.failures + 1 }).faultRegion g
    else s.onRegion g fun r => { r with failures := r.failures + 1 } := by
  rw [State.countFailure, attached]
  rfl

theorem countFailure_of_detaching (detaching : (s.media.regions[g]).state = .detaching) : s.countFailure g =
    if 4 ≤ (s.media.regions[g]).failures + 1 then
      ((s.onRegion g fun r => { r with failures := r.failures + 1 }).discardDirty g).becomeDetached g
    else s.onRegion g fun r => { r with failures := r.failures + 1 } := by
  rw [State.countFailure, detaching]
  rfl

theorem countFailure_of_other (notAttached : (s.media.regions[g]).state ≠ .attached) (notDetaching : (s.media.regions[g]).state ≠ .detaching) :
    s.countFailure g = s := by
  unfold State.countFailure
  dsimp only
  split
  · rename_i h; exact absurd h notAttached
  · rename_i h; exact absurd h notDetaching
  · rfl

theorem countCompletion_of_serving (serving : (s.media.regions[g]).state ≠ .faulted) : s.countCompletion g =
    s.onRegion g fun r => { r with failures := 0 } := by
  have count : (if (s.media.regions[g]).state = .faulted then (s.media.regions[g]).failures else 0) = 0 := if_neg serving
  show s.onRegion g (fun r => { r with failures := if r.state = .faulted then r.failures else 0 }) = _
  exact congrArg (fun n => { s with media := { s.media with regions := s.media.regions.set g { s.media.regions[g] with failures := n } } })
    count

theorem countCompletion_of_faulted (faulted : (s.media.regions[g]).state = .faulted) :
    (s.countCompletion g).media.regions = s.media.regions := by
  show s.media.regions.set g { s.media.regions[g] with
    failures := if (s.media.regions[g]).state = .faulted then (s.media.regions[g]).failures else 0 } = _
  rw [if_pos faulted]
  exact Vector.set_getElem_self ..

end Region

end Sys2Proof.Machine
end

section
/-! Image answers taken, and the ends of transfers, put together (R97 to R131). -/

namespace Sys2Proof.Machine

section
variable {s : State} {e : Fin 16} {t : Transfer}

theorem sectors_pairs (g : Fin 4) (first count : Nat) : (sectorsOf first count).map (g, ·) = (List.range count).map fun i => (g, first + i) := by
  rw [sectorsOf, List.map_map]
  rfl

theorem joined_of_some (some : ∃ l ∈ s.media.lines, l.cond = .redirtied e) : (s.media.lines.any fun l => l.cond == .redirtied e) = true := by
  simpa only [List.any_eq_true, beq_iff_eq] using some

theorem joined_of_none (none : ∀ l ∈ s.media.lines, l.cond ≠ .redirtied e) : (s.media.lines.any fun l => l.cond == .redirtied e) = false := by
  simpa only [List.any_eq_false, beq_iff_eq] using none

/-- What ends a FLUSH that is acknowledged. -/
theorem ackAnswered_of_granted {p : List Byte} (granted : imgStatus p = 0) : s.ackAnswered e t p =
    (((((((List.range t.count).map fun i => (t.region, t.first + i)).foldl (State.acknowledge e) s).runJoined
      (s.media.lines.any fun l => l.cond == .redirtied e)).freeEntry e).onXfer fun c => { c with
        flushDone := c.flushDone + 1 }).countCompletion t.region).settleRegion t.region := by
  rw [← sectors_pairs]
  exact if_neg (not_not_intro granted)

theorem failFlush_of_joined (some : ∃ l ∈ s.media.lines, l.coveredBy e = true) (few : (s.media.regions[t.region]).failures < 3) :
    s.failFlush e t = (((((((sectorsOf t.first t.count).map (t.region, ·)).foldl (State.returnDirty e) s).runFlushes).setError t.region
      .flushFailed (Option.some t.first)).onXfer fun c => { c with flushFailed := c.flushFailed + 1 }).freeEntry e).countFailure t.region := by
  have joined : (s.media.lines.any (CacheLine.coveredBy e) && decide ((s.media.regions[t.region]).failures + 1 < Config.failureLimit)) = true :=
    Bool.and_eq_true_iff.mpr ⟨List.any_eq_true.mpr some, decide_eq_true (Nat.succ_lt_succ few)⟩
  simp only [State.failFlush, joined]
  rfl

theorem failFlush_of_unjoined (none : (∀ l ∈ s.media.lines, l.coveredBy e = false) ∨ 3 ≤ (s.media.regions[t.region]).failures) :
    s.failFlush e t = ((((((sectorsOf t.first t.count).map (t.region, ·)).foldl (State.returnDirty e) s).setError t.region
      .flushFailed (Option.some t.first)).onXfer fun c => { c with flushFailed := c.flushFailed + 1 }).freeEntry e).countFailure t.region := by
  have unjoined : (s.media.lines.any (CacheLine.coveredBy e) && decide ((s.media.regions[t.region]).failures + 1 < Config.failureLimit)) = false := by
    rw [Bool.and_eq_false_iff]
    refine none.imp (fun uncovered => ?_) fun many => decide_eq_false (Nat.not_lt.mpr (Nat.succ_le_succ many))
    simpa only [List.any_eq_false, Bool.not_eq_true] using uncovered
  simp only [State.failFlush, unjoined]
  rfl

end

/-- Settles O50: the bytes, then each function by its cases. -/
theorem imageAnswersEndTransfers : Obligations.ImageAnswersEndTransfers := by
  refine ⟨fun l e => coveredBy_iff, fun m ty rest port bytes => ⟨?_, ?_, ?_, ?_, command_of_otherType port bytes⟩,
    fun ty index gen i0 i1 i2 i3 st b c0 c1 c2 c3 rest => ?_, fun n x0 x1 x2 x3 data rest length => ⟨rfl, imgSectors_succ length⟩,
    fun s m rest c queue command => ?_, fun s e t x data use => ⟨takeSector_of_outside use, takeSector_of_received use, ?_⟩,
    fun s e t => ⟨judgeAttempt_of_more, fun last => ⟨?_, ?_, ?_⟩, rfl⟩, fun s p => ⟨freeLines_of_nobody, freeLines_of_some⟩,
    fun s p st => rfl, fun s h st => ?_, sectorArrived_eq, fun s e g x => ?_, fun s e t => ?_, fun s g => ?_, fun s g => ?_, fun s e => ?_,
    fun s mac d bytes st => ?_, fun n => ⟨rfl, rfl, rfl, rfl, rfl, rfl, rfl, rfl⟩, fun type unit op count first tag st body => rfl,
    fun s g => ?_⟩
  · rintro rfl
    exact command_of_info port bytes
  · rintro rfl short
    exact (command_of_data port bytes).trans (if_pos (by omega))
  · rintro rfl head st n sectors fields length
    exact command_of_dataFields port bytes fields length
  · rintro rfl
    exact command_of_ack port bytes
  · intro head
    exact ⟨⟨beNat_singleton index, (congrArg (BitVec.ofNat 8) (beNat_singleton gen)).trans (BitVec.ofNat_toNat ..),
      (congrArg (BitVec.ofNat 32) (beNat_four i0 i1 i2 i3)).trans (BitVec.ofNat_toNat ..), beNat_singleton st⟩, beNat_singleton b, rfl,
      beNat_four c0 c1 c2 c3⟩
  · intro p taken
    refine ⟨fun malformed => ?_, fun kind of => ?_⟩
    · subst malformed
      exact congrArg Host.Outcome.next (takeMedia_of_head queue command _)
    · intro fits
      refine ⟨fun stale => ?_, fun e t fit => ?_⟩
      · rcases of with ⟨rfl, rfl⟩ | ⟨rfl, rfl⟩ | ⟨rfl, rfl⟩ <;>
          exact congrArg Host.Outcome.next (takeAnswer_of_stale queue command stale)
      · intro freed g
        have info (is : c = .imgInfo) : exec c s = taken (s.inquiryAnswered e t p) := by
          rcases of with ⟨rfl, rfl⟩ | ⟨rfl, rfl⟩ | ⟨rfl, rfl⟩
          · exact congrArg Host.Outcome.next (takeAnswer_of_fits queue command fit)
          · exact nomatch is
          · exact nomatch is
        have data (is : c = .imgData) : exec c s = taken (s.dataAnswered e t p) := by
          rcases of with ⟨rfl, rfl⟩ | ⟨rfl, rfl⟩ | ⟨rfl, rfl⟩
          · exact nomatch is
          · exact congrArg Host.Outcome.next (takeAnswer_of_fits queue command fit)
          · exact nomatch is
        have ack (is : c = .imgWriteAck) : exec c s = taken (s.ackAnswered e t p) := by
          rcases of with ⟨rfl, rfl⟩ | ⟨rfl, rfl⟩ | ⟨rfl, rfl⟩
          · exact nomatch is
          · exact nomatch is
          · exact congrArg Host.Outcome.next (takeAnswer_of_fits queue command fit)
        refine ⟨fun notInfo refused => ?_, fun is refused => (info is).trans (congrArg taken (if_pos refused)), fun is granted bad => ?_,
          fun is granted least most => ?_, fun is granted => ?_, fun is granted => ?_⟩
        · rcases of with ⟨is, -⟩ | ⟨is, -⟩ | ⟨is, -⟩
          · exact absurd is notInfo
          · exact (data is).trans (congrArg taken (if_pos refused))
          · exact (ack is).trans (congrArg taken (if_pos refused))
        · exact (info is).trans (congrArg taken ((if_neg (not_not_intro granted)).trans (if_pos bad)))
        · exact (info is).trans (congrArg taken ((if_neg (not_not_intro granted)).trans (if_neg (by omega))))
        · exact (data is).trans (congrArg taken (if_neg (not_not_intro granted)))
        · intro cleaned ended
          have run := (ack is).trans (congrArg taken (ackAnswered_of_granted (t := t) granted))
          refine ⟨fun some => ?_, fun none => ?_⟩
          · rw [joined_of_some some] at run
            exact run
          · rw [joined_of_none none] at run
            exact run
  · intro least most fresh received
    refine ⟨takeSector_of_unfilled use least most fresh, fun l here filling => ?_⟩
    rw [takeSector_of_filling use least most fresh here filling, onLineOf_eq]
    rfl
  · exact fun kind => (judgeAttempt_of_last last).trans (failTransfer_of_fetch kind)
  · exact fun kind => (judgeAttempt_of_last last).trans (failTransfer_of_flush kind)
  · exact fun kind => (judgeAttempt_of_last last).trans (failTransfer_of_inquire kind)
  · intro xs freed bytes
    refine ⟨fun ok => ?_, fun notOk => (endHeld_of_notOk notOk s h).trans ?_⟩
    · subst ok
      refine (endHeld_of_ok s h xs ?_).trans ?_
      · simp only [xs]
        cases h.op <;> rfl
      · simp only [bytes]
        cases h.op <;> rfl
    · simp only [bytes]
      cases h.op <;> rfl
  · intro put join
    have isPut (c : LineCond) : (s.onLineOf g x fun l => { l with cond := c }) = put c := onLineOf_eq ..
    refine ⟨fun none => ⟨acknowledge_of_none none, returnDirty_of_none none⟩, fun l here => ⟨fun flushing => ⟨?_, ?_⟩, fun redirtied => ⟨?_, ?_⟩,
      acknowledge_of_other here⟩⟩
    · rw [acknowledge_of_flushing here flushing, isPut]
    · rw [returnDirty_of_covered here (coveredBy_iff.mpr (.inr (.inl flushing))), isPut]
    · rw [acknowledge_of_redirtied here redirtied, returnDirty_of_covered here (coveredBy_iff.mpr (.inr (.inr redirtied))), isPut]
    · rw [returnDirty_of_covered here (coveredBy_iff.mpr (.inr (.inr redirtied))), isPut]
  · intro g xs error
    refine ⟨?_, ?_, fun c => rfl⟩
    · rw [← missing_head?]
      rfl
    · intro returned ended
      refine ⟨fun some few => ?_, fun none => ?_⟩
      · exact (failFlush_of_joined some few).trans (by rw [sectors_pairs]; rfl)
      · exact (failFlush_of_unjoined none).trans (by rw [sectors_pairs]; rfl)
  · intro r failed
    refine ⟨fun attached few => ?_, fun attached many => ?_, fun detaching few => ?_, fun detaching many => ?_, countFailure_of_other,
      countCompletion_of_serving, countCompletion_of_faulted⟩
    · exact (countFailure_of_attached attached).trans (if_neg (Nat.not_le.mpr (Nat.succ_lt_succ few)))
    · exact (countFailure_of_attached attached).trans (if_pos (Nat.succ_le_succ many))
    · exact (countFailure_of_detaching detaching).trans (if_neg (Nat.not_le.mpr (Nat.succ_lt_succ few)))
    · exact (countFailure_of_detaching detaching).trans (if_pos (Nat.succ_le_succ many))
  · intro own faulted
    refine ⟨rfl, fun k => ?_, ?_, rfl⟩
    · rw [State.cancelFetches, entriesOf_eq]
    · rw [State.discardDirty, entriesOf_eq]
      rfl
  · exact ⟨fun none => by rw [State.completeFetch, none], fun t use => ⟨completeFetch_of_all use, completeFetch_of_missing use⟩⟩
  · intro counted f offered
    have replied := blkReply_eq s mac d bytes st
    rw [builtFrame_eq] at replied
    exact ⟨fun got => replied.trans (if_pos got), fun failed => replied.trans (if_neg (ne_true_of_eq_false failed))⟩
  · intro synced
    have regions : synced.media.regions = s.media.regions := endHeldWhere_regions ..
    refine ⟨fun dirty => if_neg dirty, fun clean detaching => ?_, fun clean other => ?_⟩
    · exact (if_pos clean).trans (if_pos (by rw [show _ = s.media.regions from regions]; exact detaching))
    · exact (if_pos clean).trans (if_neg (by rw [show _ = s.media.regions from regions]; exact other))

end Sys2Proof.Machine
end

section
/-! Transfers issued, timed and rescanned (R112, R118 to R124, R133). -/

namespace Sys2Proof.Machine

/-! ### The issue of a transfer -/

section Issue
variable {s : State} {e : Fin 16} {rest : List (Fin 16)} {t : Transfer} {d : Fin 16}

theorem requestBytes_spelled {code : Byte} {fields : List Byte} (inquire : t.kind = .inquire → code = 0x10 ∧ fields = [])
    (fetch : t.kind = .fetch → code = 0x12 ∧ fields = natBytes 4 t.asked.1 ++ natBytes 1 t.asked.2)
    (flush : t.kind = .flush → code = 0x14 ∧ fields = natBytes 1 t.count ++ ((List.range t.count).map fun i =>
      natBytes 4 (t.first + i) ++ s.media.sectorData t.region (t.first + i)).flatten) :
    s.media.requestBytes e t = [code, BitVec.ofNat 8 e.val, (s.media.table[e]).gen] ++
      natBytes 4 (s.media.regions[t.region]).cfg.imageId.toNat ++ fields := by
  have gen : BitVec.ofNat 8 ((s.media.table[e]).gen).toNat = (s.media.table[e]).gen := BitVec.ofNat_toNat ..
  have header (n : Nat) : imgHeader n e (s.media.table[e]).gen (s.media.regions[t.region]).cfg.imageId =
      [BitVec.ofNat 8 n, BitVec.ofNat 8 e.val, (s.media.table[e]).gen] ++ natBytes 4 (s.media.regions[t.region]).cfg.imageId.toNat := by
    show [BitVec.ofNat 8 n, BitVec.ofNat 8 e.val, BitVec.ofNat 8 ((s.media.table[e]).gen).toNat] ++ _ = _
    rw [gen]
  rw [Media.requestBytes]
  cases kind : t.kind with
  | inquire =>
    obtain ⟨rfl, rfl⟩ := inquire kind
    exact (header _).trans (List.append_nil _).symm
  | fetch =>
    obtain ⟨rfl, rfl⟩ := fetch kind
    simp only [header, List.append_assoc]
    rfl
  | flush =>
    obtain ⟨rfl, rfl⟩ := flush kind
    simp only [header, List.append_assoc, sectorsOf, List.map_map]
    rfl

/-- The head of the issue list has left it. -/
def State.issuedOne (s : State) (rest : List (Fin 16)) : State := s.onMedia fun m => { m with issue := rest, issueWaiting := false }

variable (queue : s.media.issue = e :: rest) (use : (s.media.table[e]).use = some t)
  (domain : (s.media.regions[t.region]).cfg.domain = d.val)
include queue use domain

theorem transferIssue_of_placed {u : State} (placed : (s.issuedOne rest).placeOut .media (s.requestFrame e t d) = some u) :
    s.transferIssue = u := by
  have issued : s.onMedia Media.issued = s.issuedOne rest := by
    rw [State.issuedOne, State.onMedia, Media.issued, queue]
    rfl
  rw [State.transferIssue, queue]
  simp only [use, domain, idx?_val, issued, placed]

theorem transferIssue_of_full (full : (s.issuedOne rest).placeOut .media (s.requestFrame e t d) = none) : s.transferIssue =
    if s.media.issueWaiting = true then s
    else s.onMedia fun m => { m with issueWaiting := true, xfer := { m.xfer with issueWait := m.xfer.issueWait + 1 } } := by
  have issued : s.onMedia Media.issued = s.issuedOne rest := by
    rw [State.issuedOne, State.onMedia, Media.issued, queue]
    rfl
  rw [State.transferIssue, queue]
  simp only [use, domain, idx?_val, issued, full]
  rfl

end Issue

theorem transferIssue_of_nothing {s : State} (nothing : s.media.issue = []) : s.transferIssue = s := by rw [State.transferIssue, nothing]

/-! ### Deadlines -/

section Deadlines
variable {s : State} {e : Fin 16} {t : Transfer} {k : Nat} {h : Held} {d : Time}

theorem transferDeadline_of_undated (undated : ∀ t, (s.media.table[e]).use = some t → t.deadline = none) : s.transferDeadline e = s := by
  unfold State.transferDeadline
  split
  · rfl
  · rename_i t use
    rw [undated t use]

theorem transferDeadline_of_dated (use : (s.media.table[e]).use = some t) (dated : t.deadline = some d) : s.transferDeadline e =
    if (s.clock.now - d).toNat < 2 ^ 47 then (s.onXfer fun n => { n with timeouts := n.timeouts + 1 }).judgeAttempt e t else s := by
  rw [State.transferDeadline, use]
  dsimp only
  rw [dated]
  exact if_congr reached_iff rfl rfl

theorem heldDeadline_of_beyond (beyond : s.media.held.length ≤ k) : s.heldDeadline k = s := by
  rw [State.heldDeadline, List.getElem?_eq_none beyond]

theorem heldDeadline_of_held (here : s.media.held[k]? = some h) : s.heldDeadline k =
    if (s.clock.now - h.deadline).toNat < 2 ^ 47 then (s.onBlk fun n => { n with heldExpired := n.heldExpired + 1 }).endHeld .notReady h
    else s := by
  rw [State.heldDeadline, here]
  exact if_congr reached_iff rfl rfl

end Deadlines

/-! ### What a FETCH asks for -/

section Asked
variable {t : Transfer} {first last : Nat}

theorem le_getLast_of_sorted {xs : List Nat} (some : xs ≠ []) (sorted : xs.Pairwise (· ≤ ·)) {x : Nat} (member : x ∈ xs) :
    x ≤ xs.getLast some := by
  have parts := List.dropLast_concat_getLast some
  rw [← parts, List.pairwise_append] at sorted
  obtain ⟨-, -, before⟩ := sorted
  rw [← parts] at member
  rcases List.mem_append.mp member with early | last
  · exact before x early _ List.mem_cons_self
  · exact Nat.le_of_eq (List.mem_singleton.mp last)

theorem mem_missing {x : Nat} : x ∈ t.missing ↔ t.first ≤ x ∧ x < t.first + t.count ∧ x ∉ t.received := by
  simp only [Transfer.missing, sectorsOf, List.mem_filter, List.mem_map, List.mem_range, Bool.not_eq_true', Bool.eq_false_iff, ne_eq,
    List.contains_iff_mem]
  constructor
  · rintro ⟨⟨i, bound, rfl⟩, fresh⟩
    exact ⟨Nat.le_add_right .., by omega, fresh⟩
  · rintro ⟨least, most, fresh⟩
    exact ⟨⟨x - t.first, by omega, by omega⟩, fresh⟩

theorem missing_sorted (t : Transfer) : t.missing.Pairwise (· ≤ ·) := by
  refine List.Pairwise.filter _ (List.pairwise_map.mpr ?_)
  exact List.pairwise_le_range.imp fun le => Nat.add_le_add_left le _

theorem span_eq (hasFirst : first ∈ t.missing) (hasLast : last ∈ t.missing) (between : ∀ x ∈ t.missing, first ≤ x ∧ x ≤ last) :
    t.span = (first, last + 1 - first) := by
  have sorted := missing_sorted t
  unfold Transfer.span
  split
  · rename_i none
    rw [none] at hasFirst
    cases hasFirst
  · rename_i a more listed
    rw [listed] at hasFirst hasLast between sorted
    have head : a = first := Nat.le_antisymm
      ((List.mem_cons.mp hasFirst).elim (fun same => Nat.le_of_eq same.symm) ((List.pairwise_cons.mp sorted).1 first)) (between a List.mem_cons_self).1
    have tail : (a :: more).getLast (by simp) = last := Nat.le_antisymm (between _ (List.getLast_mem _)).2 (le_getLast_of_sorted _ sorted hasLast)
    rw [tail, head]

end Asked

/-! ### The rescan and the flush scheduler -/

section Scan
variable {s : State} {n : Nat} {e : Fin 16} {g : Fin 4} {x : Nat}

theorem takeInquiries_of_idle (idle : s.media.waitingInquiries = [] ∨ s.media.freeEntry = none) : s.takeInquiries (n + 1) = s := by
  unfold State.takeInquiries
  split
  · rename_i d rest e waiting free
    exact idle.elim (fun none => nomatch none.symm.trans waiting) fun none => nomatch none.symm.trans free
  · rfl

theorem takeInquiries_of_free {rest : List (Fin 4)} (waiting : s.media.waitingInquiries = g :: rest) (free : s.media.freeEntry = some e) :
    s.takeInquiries (n + 1) =
      State.takeInquiries n ((s.onMedia fun m => { m with waitingInquiries := rest }).allocate .inquire g 0 0 e) := by
  rw [State.takeInquiries, waiting, free]

theorem serviceable_iff : s.serviceable g = true ↔ (s.media.regions[g]).state = .attached ∨ (s.media.regions[g]).state = .detaching := by
  simp only [State.serviceable, Bool.or_eq_true, beq_iff_eq]

theorem flushN_of_idle (idle : s.media.fillWaiting = true ∨ s.media.waitingInquiries ≠ [] ∨ s.media.freeEntry = none ∨
    (s.media.dirtyOrder.find? fun d => s.serviceable d.1) = none) : s.flushN (n + 1) = s := by
  unfold State.flushN
  split
  · rfl
  · rename_i nobody
    rw [Bool.or_eq_true, not_or, Bool.not_eq_true', Bool.not_eq_false, List.isEmpty_iff] at nobody
    split
    · rename_i free first
      rcases idle with fills | waits | none | none
      · exact absurd fills nobody.1
      · exact absurd nobody.2 waits
      · exact nomatch none.symm.trans free
      · exact nomatch none.symm.trans first
    · rfl

theorem flushN_of_first (noFill : s.media.fillWaiting = false) (noInquiry : s.media.waitingInquiries = []) (free : s.media.freeEntry = some e)
    (first : (s.media.dirtyOrder.find? fun d => s.serviceable d.1) = some (g, x)) : s.flushN (n + 1) = (s.startFlush e g x).flushN n := by
  rw [State.flushN, noFill, noInquiry, free, first]
  rfl

theorem startFlush_two {l : CacheLine} (next : s.media.findLine g (x + 1) = some l) (dirty : l.cond = .dirty) :
    s.startFlush e g x = s.onMedia fun m => { m with
      lines := m.lines.map fun l => if l.region = g ∧ l.sector ∈ [x, x + 1] then { l with cond := .flushing e } else l
      dirtyOrder := m.dirtyOrder.filter fun d => !(d.1 == g && [x, x + 1].contains d.2)
      table := m.table.set e ⟨(m.table[e]).gen + 1, some ⟨.flush, g, x, 2, [], 1, none⟩⟩
      issue := m.issue ++ [e], xfer := { m.xfer with flushesStarted := m.xfer.flushesStarted + 1 } } := by
  have two : (l.cond == LineCond.dirty) = true := beq_iff_eq.mpr dirty
  have lines : (fun l : CacheLine => if (l.region == g && [x, x + 1].contains l.sector) = true then { l with cond := .flushing e } else l) =
      fun l => if l.region = g ∧ l.sector ∈ [x, x + 1] then { l with cond := .flushing e } else l :=
    funext fun l => if_congr (by simp only [Bool.and_eq_true, beq_iff_eq, List.contains_iff_mem]) rfl rfl
  rw [← lines]
  simp only [State.startFlush, next, two]
  rfl

theorem startFlush_one (next : ∀ l, s.media.findLine g (x + 1) = some l → l.cond ≠ .dirty) :
    s.startFlush e g x = s.onMedia fun m => { m with
      lines := m.lines.map fun l => if l.region = g ∧ l.sector ∈ [x] then { l with cond := .flushing e } else l
      dirtyOrder := m.dirtyOrder.filter fun d => !(d.1 == g && [x].contains d.2)
      table := m.table.set e ⟨(m.table[e]).gen + 1, some ⟨.flush, g, x, 1, [], 1, none⟩⟩
      issue := m.issue ++ [e], xfer := { m.xfer with flushesStarted := m.xfer.flushesStarted + 1 } } := by
  have lines : (fun l : CacheLine => if (l.region == g && [x].contains l.sector) = true then { l with cond := .flushing e } else l) =
      fun l => if l.region = g ∧ l.sector ∈ [x] then { l with cond := .flushing e } else l :=
    funext fun l => if_congr (by simp only [Bool.and_eq_true, beq_iff_eq, List.contains_iff_mem]) rfl rfl
  rw [← lines]
  cases found : s.media.findLine g (x + 1) with
  | none =>
    simp only [State.startFlush, found]
    rfl
  | some l =>
    have one : (l.cond == LineCond.dirty) = false := beq_eq_false_iff_ne.mpr (next l found)
    simp only [State.startFlush, found, one]
    rfl

theorem rescanHeld_eq : s.rescanHeld = (s.media.held.filter fun h => h.op == .read).foldl
    (fun t h => h.awaiting.foldl (fun t x =>
      if (t.ensureFill h.unit x).1 = true then (t.ensureFill h.unit x).2.onMedia fun m => { m with fillWaiting := true }
      else (t.ensureFill h.unit x).2) t) (s.onMedia fun m => { m with fillWaiting := false }) := by
  rw [List.foldl_filter]
  simp only [beq_iff_eq]
  rfl

end Scan

/-- Settles O51: issue, deadlines, rescans and the scheduler, each by its cases. -/
theorem transfersIssuedAndTimed : Obligations.TransfersIssuedAndTimed := by
  refine ⟨fun s nothing => congrArg Host.Outcome.next (transferIssue_of_nothing nothing), fun s e rest t d queue use domain => ?_,
    fun s e => ⟨fun undated => congrArg Host.Outcome.next (transferDeadline_of_undated undated), fun t d use dated => ⟨fun early => ?_, fun due => ?_⟩⟩,
    fun s k => ⟨fun beyond => congrArg Host.Outcome.next (heldDeadline_of_beyond beyond), fun h here => ⟨fun early => ?_, fun due => ?_⟩⟩,
    fun s => ⟨fun none => ?_, fun n some => ?_⟩, fun t => ⟨fun fresh => if_pos fresh, fun first last retried least order most hasFirst hasLast between => ?_⟩,
    fun s n => ?_, fun s e g x xs pair => ?_, fun s => rescanHeld_eq⟩
  · intro cfg gen issued code fields inquire fetch flush f
    have frame : s.requestFrame e t d = f := by
      rw [State.requestFrame, requestBytes_spelled inquire fetch flush]
      rfl
    rw [← frame]
    refine ⟨fun u placed => congrArg Host.Outcome.next (transferIssue_of_placed queue use domain placed), fun full waits => ?_, fun full fresh => ?_⟩
    · exact congrArg Host.Outcome.next ((transferIssue_of_full queue use domain full).trans (if_pos waits))
    · exact congrArg Host.Outcome.next ((transferIssue_of_full queue use domain full).trans (if_neg (ne_true_of_eq_false fresh)))
  · exact congrArg Host.Outcome.next ((transferDeadline_of_dated use dated).trans (if_neg (Nat.not_lt.mpr early)))
  · exact congrArg Host.Outcome.next ((transferDeadline_of_dated use dated).trans (if_pos due))
  · exact congrArg Host.Outcome.next ((heldDeadline_of_held here).trans (if_neg (Nat.not_lt.mpr early)))
  · refine congrArg Host.Outcome.next (((heldDeadline_of_held here).trans (if_pos due)).trans ((endHeld_of_notOk (st := .notReady) nofun ..).trans ?_))
    cases h.op <;> rfl
  · refine congrArg Host.Outcome.next (?_ : s.resourceRescan = s)
    rw [State.resourceRescan, none]
  · refine congrArg Host.Outcome.next (?_ : s.resourceRescan = _)
    rw [State.resourceRescan, some]
    rfl
  · refine (if_neg retried).trans (span_eq (mem_missing.mpr ⟨least, by omega, hasFirst⟩) (mem_missing.mpr ⟨by omega, most, hasLast⟩) ?_)
    intro x missing
    obtain ⟨atLeast, atMost, fresh⟩ := mem_missing.mp missing
    exact between x atLeast atMost fresh
  · intro lowestFree
    refine ⟨fun idle => takeInquiries_of_idle (idle.imp_right freeEntry_eq_none_iff.mpr),
      fun g rest e waiting free => takeInquiries_of_free waiting (freeEntry_eq_some_iff.mpr free),
      fun e g x before after noFill noInquiry free order skipped serves => flushN_of_first noFill noInquiry (freeEntry_eq_some_iff.mpr free) ?_,
      fun idle => flushN_of_idle ?_, rfl⟩
    · refine List.find?_eq_some_iff_append.mpr ⟨serviceable_iff.mpr serves, before, after, order, fun d here => ?_⟩
      rw [Bool.not_eq_true', Bool.eq_false_iff, ne_eq, serviceable_iff, not_or]
      exact skipped d here
    · refine idle.imp_right (Or.imp_right (Or.imp freeEntry_eq_none_iff.mpr fun none => List.find?_eq_none.mpr fun d here => ?_))
      rw [serviceable_iff, not_or]
      exact none d here
  · rcases pair with ⟨rfl, l, next, dirty⟩ | ⟨rfl, next⟩
    · exact startFlush_two next dirty
    · exact startFlush_one next

end Sys2Proof.Machine
end

section
/-! Power requests started, queued, displaced or refused, and the records of the script engine (R152, R158 to R164). -/

namespace Sys2Proof.Machine

/-! ### Starting a request -/

/-- The running script, and the notice of its start, before its first step is begun (R152). -/
def State.begun (s : State) (q : Request) : State :=
  State.raiseNotice (.scriptStart q.script q.source q.prio) (s.onScript fun e => { e with
    running := some ⟨q.script, q.source, q.prio, (s.script.dir[q.script]).preemptible, s.clock.now, 0, ⟨0, 0, 0, 0⟩, [], .acting⟩
    cnt := { e.cnt with started := e.cnt.started + 1 } })

section Start
variable {s : State} {q : Request}

theorem startCore_of_valid (valid : (s.script.dir[q.script]).valid = true) :
    s.startCore q = (s.begun q).beginStep stepFuel (s.script.dir[q.script]).first := if_pos valid

theorem startCore_of_invalid (invalid : (s.script.dir[q.script]).valid = false) :
    s.startCore q = (s.begun q, some (.fault, 0)) := if_neg (ne_true_of_eq_false invalid)

theorem startRequest_of_valid (valid : (s.script.dir[q.script]).valid = true) :
    s.startRequest q = (s.begun q).goTo (s.script.dir[q.script]).first := congrArg State.settle (startCore_of_valid valid)

theorem startRequest_of_invalid (invalid : (s.script.dir[q.script]).valid = false) :
    s.startRequest q = (s.begun q).finishScript .fault 0 := congrArg State.settle (startCore_of_invalid invalid)

end Start

/-! ### The queue -/

/-- Where the queue stands by priority, a request is inserted after all of higher or equal priority (R159). -/
theorem insertRequest_of_sorted (r : Request) {l : List Request} (sorted : l.Pairwise fun a b => b.prio ≤ a.prio) :
    insertRequest r l = (l.filter fun x => decide (r.prio ≤ x.prio)) ++ r :: l.filter fun x => decide (x.prio < r.prio) := by
  induction l with
  | nil => rfl
  | cons x l ih =>
    obtain ⟨below, sorted⟩ := List.pairwise_cons.mp sorted
    by_cases higher : r.prio ≤ x.prio
    · rw [insertRequest, if_pos higher, ih sorted, List.filter_cons_of_pos (by simpa using higher),
        List.filter_cons_of_neg (by simpa using higher)]
      rfl
    · have lower : ∀ y ∈ x :: l, y.prio < r.prio := by
        intro y here
        rcases List.mem_cons.mp here with rfl | behind
        · exact Nat.not_le.mp higher
        · exact Nat.lt_of_le_of_lt (below y behind) (Nat.not_le.mp higher)
      have noneAbove : ((x :: l).filter fun y => decide (r.prio ≤ y.prio)) = [] :=
        List.filter_eq_nil_iff.mpr fun y here => by simpa using lower y here
      have allBelow : ((x :: l).filter fun y => decide (y.prio < r.prio)) = x :: l :=
        List.filter_eq_self.mpr fun y here => by simpa using lower y here
      rw [insertRequest, if_neg higher, noneAbove, allBelow]
      rfl

section Queue
variable {s : State} {q : Request}

/-- The queue entry asks for the same script from the same source (R162). -/
def Request.Same (q x : Request) : Prop := x.script = q.script ∧ x.source = q.source

theorem same_iff {x : Request} : (x.script == q.script && x.source == q.source) = true ↔ q.Same x := by
  simp only [Request.Same, Bool.and_eq_true, beq_iff_eq]

theorem samePlace_of_first {before behind : List Request} {x : Request} {l : List Request} (order : l = before ++ x :: behind)
    (others : ∀ y ∈ before, ¬ q.Same y) (same : q.Same x) : samePlace q l = some before.length := by
  subst order
  have none : (before.findIdx? fun e => e.script == q.script && e.source == q.source) = none :=
    List.findIdx?_eq_none_iff.mpr fun y here => Bool.eq_false_iff.mpr (mt same_iff.mp (others y here))
  have first : ((x :: behind).findIdx? fun e => e.script == q.script && e.source == q.source) = some 0 := by
    rw [List.findIdx?_cons, if_pos (same_iff.mpr same)]
  rw [samePlace, List.findIdx?_append, none, first]
  simp

theorem samePlace_of_none {l : List Request} (others : ∀ y ∈ l, ¬ q.Same y) : samePlace q l = none :=
  List.findIdx?_eq_none_iff.mpr fun y here => Bool.eq_false_iff.mpr (mt same_iff.mp (others y here))

theorem preempts_iff {c : Running} : q.preempts c = true ↔ q.preempt = true ∧ c.prio < q.prio ∧ c.preemptible = true := by
  simp only [Request.preempts, Bool.and_eq_true, decide_eq_true_eq, and_assoc]

theorem enqueue_of_sorted (sorted : s.script.queue.Pairwise fun a b => b.prio ≤ a.prio) : s.enqueue q = s.onScript fun x => { x with
    queue := (x.queue.filter fun x => decide (q.prio ≤ x.prio)) ++ q :: x.queue.filter fun x => decide (x.prio < q.prio)
    cnt := { x.cnt with queued := x.cnt.queued + 1 } } := by
  rw [State.enqueue, State.onScript, insertRequest_of_sorted q sorted]
  rfl

theorem queueRequest_of_same {n : Nat} (place : samePlace q s.script.queue = some n) : s.queueRequest q =
    (.coalesced n, s.onScriptCnt fun c => { c with coalesced := c.coalesced + 1 }) := by
  rw [State.queueRequest, place]

theorem queueRequest_of_room (fresh : samePlace q s.script.queue = none) (room : s.script.queue.length < 8) : s.queueRequest q =
    (.queued (requestPosition q s.script.queue), s.enqueue q) := by
  rw [State.queueRequest, fresh]
  exact if_pos room

theorem queueRequest_of_full {higher : List Request} {low : Request} (fresh : samePlace q s.script.queue = none)
    (full : 8 ≤ s.script.queue.length) (order : s.script.queue = higher ++ [low]) : s.queueRequest q =
      if low.prio < q.prio then (.displaced (requestPosition q higher) low,
        ((s.onScript fun x => { x with queue := higher, cnt := { x.cnt with displaced := x.cnt.displaced + 1 } }).raiseNotice
          (.scriptDropped low.script low.source low.prio)).enqueue q)
      else (.full low.prio, s) := by
  have lowest : lowestEntry s.script.queue = some low := by rw [lowestEntry, order, List.getLast?_concat]
  have rest : s.script.queue.dropLast = higher := by rw [order, List.dropLast_concat]
  rw [State.queueRequest, fresh]
  refine (if_neg (Nat.not_lt.mpr full)).trans ?_
  rw [lowest, rest]

/-- A refused request leaves everything as it was. -/
theorem queueRequest_of_refused {p : Nat} (refused : (s.queueRequest q).1 = .full p) : (s.queueRequest q).2 = s := by
  unfold State.queueRequest at refused ⊢
  dsimp only at refused ⊢
  split at refused
  · cases refused
  · split at refused
    · cases refused
    · rename_i full
      rw [if_neg full]
      split at refused
      · rfl
      · split at refused
        · cases refused
        · rename_i notLower
          rw [if_neg notLower]

theorem queueRequest_valid : (s.queueRequest q).1 ≠ .invalid := by
  unfold State.queueRequest
  dsimp only
  split
  · exact nofun
  · split
    · exact nofun
    · split
      · exact nofun
      · split <;> exact nofun

end Queue

/-! ### Presenting a request -/

section Present
variable {s : State} {q : Request}

theorem present_of_invalid (invalid : (s.script.dir[q.script]).valid = false) : s.present q = (.invalid, s) :=
  if_pos (by rw [invalid]; rfl)

theorem present_of_idle (valid : (s.script.dir[q.script]).valid = true) (idle : s.script.running = none) :
    s.present q = (.started, s.startRequest q) := by
  refine (if_neg (by rw [valid]; exact Bool.false_ne_true)).trans ?_
  rw [idle]

theorem present_of_running {c : Running} (valid : (s.script.dir[q.script]).valid = true) (running : s.script.running = some c) :
    s.present q = if q.preempts c = true then (.preempted c.script,
      ((s.onScriptCnt fun n => { n with preemptions := n.preemptions + 1 }).finishCore .aborted c.cur).startRequest q)
      else s.queueRequest q := by
  refine (if_neg (by rw [valid]; exact Bool.false_ne_true)).trans ?_
  rw [running]

theorem present_invalid_keeps (invalid : (s.present q).1 = .invalid) : (s.present q).2 = s := by
  cases valid : (s.script.dir[q.script]).valid with
  | false => rw [present_of_invalid valid]
  | true =>
    cases running : s.script.running with
    | none =>
      rw [present_of_idle valid running] at invalid
      cases invalid
    | some c =>
      rw [present_of_running valid running] at invalid
      split at invalid
      · cases invalid
      · exact absurd invalid queueRequest_valid

theorem present_full_keeps {p : Nat} (full : (s.present q).1 = .full p) : (s.present q).2 = s := by
  cases valid : (s.script.dir[q.script]).valid with
  | false => rw [present_of_invalid valid]
  | true =>
    cases running : s.script.running with
    | none =>
      rw [present_of_idle valid running] at full
      cases full
    | some c =>
      rw [present_of_running valid running] at full ⊢
      split at full
      · cases full
      · rename_i waits
        rw [if_neg waits]
        exact queueRequest_of_refused full

end Present

section PresentFrom
variable {s : State} {script : Nat} {source : Source} {prio : Nat} {preempt : Bool} {k : Fin 16}

theorem presentFrom_of_beyond (beyond : 15 < script) : s.presentFrom script source prio preempt =
    s.onScriptCnt fun n => { n with requestInvalid := n.requestInvalid + 1 } := by
  rw [State.presentFrom, idx?_of_ge beyond]

theorem presentFrom_of_invalid (named : script = k.val) (invalid : (s.present ⟨k, source, prio, preempt, s.clock.now⟩).1 = .invalid) :
    s.presentFrom script source prio preempt = (s.present ⟨k, source, prio, preempt, s.clock.now⟩).2.onScriptCnt fun n => { n with
      requestInvalid := n.requestInvalid + 1 } := by
  rw [State.presentFrom, named, idx?_val]
  dsimp only
  generalize s.present ⟨k, source, prio, preempt, s.clock.now⟩ = x at invalid ⊢
  obtain ⟨d, t⟩ := x
  cases invalid
  rfl

theorem presentFrom_of_full {p : Nat} (named : script = k.val) (full : (s.present ⟨k, source, prio, preempt, s.clock.now⟩).1 = .full p) :
    s.presentFrom script source prio preempt = (s.present ⟨k, source, prio, preempt, s.clock.now⟩).2.onScriptCnt fun n => { n with
      requestLost := n.requestLost + 1 } := by
  rw [State.presentFrom, named, idx?_val]
  dsimp only
  generalize s.present ⟨k, source, prio, preempt, s.clock.now⟩ = x at full ⊢
  obtain ⟨d, t⟩ := x
  cases full
  rfl

theorem presentFrom_of_taken (named : script = k.val) (valid : (s.present ⟨k, source, prio, preempt, s.clock.now⟩).1 ≠ .invalid)
    (taken : ∀ p, (s.present ⟨k, source, prio, preempt, s.clock.now⟩).1 ≠ .full p) :
    s.presentFrom script source prio preempt = (s.present ⟨k, source, prio, preempt, s.clock.now⟩).2 := by
  rw [State.presentFrom, named, idx?_val]
  dsimp only
  generalize s.present ⟨k, source, prio, preempt, s.clock.now⟩ = x at valid taken ⊢
  obtain ⟨d, t⟩ := x
  cases d with
  | invalid => exact absurd rfl valid
  | full p => exact absurd rfl (taken p)
  | started | preempted | coalesced | queued | displaced => rfl

end PresentFrom

end Sys2Proof.Machine
end

section
/-! The records of the script engine, answered (R163, R164). -/

namespace Sys2Proof.Machine

theorem type_of_powerRequest {r : Rec} (command : r.command = .powerRequest) : r.type.toNat = 0x0030 := by
  unfold Rec.command at command
  split at command <;> first | assumption | skip
  all_goals first | cases command | (split at command <;> first | cases command | (split at command <;> cases command))

section Records
variable {s : State} {r : Rec} {k : Fin 16}

theorem powerRequest_of_beyond {b : Byte} {rest : List Byte} (body : r.body = b :: rest) (beyond : 15 < b.toNat) :
    s.powerRequest r = ⟨.noSuch, [], s⟩ := by
  rw [State.powerRequest, body, fieldAt_zero_one, idx?_of_ge beyond]

/-- The request that a POWER_REQUEST makes, by the length of its body. -/
theorem operatorRequest_eq {rest : List Byte} {prio : Nat} (body : r.body = BitVec.ofNat 8 k.val :: rest)
    (length : r.body.length = 1 ∨ r.body.length = 2) (own : rest = [] → prio = (s.script.dir[k]).prio)
    (given : ∀ p, rest = [p] → prio = min 7 p.toNat) :
    s.operatorRequest r k = ⟨k, .operator s.agent.op, prio, r.flags.getLsbD 0, s.clock.now⟩ := by
  rw [State.operatorRequest, body]
  match rest, length with
  | [], _ => rw [own rfl]; rfl
  | [p], _ =>
    rw [given p rfl, show fieldAt 1 1 [BitVec.ofNat 8 k.val, p] = p.toNat from beNat_singleton p]
    rfl
  | _ :: _ :: rest, length =>
    rw [body] at length
    simp only [List.length_cons] at length
    omega

theorem powerRequest_of_script {rest : List Byte} (body : r.body = BitVec.ofNat 8 k.val :: rest) : s.powerRequest r =
    if (s.present (s.operatorRequest r k)).1 = .invalid then ⟨.noSuch, [], (s.present (s.operatorRequest r k)).2⟩
    else ⟨(s.present (s.operatorRequest r k)).1.status, [BitVec.ofNat 8 (s.operatorRequest r k).prio,
      if (s.operatorRequest r k).preempt = true then 1 else 0] ++ (s.present (s.operatorRequest r k)).1.report,
        (s.present (s.operatorRequest r k)).2⟩ := by
  have script : fieldAt 0 1 (BitVec.ofNat 8 k.val :: rest) = k.val := (fieldAt_zero_one ..).trans (toNat_ofNat_byte (by omega))
  rw [State.powerRequest, body, script, idx?_val]
  dsimp only
  generalize s.present (s.operatorRequest r k) = x
  obtain ⟨d, t⟩ := x
  cases d <;> rfl

theorem cancelRunning_of_idle (idle : s.script.running = none) : s.cancelRunning r = ⟨.state, [], s⟩ := by rw [State.cancelRunning, idle]

theorem cancelRunning_of_running {c : Running} (running : s.script.running = some c) :
    s.cancelRunning r = ⟨.ok, [BitVec.ofNat 8 c.script.val], s.finishScript .aborted c.cur⟩ := by
  rw [State.cancelRunning, running]
  rfl

section CancelQueued
variable {target script : Byte} (body : r.body = [target, script])
include body

theorem cancelQueued_of_unlisted (unlisted : 1 < target.toNat) : s.cancelQueued r = ⟨.range, [], s⟩ := by
  refine if_pos ?_
  rw [body, fieldAt_zero_one]
  exact unlisted

theorem cancelQueued_of_beyond (queued : target = 1) (beyond : 15 < script.toNat) : s.cancelQueued r = ⟨.noSuch, [], s⟩ := by
  subst queued
  have second : fieldAt 1 1 [1, script] = script.toNat := beNat_singleton script
  refine (if_neg ?_).trans ?_
  · rw [body, fieldAt_zero_one]
    decide
  · rw [body, second, idx?_of_ge beyond]

theorem cancelQueued_of_script (queued : target = 1) (named : script.toNat = k.val) : s.cancelQueued r =
    ⟨.ok, natBytes 4 (s.script.queue.countP fun x => x.script == k), s.onScript fun e => { e with
      queue := e.queue.filter fun x => x.script != k
      cnt := { e.cnt with cancelled := e.cnt.cancelled + BitVec.ofNat 32 (s.script.queue.countP fun x => x.script == k) } }⟩ := by
  subst queued
  have second : fieldAt 1 1 [1, script] = script.toNat := beNat_singleton script
  refine (if_neg ?_).trans ?_
  · rw [body, fieldAt_zero_one]
    decide
  · rw [body, second, named, idx?_val]
    rfl

end CancelQueued

end Records

/-- Settles O53: starts, presentations and the queue by their cases, then the three records. -/
theorem powerRequestsJudged : Obligations.PowerRequestsJudged := by
  refine ⟨fun s q => ⟨startRequest_of_valid, startRequest_of_invalid⟩, fun s script source prio preempt =>
    ⟨presentFrom_of_beyond, fun k named => ⟨presentFrom_of_invalid named, fun p => presentFrom_of_full named, presentFrom_of_taken named⟩⟩,
    fun s q => ⟨present_of_invalid, fun valid => ⟨present_of_idle valid, fun c running => ?_⟩⟩, fun r s passes => ⟨fun ready => ⟨?_, ?_⟩,
      fun ready => ⟨fun idle => ?_, fun c running => ?_⟩, fun ready target script body => ⟨fun unlisted => ?_, fun queued beyond => ?_,
        fun queued k named => ?_⟩⟩⟩
  · have judged := present_of_running valid running
    refine ⟨fun preempts => judged.trans (if_pos (preempts_iff.mpr preempts)), fun waits before x behind order others same => ?_,
      fun waits fresh sorted => ?_⟩
    · exact (judged.trans (if_neg (mt preempts_iff.mp waits))).trans (queueRequest_of_same (samePlace_of_first order others same))
    · have queues := judged.trans (if_neg (mt preempts_iff.mp waits))
      have none : samePlace q s.script.queue = none := samePlace_of_none fresh
      refine ⟨fun room => (queues.trans (queueRequest_of_room none room)).trans ?_, fun full higher low order => ⟨fun notLower => ?_, fun lower => ?_⟩⟩
      · rw [enqueue_of_sorted sorted]
        rfl
      · exact (queues.trans (queueRequest_of_full none full order)).trans (if_neg (Nat.not_lt.mpr notLower))
      · intro dropped
        refine ((queues.trans (queueRequest_of_full none full order)).trans (if_pos lower)).trans ?_
        have script : (dropped.raiseNotice (.scriptDropped low.script low.source low.prio)).script = dropped.script :=
          (SameButPushes.raiseNotice ..).script
        have left : (dropped.raiseNotice (.scriptDropped low.script low.source low.prio)).script.queue = higher := by rw [script]; rfl
        have sortedLeft : higher.Pairwise fun a b => b.prio ≤ a.prio := (List.pairwise_append.mp (show List.Pairwise _ _ from order ▸ sorted)).1
        have placed := enqueue_of_sorted (s := dropped.raiseNotice (.scriptDropped low.script low.source low.prio)) (q := q) (by rw [left]; exact sortedLeft)
        simp only [State.onScript, left] at placed
        exact congrArg (Prod.mk _) placed
  · intro b rest body beyond
    exact answers_of_handler (h := State.powerRequest) rfl nofun ready passes (powerRequest_of_beyond body beyond)
  · intro k rest prio body own given q taken after
    have length : r.body.length = 1 ∨ r.body.length = 2 := by
      have allowed := passes.length
      rw [type_of_powerRequest ready.kind] at allowed
      simpa [bodyLengthOk] using allowed
    have request : s.popRecord.operatorRequest r k = q := operatorRequest_eq body length own given
    have answer := powerRequest_of_script (s := s.popRecord) (r := r) body
    rw [request] at answer
    have takes {d : Disposal} (is : (s.popRecord.present q).1 = d) (valid : d ≠ .invalid) : s.popRecord.powerRequest r =
        ⟨d.status, taken ++ d.report, after⟩ := by
      subst is
      exact answer.trans (if_neg valid)
    refine ⟨fun invalid => ?_, fun is => ?_, fun c is => ?_, fun n is => ?_, fun n is => ?_, fun n low is => ?_, fun p is => ?_⟩
    · rw [if_pos invalid, present_invalid_keeps invalid] at answer
      exact answers_of_handler (h := State.powerRequest) rfl nofun ready passes answer
    · exact answers_of_handler (h := State.powerRequest) rfl nofun ready passes (takes is nofun)
    · exact answers_of_handler (h := State.powerRequest) rfl nofun ready passes (takes is nofun)
    · exact answers_of_handler (h := State.powerRequest) rfl nofun ready passes (takes is nofun)
    · exact answers_of_handler (h := State.powerRequest) rfl nofun ready passes (takes is nofun)
    · exact answers_of_handler (h := State.powerRequest) rfl nofun ready passes (takes is nofun)
    · have refused := takes is nofun
      rw [show after = s.popRecord from present_full_keeps is] at refused
      exact answers_of_handler (h := State.powerRequest) rfl nofun ready passes refused
  · exact answers_of_handler (h := State.cancelRunning) rfl nofun ready passes (cancelRunning_of_idle idle)
  · exact answers_of_handler (h := State.cancelRunning) rfl nofun ready passes (cancelRunning_of_running running)
  · exact answers_of_handler (h := State.cancelQueued) rfl nofun ready passes (cancelQueued_of_unlisted body unlisted)
  · exact answers_of_handler (h := State.cancelQueued) rfl nofun ready passes (cancelQueued_of_beyond body queued beyond)
  · exact answers_of_handler (h := State.cancelQueued) rfl nofun ready passes (cancelQueued_of_script body queued named)

end Sys2Proof.Machine
end

section
/-! The steps of a script: how they begin, wait and act (R153 to R157). -/

namespace Sys2Proof.Machine

/-! ### Actions -/

section Act
variable {s : State} {c : Running} {op : StepOp} (running : s.script.running = some c) (acting : c.wait = .acting)
  (code : StepOp.ofCode c.step.op = some op)
include running acting code

theorem act_of_due (f : Running → State → State) : s.act op f = f c s.countStep := by
  have due : s.actingOn op = some c := by
    rw [State.actingOn, running]
    exact if_pos ⟨acting, code⟩
  rw [State.act, due]

theorem actThenNext_of_due (f : Running → State → State) : s.actThenNext op f = (f c s.countStep).goTo (c.cur + 1) :=
  act_of_due running acting code _

end Act

section Running
variable {s : State} {c : Running} (running : s.script.running = some c)
include running

theorem onRunning_of_running (f : Running → Running) : s.onRunning f = s.onScript fun e => { e with running := some (f c) } := by
  rw [State.onRunning, State.onScript, running]
  rfl

theorem countStep_onRunning (f : Running → Running) : s.countStep.onRunning f =
    s.countStep.onScript fun e => { e with running := some (f c) } :=
  onRunning_of_running (s := s.countStep) running f

/-! ### Waits -/

variable {t : Time}

theorem scriptDelayExpiry_of_delaying (delaying : c.wait = .delaying t) : s.scriptDelayExpiry =
    if (s.clock.now - t).toNat < 2 ^ 47 then s.onScript fun e => { e with running := some { c with wait := .acting } } else s := by
  rw [State.scriptDelayExpiry, running]
  dsimp only
  rw [delaying, onRunning_of_running running]
  exact if_congr reached_iff rfl rfl

theorem awaitTimeout_of_awaiting (awaiting : c.wait = .awaiting t) : s.awaitTimeout =
    if (s.clock.now - t).toNat < 2 ^ 47 then
      (s.onScriptCnt fun n => { n with steps := n.steps + 1, awaitTimeouts := n.awaitTimeouts + 1 }).goTo (c.cur + 2) else s := by
  rw [State.awaitTimeout, running]
  dsimp only
  rw [awaiting]
  exact if_congr reached_iff rfl rfl

theorem guardWaitExpiry_of_guarded (guarded : c.wait = .guardWait t) : s.guardWaitExpiry =
    if (s.clock.now - t).toNat < 2 ^ 47 then s.presentDrive c else s := by
  rw [State.guardWaitExpiry, running]
  dsimp only
  rw [guarded]
  exact if_congr reached_iff rfl rfl

end Running

/-! ### The hold's flush and the window's closing -/

theorem queued_four (e : Egress) :
    e.queued = e.queues[0].frames ++ e.queues[1].frames ++ e.queues[2].frames ++ e.queues[3].frames := by
  rw [Egress.queued, toList_four]
  simp only [List.map_cons, List.map_nil, List.flatten_cons, List.flatten_nil, List.append_nil, List.append_assoc]

theorem flushed_eq (e : Egress) : e.flushed = { e with
    queues := e.queues.map fun q => { q with frames := [], deficit := 0 }, visit := 3, granted := false } := by
  have queues : (Vector.ofFn fun k : Fin 4 => { e.queues[k] with frames := [], deficit := 0 }) =
      e.queues.map fun q => { q with frames := [], deficit := 0 } :=
    Vector.ext fun i bound => by simp only [Vector.getElem_ofFn, Vector.getElem_map, Fin.getElem_fin]
  exact congrArg (fun qs => { e with queues := qs, visit := 3, granted := false }) queues

theorem closeWindow_of_closed {s : State} (closed : s.power.window = none) (code : Half) : s.closeWindow code = s :=
  if_pos (Option.isNone_iff_eq_none.mpr closed)

theorem closeWindow_of_open {s : State} (isOpen : s.power.window ≠ none) (code : Half) : s.closeWindow code =
    ((s.onPower fun p => { p with window := none, cnt := { p.cnt with bootCloses := p.cnt.bootCloses + 1 } }).addMark .power code).endHeldWhere
      (fun h => (s.media.regions[h.unit]).cfg.bootOnly) .noUnit :=
  if_neg (mt Option.isNone_iff_eq_none.mp isOpen)

/-! ### The beginning of a step -/

/-- More fuel than the store has steps left changes nothing. -/
theorem beginStep_succ {fuel i : Nat} (enough : 257 ≤ fuel + i) (s : State) : s.beginStep (fuel + 1) i = s.beginStep fuel i := by
  induction fuel generalizing i s with
  | zero =>
    unfold State.beginStep
    rw [idx?_of_ge (by omega)]
  | succ fuel ih =>
    unfold State.beginStep
    cases idx? 256 i with
    | none => rfl
    | some k =>
      dsimp only
      split
      · rfl
      · rw [ih (by omega), ih (by omega)]
      · rfl

theorem beginStep_enough (s : State) (i more : Nat) : s.beginStep (257 + more) i = s.beginStep 257 i := by
  induction more with
  | zero => rfl
  | succ more ih => exact (beginStep_succ (fuel := 257 + more) (by omega) s).trans ih

/-- The sense level an AWAIT compares, as the number its argument is (R156). -/
def State.levelCode (s : State) (j : Fin 4) : Option Nat := ((s.power.sense[j]).level).map fun v => if v = true then 1 else 0

theorem awaitMet_iff {s : State} {x : Step} : awaitMet s.power.sense x = true ↔ ∃ j : Fin 4, x.operand = j.val ∧ s.levelCode j = some x.arg := by
  unfold awaitMet State.levelCode
  cases named : idx? 4 x.operand with
  | none =>
    simp only [Option.bind_none, Bool.false_eq_true, false_iff, not_exists, not_and]
    intro j operand
    rw [operand, idx?_val] at named
    cases named
  | some j =>
    have operand : j.val = x.operand := idx?_some named
    have only (P : Fin 4 → Prop) : (∃ i : Fin 4, x.operand = i.val ∧ P i) ↔ P j :=
      ⟨fun ⟨i, same, holds⟩ => Fin.ext (operand.trans same) ▸ holds, fun holds => ⟨j, operand.symm, holds⟩⟩
    rw [only]
    dsimp only [Option.bind_some]
    generalize (s.power.sense[j]).level = level
    cases level with
    | none => simp
    | some v => cases v <;> simp [boolNat]

section Begin
variable {s : State} {c : Running} {fuel : Nat} {k : Fin 256} (running : s.script.running = some c)

theorem beginStep_of_beyond {i : Nat} (beyond : 255 < i) : s.beginStep (fuel + 1) i = (s, some (.fault, 255)) := by
  rw [State.beginStep, idx?_of_ge beyond]

/-- The running script stands at step `k`, waiting so. -/
def State.atStep (s : State) (c : Running) (k : Fin 256) (w : Wait) : State :=
  s.onScript fun e => { e with running := some { c with cur := k.val, step := s.script.steps[k], wait := w } }

include running

theorem onRunning_step : s.onRunning (fun r => { r with cur := k.val, step := s.script.steps[k] }) = s.atStep c k c.wait :=
  onRunning_of_running running _

theorem beginStep_of_unknown (unknown : StepOp.ofCode (s.script.steps[k]).op = none) :
    s.beginStep (fuel + 1) k.val = (s.atStep c k c.wait, some (.fault, k.val)) := by
  rw [State.beginStep, idx?_val]
  dsimp only
  rw [unknown, onRunning_step running]

theorem beginStep_of_action {op : StepOp} (known : StepOp.ofCode (s.script.steps[k]).op = some op) (action : op ≠ .await) :
    s.beginStep (fuel + 1) k.val = (s.atStep c k (if (s.script.steps[k]).delay = 0 then .acting
      else .delaying (s.clock.now + BitVec.ofNat 48 ((s.script.steps[k]).delay * 1000))), none) := by
  rw [State.beginStep, idx?_val]
  dsimp only
  rw [known, onRunning_step running]
  cases op with
  | await => exact absurd rfl action
  | finish | pause | drive | bootOpen | bootClose | holdS | releaseS | mark | notify | call | fail => rfl

theorem beginStep_of_await (await : StepOp.ofCode (s.script.steps[k]).op = some .await) : s.beginStep (fuel + 1) k.val =
    if awaitMet s.power.sense s.script.steps[k] = true then (s.atStep c k c.wait).countStep.beginStep fuel (k.val + 1)
    else if (s.script.steps[k]).delay = 0 then
      ((s.atStep c k c.wait).countStep.onScriptCnt fun n => { n with awaitTimeouts := n.awaitTimeouts + 1 }).beginStep fuel (k.val + 2)
    else (s.atStep c k (.awaiting (s.clock.now + BitVec.ofNat 48 ((s.script.steps[k]).delay * 1000))), none) := by
  rw [State.beginStep, idx?_val]
  dsimp only
  rw [await, onRunning_step running]
  rfl

end Begin

theorem ofCode_of_beyond {n : Nat} (beyond : 11 < n) : StepOp.ofCode n = none := by
  match n, beyond with
  | n + 12, _ => rfl

theorem ofCode_of_action {n : Nat} (listed : n ≤ 11) (action : n ≠ 3) : ∃ op, StepOp.ofCode n = some op ∧ op ≠ .await := by
  match n, listed, action with
  | 0, _, _ => exact ⟨.finish, rfl, nofun⟩
  | 1, _, _ => exact ⟨.pause, rfl, nofun⟩
  | 2, _, _ => exact ⟨.drive, rfl, nofun⟩
  | 4, _, _ => exact ⟨.bootOpen, rfl, nofun⟩
  | 5, _, _ => exact ⟨.bootClose, rfl, nofun⟩
  | 6, _, _ => exact ⟨.holdS, rfl, nofun⟩
  | 7, _, _ => exact ⟨.releaseS, rfl, nofun⟩
  | 8, _, _ => exact ⟨.mark, rfl, nofun⟩
  | 9, _, _ => exact ⟨.notify, rfl, nofun⟩
  | 10, _, _ => exact ⟨.call, rfl, nofun⟩
  | 11, _, _ => exact ⟨.fail, rfl, nofun⟩

/-! ### Calls and ends -/

section Calls
variable {s : State} {c : Running} (running : s.script.running = some c) (acting : c.wait = .acting)
include running acting

theorem stepCall_of_fault (code : StepOp.ofCode c.step.op = some .call)
    (fault : (∀ k : Fin 16, c.step.operand = k.val → (s.script.dir[k]).valid = false) ∨ 4 ≤ c.stack.length) :
    s.stepCall = s.countStep.finishScript .fault c.cur := by
  refine (act_of_due running acting code _).trans ?_
  split
  · rfl
  · rename_i k named
    refine if_pos (fault.resolve_left fun invalid => ?_)
    obtain ⟨index, valid⟩ := Option.filter_eq_some_iff.mp named
    exact Bool.false_ne_true ((invalid k (idx?_some index).symm).symm.trans valid)

theorem stepCall_of_valid {k : Fin 16} (code : StepOp.ofCode c.step.op = some .call) (named : c.step.operand = k.val)
    (valid : (s.script.dir[k]).valid = true) (room : c.stack.length < 4) : s.stepCall =
      (s.countStep.onScript fun e => { e with running := some { c with stack := c.stack ++ [c.cur + 1] } }).goTo (s.script.dir[k]).first := by
  have script : ((idx? 16 c.step.operand).filter fun k => s.countStep.script.dir[k].valid) = some k := by
    rw [named, idx?_val]
    exact Option.filter_eq_some_iff.mpr ⟨rfl, valid⟩
  refine (act_of_due running acting code _).trans ?_
  rw [script, countStep_onRunning running]
  exact if_neg (Nat.not_le.mpr room)

theorem stepEnd_of_empty (code : StepOp.ofCode c.step.op = some .finish) (empty : c.stack = []) :
    s.stepEnd = s.countStep.finishScript .ok c.cur := by
  refine (act_of_due running acting code _).trans ?_
  rw [empty]
  rfl

theorem stepEnd_of_return {outer : List Nat} {back : Nat} (code : StepOp.ofCode c.step.op = some .finish) (stack : c.stack = outer ++ [back]) :
    s.stepEnd = (s.countStep.onScript fun e => { e with running := some { c with stack := outer } }).goTo back := by
  refine (act_of_due running acting code _).trans ?_
  rw [stack, List.getLast?_concat, List.dropLast_concat, countStep_onRunning running]

end Calls

end Sys2Proof.Machine
end

section
/-! Script steps act, wait and begin (R153 to R157). -/

namespace Sys2Proof.Machine

/-- Settles O54: each action by its op, each wait by its time, each step by what it is. -/
theorem scriptStepsAct : Obligations.ScriptStepsAct := by
  refine ⟨fun s c running acting => ?_, fun s c t running => ⟨fun delaying => ?_, fun awaiting => ?_, fun guarded => ?_⟩, fun s => ?_,
    fun s code => ⟨fun closed => closeWindow_of_closed closed code, fun isOpen => closeWindow_of_open isOpen code⟩,
    fun s i => ⟨fun t begun => congrArg State.settle begun, fun t o step begun => congrArg State.settle begun, beginStep_enough s i⟩,
    fun s c fuel i running => ⟨beginStep_of_beyond, fun k here => ?_⟩⟩
  · intro counted next arg
    have due {op : StepOp} (code : StepOp.ofCode c.step.op = some op) (f : Running → State → State) :
        Host.Outcome.next (s.actThenNext op f) = next (f c counted) := congrArg Host.Outcome.next (actThenNext_of_due running acting code f)
    have coded {n : Nat} {op : StepOp} (is : c.step.op = n) (names : StepOp.ofCode n = some op) : StepOp.ofCode c.step.op = some op := is ▸ names
    refine ⟨fun is => due (coded is rfl) _, fun is => due (coded is rfl) _, fun is closed => ?_, fun is isOpen => due (coded is rfl) _,
      fun is => due (coded is rfl) _, fun is => due (coded is rfl) _, fun is => due (coded is rfl) _, fun is => due (coded is rfl) _,
      fun is => congrArg Host.Outcome.next (act_of_due running acting (coded is rfl) _),
      fun is => ⟨fun fault => congrArg Host.Outcome.next (stepCall_of_fault running acting (coded is rfl) fault),
        fun k named valid room => congrArg Host.Outcome.next (stepCall_of_valid running acting (coded is rfl) named valid room)⟩,
      fun is => ⟨fun empty => congrArg Host.Outcome.next (stepEnd_of_empty running acting (coded is rfl) empty),
        fun outer back stack => congrArg Host.Outcome.next (stepEnd_of_return running acting (coded is rfl) stack)⟩,
      fun is => congrArg Host.Outcome.next (act_of_due running acting (coded is rfl) _)⟩
    exact (due (coded is rfl) _).trans (congrArg next (closeWindow_of_closed (s := counted) closed _))
  · exact ⟨fun early => congrArg Host.Outcome.next ((scriptDelayExpiry_of_delaying running delaying).trans (if_neg early)),
      fun due => congrArg Host.Outcome.next ((scriptDelayExpiry_of_delaying running delaying).trans (if_pos due))⟩
  · exact ⟨fun early => congrArg Host.Outcome.next ((awaitTimeout_of_awaiting running awaiting).trans (if_neg early)),
      fun due => congrArg Host.Outcome.next ((awaitTimeout_of_awaiting running awaiting).trans (if_pos due))⟩
  · exact ⟨fun early => congrArg Host.Outcome.next ((guardWaitExpiry_of_guarded running guarded).trans (if_neg early)),
      fun due => congrArg Host.Outcome.next ((guardWaitExpiry_of_guarded running guarded).trans (if_pos due))⟩
  · intro e gone flushed
    have queued : s.sched.port.s.queued = gone := queued_four ..
    have same : (s.onEgress .s Egress.flushed).onCnt .s (fun n => { n with holdFlush := n.holdFlush + BitVec.ofNat 32 gone.length }) = flushed := by
      rw [show Egress.flushed = _ from funext flushed_eq]
    rw [State.flushHold, queued, same]
    exact ⟨fun none => if_pos (List.isEmpty_iff.mpr none), fun some => if_neg (mt List.isEmpty_iff.mp some)⟩
  · subst here
    intro x at' level met
    have isMet : awaitMet s.power.sense x = true ↔ met := awaitMet_iff
    refine ⟨fun beyond => beginStep_of_unknown running (ofCode_of_beyond beyond), fun listed action short => ?_, fun listed action long => ?_,
      fun await isMet' => ?_, fun await unmet short => ?_, fun await unmet long => ?_⟩
    · obtain ⟨op, known, other⟩ := ofCode_of_action listed action
      rw [beginStep_of_action running known other, if_pos short]
      rfl
    · obtain ⟨op, known, other⟩ := ofCode_of_action listed action
      rw [beginStep_of_action running known other, if_neg long]
      rfl
    · exact (beginStep_of_await running (congrArg StepOp.ofCode await)).trans (if_pos (isMet.mpr isMet'))
    · exact (beginStep_of_await running (congrArg StepOp.ofCode await)).trans ((if_neg (mt isMet.mp unmet)).trans (if_pos short))
    · exact (beginStep_of_await running (congrArg StepOp.ofCode await)).trans ((if_neg (mt isMet.mp unmet)).trans (if_neg long))

end Sys2Proof.Machine
end

section
/-! Drives and the guard, the return to idle, and a finish with what it starts (R137 to R139, R155, R158). -/

namespace Sys2Proof.Machine

/-! ### Drives -/

section Drive
variable {s : State} {c : Running} {k : Fin 6}

theorem guardPasses_eq_false_iff {now : Time} {r : Option GuardRecord} : guardPasses now r = false ↔
    ∃ g, r = some g ∧ g.secs ≠ 0 ∧ (now - g.fall).toNat < g.secs * 1000000 := by
  cases r with
  | none => simp [guardPasses]
  | some g =>
    simp only [guardPasses, elapsed, Bool.or_eq_false_iff, beq_eq_false_iff_ne, Option.some.injEq, exists_eq_left']
    exact and_congr_right fun _ => decide_eq_false_iff_not.trans Nat.not_le

theorem drive_of_guarded {p : PowerUnit} {now : Time} {v : Bool} (guarded : k = 2 ∧ v = true ∧ guardPasses now p.guardRec = false) :
    p.drive now k v = (false, { p with cnt := { p.cnt with drives := p.cnt.drives + 1, guardHolds := p.cnt.guardHolds + 1 } }) :=
  if_pos guarded

theorem drive_of_free {p : PowerUnit} {now : Time} {v : Bool} (free : ¬ (k = 2 ∧ v = true ∧ guardPasses now p.guardRec = false)) :
    p.drive now k v = (true, { p with
      lines := p.lines.set k { p.lines[k] with level := v, byScript := v != (p.lines[k]).idle }
      guardRec := if k = 2 ∧ (p.lines[k]).level = true ∧ v = false then some ⟨now, p.guardSecs⟩ else p.guardRec
      cnt := { p.cnt with drives := p.cnt.drives + 1 } }) :=
  if_neg free

theorem presentDrive_of_guarded {g : GuardRecord} (running : s.script.running = some c) (named : c.step.operand = k.val)
    (outlet : k = 2) (on : (c.step.arg == 1) = true) (record : s.power.guardRec = some g) (secs : g.secs ≠ 0)
    (early : (s.clock.now - g.fall).toNat < g.secs * 1000000) : s.presentDrive c =
      (s.onPower fun p => { p with cnt := { p.cnt with drives := p.cnt.drives + 1, guardHolds := p.cnt.guardHolds + 1 } }).onScript
        fun e => { e with running := some { c with wait := .guardWait (g.fall + BitVec.ofNat 48 (g.secs * 1000000)) } } := by
  have held := drive_of_guarded (p := s.power) (now := s.clock.now) (v := c.step.arg == 1)
    ⟨outlet, on, guardPasses_eq_false_iff.mpr ⟨g, record, secs, early⟩⟩
  rw [State.presentDrive, named, idx?_val]
  dsimp only
  rw [held]
  dsimp only
  split
  · rename_i none
    cases none.symm.trans record
  · rename_i g' here
    cases Option.some.inj (here.symm.trans record)
    exact onRunning_of_running (s := s.onPower _) running _

theorem presentDrive_of_free (named : c.step.operand = k.val)
    (free : ∀ g, ¬ (k = 2 ∧ (c.step.arg == 1) = true ∧ s.power.guardRec = some g ∧ g.secs ≠ 0 ∧
      (s.clock.now - g.fall).toNat < g.secs * 1000000)) : s.presentDrive c = State.goTo (c.cur + 1) (s.onPower fun p => { p with
        lines := p.lines.set k { s.power.lines[k] with level := c.step.arg == 1, byScript := (c.step.arg == 1) != (s.power.lines[k]).idle }
        guardRec := if k = 2 ∧ (s.power.lines[k]).level = true ∧ (c.step.arg == 1) = false then some ⟨s.clock.now, p.guardSecs⟩ else p.guardRec
        cnt := { s.power.cnt with drives := s.power.cnt.drives + 1 } }) := by
  have done := drive_of_free (k := k) (p := s.power) (now := s.clock.now) (v := c.step.arg == 1) (by
    rintro ⟨outlet, on, closed⟩
    obtain ⟨g, record, secs, early⟩ := guardPasses_eq_false_iff.mp closed
    exact free g ⟨outlet, on, record, secs, early⟩)
  rw [State.presentDrive, named, idx?_val]
  dsimp only
  rw [done]
  rfl

end Drive

/-! ### The return to idle -/

/-- A line after a finish (R139). -/
def OutLine.returned (l : OutLine) : OutLine :=
  match l.cls with
  | .latching => l
  | .momentary => { l with level := l.idle, byScript := false }

theorem returned_of_latching {l : OutLine} (latching : l.cls = .latching) : l.returned = l := by rw [OutLine.returned, latching]

theorem returned_of_momentary {l : OutLine} (momentary : l.cls = .momentary) :
    l.returned = { l with level := l.idle, byScript := false } := by
  obtain ⟨cls, idle, level, driven, byScript⟩ := l
  cases momentary
  rfl

/-- A momentary line that a finish has to drive. -/
def OutLine.away (l : OutLine) : Bool := decide (l.cls = .momentary ∧ l.level ≠ l.idle)

theorem lineToIdle_eq (p : PowerUnit) (k : Fin 6) : p.lineToIdle k = { p with
    lines := p.lines.set k (p.lines[k]).returned
    cnt := { p.cnt with drives := p.cnt.drives + BitVec.ofNat 32 (if (p.lines[k]).away then 1 else 0) } } := by
  cases cls : (p.lines[k]).cls with
  | latching =>
    have same : p.lines.set k (p.lines[k]) = p.lines := Vector.set_getElem_self ..
    have stays : (p.lines[k]).away = false := decide_eq_false fun both => nomatch cls.symm.trans both.1
    have kept := returned_of_latching cls
    rw [PowerUnit.lineToIdle, kept, same, stays]
    dsimp only
    rw [cls]
    simp
  | momentary =>
    have idle := returned_of_momentary cls
    rw [PowerUnit.lineToIdle, idle]
    dsimp only
    rw [cls]
    by_cases there : (p.lines[k]).level = (p.lines[k]).idle
    · have stays : (p.lines[k]).away = false := decide_eq_false fun both => both.2 there
      rw [stays]
      refine (if_pos there).trans ?_
      simp
    · have moves : (p.lines[k]).away = true := decide_eq_true ⟨cls, there⟩
      rw [moves]
      exact if_neg there

theorem linesToIdle_fold {js : List (Fin 6)} (once : js.Nodup) (p : PowerUnit) :
    (∀ k : Fin 6, (js.foldl PowerUnit.lineToIdle p).lines[k] = if k ∈ js then (p.lines[k]).returned else p.lines[k]) ∧
    js.foldl PowerUnit.lineToIdle p = { p with
      lines := (js.foldl PowerUnit.lineToIdle p).lines
      cnt := { p.cnt with drives := p.cnt.drives + BitVec.ofNat 32 (js.countP fun j => (p.lines[j]).away) } } := by
  induction js generalizing p with
  | nil => exact ⟨fun k => rfl, by simp⟩
  | cons j js ih =>
    obtain ⟨fresh, once⟩ := List.nodup_cons.mp once
    obtain ⟨lines, whole⟩ := ih once (p.lineToIdle j)
    have stepped (k : Fin 6) : (p.lineToIdle j).lines[k] = if j = k then (p.lines[j]).returned else p.lines[k] := by
      rw [lineToIdle_eq]
      exact getElem_set_if ..
    refine ⟨fun k => ?_, ?_⟩
    · rw [List.foldl_cons, lines k, stepped k]
      by_cases same : j = k
      · subst same
        simp [fresh]
      · simp [same, Ne.symm same]
    · have counts : (js.countP fun i => ((p.lineToIdle j).lines[i]).away) = js.countP fun i => (p.lines[i]).away := by
        refine List.countP_congr fun i here => ?_
        rw [stepped i, if_neg (fun same : j = i => fresh (same ▸ here))]
      rw [List.foldl_cons, whole, counts, lineToIdle_eq p j, List.countP_cons]
      simp only [BitVec.ofNat_add, BitVec.add_assoc, BitVec.add_comm]

/-! ### A finish and what it starts -/

theorem beginStep_queue (fuel i : Nat) (s : State) : (s.beginStep fuel i).1.script.queue = s.script.queue := by
  induction fuel using Nat.strongRecOn generalizing i s with
  | _ fuel ih =>
    cases fuel with
    | zero => rfl
    | succ fuel =>
      unfold State.beginStep
      split
      · rfl
      · dsimp only
        split
        · rfl
        · split
          · exact ih fuel (Nat.lt_succ_self _) ..
          · split
            · exact ih fuel (Nat.lt_succ_self _) ..
            · rfl
        · rfl

theorem finishCore_queue (o : ScriptOutcome) (step : Nat) (s : State) : (s.finishCore o step).script.queue = s.script.queue := by
  unfold State.finishCore
  split
  · rfl
  · dsimp only
    rw [(SameButPushes.raiseNotice _ _).script]
    rfl

theorem startCore_queue (q : Request) (s : State) : (s.startCore q).1.script.queue = s.script.queue := by
  have begun : (s.begun q).script.queue = s.script.queue := by
    rw [State.begun, (SameButPushes.raiseNotice _ _).script]
    rfl
  cases valid : (s.script.dir[q.script]).valid with
  | false =>
    rw [startCore_of_invalid valid]
    exact begun
  | true =>
    rw [startCore_of_valid valid]
    exact (beginStep_queue ..).trans begun

/-- The queue head is started, and what follows when it finishes at once is that finish (R158). -/
theorem startNext_cons {s : State} {q : Request} {rest : List Request} (queue : s.script.queue = q :: rest) :
    s.startNext s.script.queue.length = (s.onScript fun e => { e with queue := rest }).startRequest q := by
  have left := startCore_queue q (s.onScript fun e => { e with queue := rest })
  have length : s.script.queue.length = rest.length + 1 := by rw [queue, List.length_cons]
  rw [length, State.startNext, queue, State.startRequest, State.settle]
  dsimp only
  generalize (s.onScript fun e => { e with queue := rest }).startCore q = x at left
  obtain ⟨t, finish⟩ := x
  cases finish with
  | none => rfl
  | some both =>
    obtain ⟨o, st⟩ := both
    have same : (t.finishCore o st).script.queue = rest := (finishCore_queue ..).trans left
    show State.startNext rest.length (t.finishCore o st) = State.startNext (t.finishCore o st).script.queue.length (t.finishCore o st)
    rw [same]

theorem finishScript_of_empty {s : State} (empty : s.script.queue = []) (o : ScriptOutcome) (step : Nat) :
    s.finishScript o step = s.finishCore o step := by
  have none : (s.finishCore o step).script.queue = [] := (finishCore_queue ..).trans empty
  rw [State.finishScript, none]
  rfl

theorem finishScript_of_queued {s : State} {q : Request} {rest : List Request} (queue : s.script.queue = q :: rest) (o : ScriptOutcome)
    (step : Nat) : s.finishScript o step = ((s.finishCore o step).onScript fun e => { e with queue := rest }).startRequest q :=
  startNext_cons ((finishCore_queue ..).trans queue)

/-- Settles O55: a drive by the guard, the lines one by one, and a finish by what it finds queued. -/
theorem linesDrivenAndReturned : Obligations.LinesDrivenAndReturned := by
  refine ⟨fun s c k running named bit => ?_, fun p k => ⟨fun latching => ?_, fun momentary => ?_, ?_⟩, fun s c o step running => ?_⟩
  · intro v l counted guarded
    refine ⟨fun g held => ?_, fun free => presentDrive_of_free named free⟩
    obtain ⟨outlet, on, record, secs, early⟩ := held
    exact presentDrive_of_guarded running named outlet on record secs early
  · rw [PowerUnit.linesToIdle, (linesToIdle_fold (List.nodup_finRange 6) p).1 k, if_pos (List.mem_finRange k), returned_of_latching latching]
  · rw [PowerUnit.linesToIdle, (linesToIdle_fold (List.nodup_finRange 6) p).1 k, if_pos (List.mem_finRange k), returned_of_momentary momentary]
  · exact (linesToIdle_fold (List.nodup_finRange 6) p).2
  · intro ended
    refine ⟨?_, fun empty => finishScript_of_empty empty o step, fun q rest queue => finishScript_of_queued queue o step⟩
    have cnt (e : ScriptEngine) : e.cnt.finished o = match o with
        | .ok => { e.cnt with finishedOk := e.cnt.finishedOk + 1 }
        | .failed _ => { e.cnt with finishedFailed := e.cnt.finishedFailed + 1 }
        | .fault => { e.cnt with finishedFault := e.cnt.finishedFault + 1 }
        | .aborted => { e.cnt with finishedAborted := e.cnt.finishedAborted + 1 } := by cases o <;> rfl
    rw [State.finishCore, running]
    simp only [cnt]
    rfl

end Sys2Proof.Machine
end

section
/-! Sense lines debounced, edges and the boot window's close time (R141 to R146, R156). -/

namespace Sys2Proof.Machine

section Await
variable {s : State} {k : Fin 4} {c : Running}

theorem awaitLevel_of_idle (idle : s.script.running = none) : s.awaitLevel k = s := by rw [State.awaitLevel, idle]

/-- On line `k`, what ends an AWAIT is that the line's level comes to the argument. -/
theorem awaitMet_of_line {x : Step} (line : x.operand = k.val) : awaitMet s.power.sense x = true ↔ s.levelCode k = some x.arg := by
  rw [awaitMet_iff]
  refine ⟨fun ⟨j, named, level⟩ => ?_, fun level => ⟨k, line, level⟩⟩
  cases Fin.ext (line.symm.trans named)
  exact level

theorem awaitLevel_of_awaiting {t : Time} (running : s.script.running = some c) (awaiting : c.wait = .awaiting t) : s.awaitLevel k =
    if c.step.operand = k.val ∧ s.levelCode k = some c.step.arg then s.countStep.goTo (c.cur + 1) else s := by
  rw [State.awaitLevel, running]
  dsimp only
  rw [awaiting]
  exact if_congr (and_congr_right fun line => awaitMet_of_line line) rfl rfl

theorem awaitLevel_of_otherWait (running : s.script.running = some c) (other : ∀ t, c.wait ≠ .awaiting t) : s.awaitLevel k = s := by
  rw [State.awaitLevel, running]
  dsimp only
  split
  · rename_i t awaiting
    exact absurd awaiting (other t)
  · rfl

end Await

/-! ### Changes of the raw level -/

section Raw
variable {s : State} {k : Fin 4} {v : Bool}

/-- The pin has taken the level. -/
def State.rawMoved (s : State) (k : Fin 4) (v : Bool) : State := s.onPins fun p => { p with raw := p.raw.set k v }

theorem senseRawChange_of_same (same : s.pins.raw[k] = v) : s.senseRawChange k v = s := if_pos same

theorem senseRawChange_of_outOfService (other : s.pins.raw[k] ≠ v) (out : s.inService = false) : s.senseRawChange k v = s.rawMoved k v :=
  (if_neg other).trans (if_neg (by show ¬ s.inService = true; rw [out]; exact Bool.false_ne_true))

theorem senseRawChange_of_inService (other : s.pins.raw[k] ≠ v) (service : s.inService = true) :
    s.senseRawChange k v = (s.rawMoved k v).sensedChange k v := (if_neg other).trans (if_pos service)

theorem sensedChange_of_unknown (unknown : (s.power.sense[k]).level = none) : s.sensedChange k v =
    if (s.power.sense[k]).debounce = 0 then s.establish k v
    else s.setSense k { s.power.sense[k] with pending := .establishing (s.clock.now + BitVec.ofNat 48 ((s.power.sense[k]).debounce * 1000)) } := by
  rw [State.sensedChange]
  dsimp only
  rw [unknown]
  rfl

theorem sensedChange_of_away (away : (s.power.sense[k]).level = some (!v)) : s.sensedChange k v =
    if (s.power.sense[k]).debounce = 0 then s.raiseEdge k v
    else s.setSense k { s.power.sense[k] with pending := .change (s.clock.now + BitVec.ofNat 48 ((s.power.sense[k]).debounce * 1000)) } := by
  rw [State.sensedChange]
  dsimp only
  rw [away]
  exact if_neg (by cases v <;> decide)

theorem sensedChange_of_back {t : Time} (level : (s.power.sense[k]).level = some v) (pending : (s.power.sense[k]).pending = .change t) :
    s.sensedChange k v = (s.setSense k { s.power.sense[k] with pending := .none }).onPowerCnt fun c => { c with
      glitches := c.glitches.set k (c.glitches[k] + 1) } := by
  rw [State.sensedChange]
  dsimp only
  rw [level]
  dsimp only
  rw [if_pos rfl, pending]

theorem sensedChange_of_there (level : (s.power.sense[k]).level = some v) (nothing : ∀ t, (s.power.sense[k]).pending ≠ .change t) :
    s.sensedChange k v = s := by
  rw [State.sensedChange]
  rw [level]
  dsimp only
  rw [if_pos rfl]
  split
  · rename_i t pending
    exact absurd pending (nothing t)
  · rfl

theorem senseChangeDue_of_change {t : Time} (pending : (s.power.sense[k]).pending = .change t) : s.senseChangeDue k =
    if (s.clock.now - t).toNat < 2 ^ 47 then s.raiseEdge k s.pins.raw[k] else s := by
  rw [State.senseChangeDue, pending]
  exact if_congr reached_iff rfl rfl

theorem senseEstablishmentDue_of_establishing {t : Time} (pending : (s.power.sense[k]).pending = .establishing t) :
    s.senseEstablishmentDue k = if (s.clock.now - t).toNat < 2 ^ 47 then s.establish k s.pins.raw[k] else s := by
  rw [State.senseEstablishmentDue, pending]
  exact if_congr reached_iff rfl rfl

end Raw

/-! ### Edges -/

theorem edgeMatches_iff {n : Nat} {v : Bool} : edgeMatches n v = true ↔ (n = 0 ∧ v = true) ∨ (n = 1 ∧ v = false) ∨ n = 2 := by
  match n with
  | 0 => simp [edgeMatches]
  | 1 => simp [edgeMatches]
  | 2 => simp [edgeMatches]
  | n + 3 => simp [edgeMatches]

theorem hits_iff {e : Trigger} {k : Fin 4} {v : Bool} : (e.valid && e.line == k.val && edgeMatches e.edge v) = true ↔
    e.valid = true ∧ e.line = k.val ∧ ((e.edge = 0 ∧ v = true) ∨ (e.edge = 1 ∧ v = false) ∨ e.edge = 2) := by
  rw [Bool.and_eq_true, Bool.and_eq_true, beq_iff_eq, edgeMatches_iff, and_assoc]

theorem bootWindowExpiry_of_closed {s : State} (closed : s.power.window = none) : s.bootWindowExpiry = s := by
  rw [State.bootWindowExpiry, closed]

theorem bootWindowExpiry_of_open {s : State} {t : Time} (isOpen : s.power.window = some t) : s.bootWindowExpiry =
    if (s.clock.now - t).toNat < 2 ^ 47 then s.closeWindow Config.markWindowExpired else s := by
  rw [State.bootWindowExpiry, isOpen]
  exact if_congr reached_iff rfl rfl

/-- Settles O56: the pin, the debounced level and the edge, each by its cases. -/
theorem senseLinesDebounced : Obligations.SenseLinesDebounced := by
  refine ⟨fun s k => ⟨awaitLevel_of_idle, fun c running => ?_⟩, fun s k v => ?_, fun s k t => ⟨fun change => ⟨fun due => ?_, fun early => ?_⟩,
    fun establishing => ⟨fun due => ?_, fun early => ?_⟩⟩, fun s k v => ⟨?_, ?_⟩, fun s new => ⟨fun same => if_pos same, fun other => if_neg other⟩,
    fun s k v n => ⟨fun miss => if_neg (mt hits_iff.mp miss), fun hit => if_pos (hits_iff.mpr hit)⟩,
    fun s => ⟨fun closed => congrArg Host.Outcome.next (bootWindowExpiry_of_closed closed), fun t isOpen => ⟨fun early => ?_, fun due => ?_⟩⟩⟩
  · intro met
    refine ⟨fun ⟨⟨t, awaiting⟩, line, level⟩ => (awaitLevel_of_awaiting running awaiting).trans (if_pos ⟨line, level⟩), fun unmet => ?_⟩
    by_cases awaits : ∃ t, c.wait = .awaiting t
    · obtain ⟨t, awaiting⟩ := awaits
      exact (awaitLevel_of_awaiting running awaiting).trans (if_neg fun both => unmet ⟨⟨t, awaiting⟩, both⟩)
    · exact awaitLevel_of_otherWait running fun t awaiting => awaits ⟨t, awaiting⟩
  · intro x moved due pend
    refine ⟨fun same => congrArg Host.Outcome.next (senseRawChange_of_same same), fun other out => ?_, fun other on => ?_⟩
    · have outside : s.inService = false := by obtain h | h := out <;> rw [State.inService, h] <;> rfl
      exact congrArg Host.Outcome.next (senseRawChange_of_outOfService other outside)
    · have service : s.inService = true := by obtain h | h := on <;> rw [State.inService, h] <;> rfl
      have sensed : exec (.senseRawChange k v) s = .next (moved.sensedChange k v) :=
        congrArg Host.Outcome.next (senseRawChange_of_inService other service)
      refine ⟨fun unknown long => ?_, fun unknown short => ?_, fun away long => ?_, fun away short => ?_, fun t level pending => ?_,
        fun level nothing => ?_⟩
      · exact sensed.trans (congrArg Host.Outcome.next ((sensedChange_of_unknown (s := moved) unknown).trans (if_neg long)))
      · exact sensed.trans (congrArg Host.Outcome.next ((sensedChange_of_unknown (s := moved) unknown).trans (if_pos short)))
      · exact sensed.trans (congrArg Host.Outcome.next ((sensedChange_of_away (s := moved) away).trans (if_neg long)))
      · exact sensed.trans (congrArg Host.Outcome.next ((sensedChange_of_away (s := moved) away).trans (if_pos short)))
      · exact sensed.trans (congrArg Host.Outcome.next (sensedChange_of_back (s := moved) level pending))
      · exact sensed.trans (congrArg Host.Outcome.next (sensedChange_of_there (s := moved) level nothing))
  · exact congrArg Host.Outcome.next ((senseChangeDue_of_change change).trans (if_pos due))
  · exact congrArg Host.Outcome.next ((senseChangeDue_of_change change).trans (if_neg early))
  · exact congrArg Host.Outcome.next ((senseEstablishmentDue_of_establishing establishing).trans (if_pos due))
  · exact congrArg Host.Outcome.next ((senseEstablishmentDue_of_establishing establishing).trans (if_neg early))
  · rfl
  · rfl
  · exact congrArg Host.Outcome.next ((bootWindowExpiry_of_open isOpen).trans (if_neg (Nat.not_lt.mpr early)))
  · have isOpen' : s.power.window ≠ none := by rw [isOpen]; exact nofun
    exact congrArg Host.Outcome.next (((bootWindowExpiry_of_open isOpen).trans (if_pos due)).trans (closeWindow_of_open isOpen' _))

end Sys2Proof.Machine
end

section
/-! The time base and the statistics (R168, R169). -/

namespace Sys2Proof.Machine

theorem timeSet_of_value {s : State} {r : Rec} {v : Nat} (small : v < 2 ^ 40) (body : r.body = natBytes 5 v) :
    s.timeSet r = ⟨.ok, 1 :: natBytes 5 v ++ natBytes 6 s.clock.now.toNat, s.onClock fun c => ⟨c.now, some ⟨v, c.now⟩⟩⟩ := by
  have read : fieldAt 0 5 (natBytes 5 v) = v := beNat_natBytes_of_lt (n := 5) (lt_of_lt_of_eq small (by decide))
  rw [State.timeSet, body, read]
  exact if_neg (Nat.not_le.mpr small)

/-! ### The anchor -/

section Anchor
variable {s : State} {a : EpochAnchor}

theorem epochAnchorAdvance_of_none (unset : s.clock.anchor = none) : s.epochAnchorAdvance = s := by rw [State.epochAnchorAdvance, unset]

theorem epochAnchorAdvance_of_some (anchored : s.clock.anchor = some a) : s.epochAnchorAdvance =
    if 2 ^ 46 ≤ (s.clock.now - a.at').toNat then s.onClock fun c => { c with anchor := some (a.moved c.now) } else s := by
  rw [State.epochAnchorAdvance, anchored]
  rfl

/-- What is left since the moved anchor is less than a second. -/
theorem elapsed_moved (a : EpochAnchor) (now : Time) : elapsed now (a.moved now).at' / 1000000 = 0 := by
  have gone : (now - a.at').toNat < 2 ^ 48 := (now - a.at').isLt
  have seconds : (now - a.at').toNat / 1000000 * 1000000 ≤ (now - a.at').toNat := Nat.div_mul_le_self ..
  have left : now - (a.moved now).at' = (now - a.at') - BitVec.ofNat 48 ((now - a.at').toNat / 1000000 * 1000000) := by
    show now - (a.at' + BitVec.ofNat 48 ((now - a.at').toNat / 1000000 * 1000000)) = _
    exact (BitVec.sub_sub ..).symm
  rw [elapsed, left, BitVec.toNat_sub_of_le, BitVec.toNat_ofNat, Nat.mod_eq_of_lt (Nat.lt_of_le_of_lt seconds gone)]
  · omega
  · rw [BitVec.le_def, BitVec.toNat_ofNat]
    exact Nat.le_trans (Nat.mod_le ..) seconds

theorem epoch_moved {c : Clock} (anchored : c.anchor = some a) : ({ c with anchor := some (a.moved c.now) } : Clock).epoch = c.epoch := by
  show some (((a.moved c.now).value + elapsed c.now (a.moved c.now).at' / 1000000) % 2 ^ 40) = _
  rw [elapsed_moved, Clock.epoch, anchored, Nat.add_zero]
  exact congrArg some (Nat.mod_mod ..)

end Anchor

/-! ### Groups cleared -/

/-- Changing each element by its index is mapping. -/
theorem ofFn_eq_map {α : Type} {n : Nat} (v : Vector α n) (f : α → α) : (Vector.ofFn fun i : Fin n => f v[i]) = v.map f :=
  Vector.ext fun i bound => by simp only [Vector.getElem_ofFn, Vector.getElem_map, Fin.getElem_fin]

theorem clearGroup_meters (s : State) : s.clearGroup .meters = s.onMeters fun x => { x with
    bank := x.bank.map fun m => { m with conform := 0, exceed := 0 } } := by
  have bank (x : Meters) : (Vector.ofFn fun i => { x.bank[i] with conform := 0, exceed := 0 }) =
    x.bank.map fun m => { m with conform := 0, exceed := 0 } := ofFn_eq_map x.bank fun m => { m with conform := 0, exceed := 0 }
  simp only [State.clearGroup, bank]

theorem clearGroup_console (s : State) : s.clearGroup .console = (s.onLine fun l => { l with cnt := {} }).onHist fun h => { h with
    cnt := {}, patterns := h.patterns.map fun p => { p with hits := 0 } } := by
  have patterns (h : History) : (Vector.ofFn fun i => { h.patterns[i] with hits := 0 }) = h.patterns.map fun p => { p with hits := 0 } :=
    ofFn_eq_map h.patterns fun p => { p with hits := 0 }
  simp only [State.clearGroup, patterns]

theorem clearGroup_power (s : State) : s.clearGroup .power = (s.onPower fun p => { p with
    cnt := {}, triggers := p.triggers.map fun x => { x with hits := 0 } }).onScript fun e => { e with cnt := {} } := by
  have triggers (p : PowerUnit) : (Vector.ofFn fun i => { p.triggers[i] with hits := 0 }) = p.triggers.map fun x => { x with hits := 0 } :=
    ofFn_eq_map p.triggers fun x => { x with hits := 0 }
  simp only [State.clearGroup, triggers]

/-- Settles O57: the anchor by what has elapsed, the groups one by one. -/
theorem timeAndStatistics : Obligations.TimeAndStatistics := by
  refine ⟨fun r s v ready passes small body => ?_, fun c => ⟨fun unset => by rw [Clock.epoch, unset]; rfl,
    fun a anchored => by rw [Clock.epoch, anchored]; rfl⟩, fun s => ⟨fun unset => congrArg Host.Outcome.next (epochAnchorAdvance_of_none unset),
      fun a anchored => ?_⟩, fun r s b ready passes body => ⟨fun unknown => ?_, fun g known => ?_⟩, rfl, fun s => ?_⟩
  · exact answers_of_handler (h := State.timeSet) rfl nofun ready passes (timeSet_of_value (s := s.popRecord) small body)
  · intro gone k moved
    have advanced := epochAnchorAdvance_of_some anchored
    refine ⟨fun near => congrArg Host.Outcome.next (advanced.trans (if_neg (Nat.not_le.mpr near))), fun far => ⟨?_, epoch_moved anchored⟩⟩
    exact congrArg Host.Outcome.next (advanced.trans (if_pos far))
  · have unknown' : b = 0 ∨ 9 < b.toNat := unknown.imp_left fun zero => BitVec.eq_of_toNat_eq zero
    exact answers_of_handler (c := .statsReadClear) (h := State.statsRead true) rfl nofun ready passes (statsRead_of_unknown body unknown' true)
  · have cleared := answers_of_handler (c := .statsReadClear) (h := State.statsRead true) rfl nofun ready passes (statsRead_clearing (s := s.popRecord) body known)
    rwa [groupBytes_popRecord] at cleared
  · exact ⟨rfl, rfl, congrArg (fun st => { s with steer := st }) (ofFn_eq_map s.steer fun e => { e with hits := 0 }), clearGroup_meters s, rfl, rfl,
      clearGroup_console s, rfl, clearGroup_power s⟩

end Sys2Proof.Machine
end

section
/-! STORE: the record, the image it writes, and its completion (R173, R174). -/

namespace Sys2Proof.Machine

/-! ### The record -/

section Record
variable {s : State} (r : Rec)

theorem storeImage_of_busy (busy : s.loader.store ≠ .idle) : s.storeImage r = ⟨.busy, [], s⟩ := if_pos busy

theorem storeImage_of_long (idle : s.loader.store = .idle) (long : eepromBytes s.loader.straps < 12 + s.imageBytes.length) :
    s.storeImage r = ⟨.range, [], s⟩ :=
  (if_neg (not_not_intro idle)).trans (if_pos long)

theorem storeImage_of_fits (idle : s.loader.store = .idle) (fits : 12 + s.imageBytes.length ≤ eepromBytes s.loader.straps) :
    s.storeImage r = ⟨.ok, natBytes 4 s.imageBytes.length, s.onLoader fun l => l.beginStore s.imageBytes⟩ :=
  (if_neg (not_not_intro idle)).trans (if_neg (Nat.not_lt.mpr fits))

end Record

/-! ### The image -/

/-- The indexes of OPERATOR as the entries of the vector. -/
theorem range_filter_eq {n : Nat} (p : Nat → Bool) (q : Fin n → Bool) (agree : ∀ i : Fin n, p i.val = q i) :
    (List.range n).filter p = ((List.finRange n).filter q).map Fin.val := by
  have indexes : List.range n = (List.finRange n).map Fin.val := List.ext_getElem (by simp) (by simp)
  rw [indexes, List.filter_map, show p ∘ Fin.val = q from funext agree]

theorem storeIndexes_of_other (s : State) {t : TableId} (other : t ≠ .operator) : s.storeIndexes t = List.range t.entries :=
  if_neg other

theorem storeIndexes_operator (s : State) : s.storeIndexes .operator =
    ((List.finRange 8).filter fun i => ((s.operators[i]).valid && (s.operators[i]).privs.admin) == true).map Fin.val ++
      ((List.finRange 8).filter fun i => ((s.operators[i]).valid && (s.operators[i]).privs.admin) == false).map Fin.val := by
  rw [State.storeIndexes, if_pos rfl]
  refine congr (congrArg HAppend.hAppend (range_filter_eq (n := 8) _ _ fun i => ?_)) (range_filter_eq (n := 8) _ _ fun i => ?_)
  · rw [idx?_val, Option.any_some, beq_true]
  · rw [beq_false]; exact congrArg (fun o => !Option.any _ o) (idx?_val i)

theorem imageRecord_bytes (t : TableId) (i : Nat) (e : List Byte) : (ImageRecord.mk t.code i e).bytes =
    natBytes 2 (4 + e.length) ++ natBytes 1 t.code ++ natBytes 1 i ++ e := rfl

/-! ### The completion -/

theorem byteSum_eq (bs : List Byte) : byteSum bs = BitVec.ofNat 32 (bs.map BitVec.toNat).sum := by
  have fold : ∀ (bs : List Byte) (a : Nat), bs.foldl (fun x b => x + b.setWidth 32) (BitVec.ofNat 32 a) =
      BitVec.ofNat 32 (a + (bs.map BitVec.toNat).sum) := by
    intro bs
    induction bs with
    | nil => intro a; rfl
    | cons b bs ih =>
      intro a
      have one : BitVec.ofNat 32 a + b.setWidth 32 = BitVec.ofNat 32 (a + b.toNat) := by
        rw [BitVec.ofNat_add, BitVec.ofNat_toNat]
      rw [List.foldl_cons, one, ih, List.map_cons, List.sum_cons, Nat.add_assoc]
  exact (fold bs 0).trans (by rw [Nat.zero_add])

section Completion
variable {s : State}

theorem storeComplete_of_idle (agreed : Bool) (idle : s.loader.store = .idle) : s.storeComplete agreed = s := by
  rw [State.storeComplete, idle]

theorem storeComplete_of_agreed {bs : List Byte} (storing : s.loader.store = .inProgress bs) : s.storeComplete true =
    (s.onLoader fun l => { l with
      store := .idle, image := { l.image with eeprom := .stored }
      eeprom := ⟨some 0x4B485449, bs.length, BitVec.ofNat 32 (bs.map BitVec.toNat).sum, bs⟩ }).raiseNotice (.storeDone true) := by
  rw [State.storeComplete, storing, ← byteSum_eq]
  rfl

theorem storeComplete_of_failed {bs : List Byte} (storing : s.loader.store = .inProgress bs) : s.storeComplete false =
    (s.onLoader fun l => { l with store := .idle, image := { l.image with eeprom := .invalid } }).raiseNotice (.storeDone false) := by
  rw [State.storeComplete, storing]
  rfl

end Completion

/-- Settles O58: the tests of STORE, the image table by table, and the notice at the end. -/
theorem storeBuildsAndEnds : Obligations.StoreBuildsAndEnds := by
  refine ⟨fun r s ready passes => ?_, fun s => ?_, fun s agreed => ⟨fun idle => ?_, fun image storing => ⟨?_, ?_⟩⟩⟩
  · refine ⟨fun busy => ?_, fun idle long => ?_, fun idle fits => ?_⟩
    · exact answers_of_handler (h := State.storeImage) rfl nofun ready passes (storeImage_of_busy (s := s.popRecord) r busy)
    · exact answers_of_handler (h := State.storeImage) rfl nofun ready passes (storeImage_of_long (s := s.popRecord) r idle long)
    · exact answers_of_handler (h := State.storeImage) rfl nofun ready passes (storeImage_of_fits (s := s.popRecord) r idle fits)
  · intro stored table admin operators
    have record : s.storeRecord = stored := funext fun t => funext fun i => by
      simp only [State.storeRecord, show factoryState = State.reset from rfl, imageRecord_bytes, stored]
      rcases s.entryBytes t i with _ | e
      · rfl
      · rcases State.reset.entryBytes t i with _ | f
        · exact if_neg nofun
        · exact if_congr (Option.some.injEq f e).to_iff rfl rfl
    have plain : ∀ t, t ≠ .operator → ((s.storeIndexes t).map (s.storeRecord t)).flatten = table t := fun t other => by
      rw [storeIndexes_of_other s other, record]
    have first : ((s.storeIndexes .operator).map (s.storeRecord .operator)).flatten = operators true ++ operators false := by
      rw [storeIndexes_operator, record, List.map_append, List.map_map, List.map_map, List.flatten_append]
      rfl
    simp only [State.imageBytes, storeOrder, List.map_cons, List.map_nil, List.flatten_cons, List.flatten_nil, List.append_nil,
      first, plain .port nofun, plain .domain nofun, plain .pcpMap nofun, plain .queue nofun, plain .pool nofun,
      plain .meter nofun, plain .steering nofun, plain .console nofun, plain .pattern nofun, plain .region nofun,
      plain .mediaParams nofun, plain .line nofun, plain .sense nofun, plain .senseTrigger nofun, plain .scriptDir nofun,
      plain .scriptStep nofun, List.append_assoc]
  · exact congrArg Host.Outcome.next (storeComplete_of_idle agreed idle)
  · exact notifies_of_exec (congrArg Host.Outcome.next (storeComplete_of_agreed storing))
  · exact notifies_of_exec (congrArg Host.Outcome.next (storeComplete_of_failed storing))

end Sys2Proof.Machine
end

section
/-! What the clearing of a restart makes of each field, step by step (R176, R177). -/

namespace Sys2Proof.Machine

/-! ### Step 1: the running script finishes ABORTED -/

/-- A notice leaves the state the agent is in. -/
theorem pumpN_agent_state (n : Nat) (s : State) : (s.pumpN n).agent.state = s.agent.state := by
  induction n generalizing s with
  | zero => rfl
  | succ n ih =>
    unfold State.pumpN
    split
    · rfl
    split
    · rfl
    · split
      · rfl
      · rename_i p _ _ t placed
        obtain ⟨u, room, rfl⟩ := Option.map_eq_some_iff.mp (placed : (s.placeOut .agent (s.pushFrame p)).map _ = some t)
        have same : u.agent.unheard = s.agent.unheard := SameAgent.placeOut room
        have state : u.agent.state = s.agent.state := (congrArg Agent.state same :)
        exact (ih _).trans state

theorem raiseNotice_agent_state (n : Notice) (s : State) : (s.raiseNotice n).agent.state = s.agent.state := pumpN_agent_state ..

/-- The end of a script before its notice is raised (R158). -/
def State.scriptEnded (c : Running) (o : ScriptOutcome) (step : Nat) (s : State) : State :=
  ((s.onPower PowerUnit.linesToIdle).setHoldS false).onScript fun e => { e with
    running := none, last := some ⟨c.script, c.source, c.prio, o, step, c.start, s.clock.now⟩, cnt := e.cnt.finished o }

section
variable {s : State} {c : Running}

theorem finishCore_of_running (running : s.script.running = some c) (o : ScriptOutcome) (step : Nat) :
    s.finishCore o step = (s.scriptEnded c o step).raiseNotice (.scriptEnd c.script o step) := by
  rw [State.finishCore, running]
  rfl

theorem restartScript_of_none (resting : s.script.running = none) : s.restartScript = s := by
  rw [State.restartScript, resting]

theorem restartScript_of_running (running : s.script.running = some c) :
    s.restartScript = (s.scriptEnded c .aborted c.cur).raiseNotice (.scriptEnd c.script .aborted c.cur) := by
  rw [State.restartScript, running]
  exact finishCore_of_running running ..

theorem linesToIdle_lines (p : PowerUnit) (k : Fin 6) : p.linesToIdle.lines[k] = (p.lines[k]).returned :=
  ((linesToIdle_fold (List.nodup_finRange 6) p).1 k).trans (if_pos (List.mem_finRange k))

theorem linesToIdle_eq (p : PowerUnit) : ∃ lines drives, p.linesToIdle = { p with
    lines := lines, cnt := { p.cnt with drives := drives } } :=
  ⟨_, _, (linesToIdle_fold (List.nodup_finRange 6) p).2⟩

/-- A line once the script that runs, if one does, has ended (R139). -/
theorem returned_eq (l : OutLine) : l.returned = { l with
    level := if l.cls = .momentary then l.idle else l.level, byScript := l.byScript && !(l.cls == .momentary) } := by
  obtain ⟨cls, idle, level, driven, byScript⟩ := l
  cases cls with
  | latching => exact congrArg (OutLine.mk _ _ _ _) (Bool.and_true byScript).symm
  | momentary => exact congrArg (OutLine.mk _ _ _ _) (Bool.and_false byScript).symm

end

/-! ### Steps 2 and 5 as changes of their blocks -/

section
variable (s : State)

theorem restartStore_eq : s.restartStore = s.onLoader fun l => { l with
    store := .idle, image := { l.image with eeprom := if l.store = .idle then l.image.eeprom else .invalid } } := by
  unfold State.restartStore
  split
  · rename_i idle
    rw [State.onLoader, if_pos idle, ← idle]
  · rename_i storing
    rw [State.onLoader, State.onLoader, if_neg storing]

/-- The receiver once a measurement has been abandoned (R70). -/
def ConsoleLine.rxSettled (l : ConsoleLine) : Receiver := if l.state = .running then l.rx else .ready

/-- The transmitter once a break has been ended (R71). -/
def ConsoleLine.txUnbroken (l : ConsoleLine) (now : Time) : Transmitter :=
  match l.tx with
  | .brk _ c _ => .gap c.cycles now
  | tx => tx

theorem abandonMeasurement_onLine : s.abandonMeasurement = s.onLine fun l => { l with state := .running, rx := l.rxSettled } := by
  rw [abandonMeasurement_eq]
  split
  · rename_i running
    rw [State.onLine, ConsoleLine.rxSettled, if_pos running, ← running]
  · rename_i measuring
    rw [State.onLine, State.onLine, ConsoleLine.rxSettled, if_neg measuring]

theorem txUnbroken_of_noBreak {l : ConsoleLine} (now : Time) (other : ∀ ms c since, l.tx ≠ .brk ms c since) :
    l.txUnbroken now = l.tx := by
  unfold ConsoleLine.txUnbroken
  split
  · rename_i sending
    exact (other _ _ _ sending).elim
  · rfl

theorem endBreak_eq : s.endBreak = s.onLine fun l => { l with tx := l.txUnbroken s.clock.now } := by
  unfold State.endBreak
  split
  · rename_i ms c t sending
    rw [State.onLine, State.onLine, ConsoleLine.txUnbroken, sending]
  · rename_i other
    rw [State.onLine, txUnbroken_of_noBreak _ other]

theorem restartConsole_eq : s.restartConsole = (s.onLine fun l => { l with
      state := .running, rx := l.rxSettled, tx := l.txUnbroken s.clock.now, fifo := [], owner := none
      ctsCounted := false }).onHist fun h => { h with
    watchers := Vector.replicate 4 none, lastServed := none, notices := [], offerWaiting := false, marks := [], nextMark := 0 } := by
  rw [State.restartConsole, abandonMeasurement_onLine, endBreak_eq]
  rfl

end

/-! ### The state after the clearing, field by field, over the state `u` that step 1 leaves -/

/-- Steps 2 to 7, the start record and the factory tables. -/
def State.cleared (start : StartRecord) (u : State) : State :=
  ((u.restartStore.restartFrames.restartMedia.restartConsole.restartPower.clearAll.onLoader fun l =>
    { l with start := start }).factoryTables.setPhase .reloading)

theorem restartBegin_of_due {s : State} (running : s.phase = .running) (pending : s.agent.state = .restartPending)
    (gone : s.agent.restartGone = true) : s.restartBegin = s.restartScript.cleared
      ⟨.restart, s.agent.restartForce, s.media.dirtyCount, s.script.running.isSome, s.loader.store != .idle⟩ := by
  rw [State.restartBegin, if_pos ⟨running, pending, gone⟩]
  rfl

theorem restartBegin_of_not {s : State}
    (early : ¬ (s.phase = .running ∧ s.agent.state = .restartPending ∧ s.agent.restartGone = true)) : s.restartBegin = s :=
  if_neg early

section
variable (start : StartRecord) (u : State)

/-- The whole clearing as one expression. -/
theorem cleared_eq : u.cleared start = (((((u.onLoader fun l => { l with
    store := .idle, image := { l.image with eeprom := if l.store = .idle then l.image.eeprom else .invalid } }).restartFrames.restartMedia.onLine
      fun l => { l with
        state := .running, rx := l.rxSettled, tx := l.txUnbroken u.clock.now, fifo := [], owner := none
        ctsCounted := false }).onHist fun h => { h with
    watchers := Vector.replicate 4 none, lastServed := none, notices := [], offerWaiting := false, marks := []
    nextMark := 0 }).restartPower.clearAll.onLoader fun l => { l with start := start }).factoryTables.setPhase .reloading) := by
  rw [State.cleared, restartStore_eq, restartConsole_eq]
  rfl

theorem cleared_loader : (u.cleared start).loader = { u.loader with
    store := .idle
    image := { u.loader.image with eeprom := if u.loader.store = .idle then u.loader.image.eeprom else .invalid }
    start := start } := by
  rw [cleared_eq]
  rfl

theorem cleared_outside : (u.cleared start).pending = u.pending ∧ (u.cleared start).pins = u.pins ∧
    (u.cleared start).clock = u.clock := by
  rw [cleared_eq]
  cases u
  exact ⟨rfl, rfl, rfl⟩

theorem cleared_ports : (u.cleared start).ports = { State.reset.ports with link := u.ports.link, holdS := u.ports.holdS } := by
  rw [cleared_eq]
  rfl

theorem cleared_tables : (u.cleared start).dom = State.reset.dom ∧ (u.cleared start).steer = State.reset.steer ∧
    (u.cleared start).pcp = State.reset.pcp ∧ (u.cleared start).pool = State.reset.pool ∧
    (u.cleared start).meters = Factory.meters u.clock.now ∧ (u.cleared start).sched = State.reset.sched ∧
    (u.cleared start).agentOut = ⟨[], .idle⟩ ∧ (u.cleared start).mediaOut = ⟨[], .idle⟩ ∧
    (u.cleared start).operators = State.reset.operators := by
  rw [cleared_eq]
  exact ⟨rfl, rfl, rfl, rfl, rfl, rfl, rfl, rfl, rfl⟩

theorem cleared_agent : (u.cleared start).agent = { u.agent with
    inbox := [], todo := [], trailing := none, openReplies := [], closed := [], lastPlaced := .reply, retries := 0, cnt := {} } := by
  rw [cleared_eq]
  rfl

theorem cleared_line : (u.cleared start).line = { u.line with
    set := State.reset.line.set, state := .running, rx := u.line.rxSettled, tx := u.line.txUnbroken u.clock.now
    fifo := [], owner := none, ctsCounted := false, cnt := {} } := by
  rw [cleared_eq]
  rfl

theorem cleared_hist : (u.cleared start).hist = { State.reset.hist with ring := u.hist.ring, newest := u.hist.newest } := by
  rw [cleared_eq]
  rfl

theorem cleared_media : (u.cleared start).media = { State.reset.media with
    table := u.media.table.map fun e => { e with use := none } } := by
  have table := ofFn_eq_map u.media.table fun e => { e with use := none }
  rw [← table, cleared_eq]
  rfl

theorem cleared_power : (u.cleared start).power = { u.power with
    lines := Vector.ofFn fun k => { u.power.lines[k] with
      cls := (State.reset.power.lines[k]).cls, idle := (State.reset.power.lines[k]).idle }
    guardSecs := 10, window := none
    sense := Vector.ofFn fun k => { u.power.sense[k] with debounce := 20 }
    triggers := State.reset.power.triggers, cnt := {} } := by
  rw [cleared_eq]
  rfl

theorem cleared_script : (u.cleared start).script = { u.script with
    dir := State.reset.script.dir, steps := State.reset.script.steps, queue := [], cnt := {} } := by
  rw [cleared_eq]
  rfl

end

end Sys2Proof.Machine
end

section
/-! RESTART: judged, accepted, cleared and reloaded (R55, R175 to R177). -/

namespace Sys2Proof.Machine

/-! ### The record -/

theorem runRestart_of_passes {c : Instr} {r : Rec} {s : State} {force : Bool} {st : Status} {body : List Byte}
    (known : c ≠ .recordUnknownType) (ready : Ready c r s) (passes : Passes r s)
    (answer : s.popRecord.judgeRestart force = ⟨st, body, s.popRecord⟩) : s.runRestart c force =
      if st = .ok then (s.popRecord.pack ⟨r.type, r.tag, st, body⟩).acceptRestart force
      else s.popRecord.replied r st body := by
  rw [State.runRestart, nextRecord_of_ready ready]
  simp only [perform_of_passes known ready passes, answer]
  rfl

theorem judgeRestart_forced (s : State) : s.judgeRestart true = ⟨.ok, [1] ++ natBytes 4 s.media.dirtyCount ++
    flagByte s.script.running.isSome ++ flagByte (s.loader.store != .idle), s⟩ := rfl

section Judge
variable {s : State}

theorem judgeRestart_of_dirty (dirty : s.media.dirtyCount ≠ 0) : s.judgeRestart false = ⟨.dirty, [], s⟩ := by
  have refused : s.restartRefusal = some .dirty := if_pos dirty
  simp only [State.judgeRestart, Bool.false_eq_true, if_false, refused]

theorem judgeRestart_of_busy (clean : s.media.dirtyCount = 0) (busy : s.script.running ≠ none ∨ s.loader.store ≠ .idle) :
    s.judgeRestart false = ⟨.busy, [], s⟩ := by
  have refused : s.restartRefusal = some .busy := by
    rw [State.restartRefusal, if_neg (not_not_intro clean)]
    by_cases running : s.script.running.isSome = true
    · exact if_pos running
    · have stores := busy.resolve_left fun some => running (Option.isSome_iff_ne_none.mpr some)
      rw [if_neg running, if_pos stores]
  simp only [State.judgeRestart, Bool.false_eq_true, if_false, refused]

theorem judgeRestart_of_ready (clean : s.media.dirtyCount = 0) (resting : s.script.running = none)
    (idle : s.loader.store = .idle) : s.judgeRestart false = ⟨.ok, [0] ++ natBytes 4 0 ++ [0] ++ [0], s⟩ := by
  have passed : s.restartRefusal = none := by
    rw [State.restartRefusal, if_neg (not_not_intro clean), resting, if_neg nofun, if_neg (not_not_intro idle)]
  simp only [State.judgeRestart, Bool.false_eq_true, if_false, passed, clean, resting, idle]
  rfl

theorem refuses_of_judgeRestart {r : Rec} {st : Status} (ready : Ready .restart r s) (passes : Passes r s) (bad : st ≠ .ok)
    (answer : s.popRecord.judgeRestart false = ⟨st, [], s.popRecord⟩) : Refuses .restart s r st [] := by
  refine ⟨?_, SameButTraffic.replied ..⟩
  have runs := runRestart_of_passes (c := .restart) nofun ready passes answer
  rw [if_neg bad] at runs
  exact congrArg Host.Outcome.next runs

end Judge

theorem flagByte_of_running {α : Type} (o : Option α) : flagByte o.isSome = [if o = none then 0 else 1] := by cases o <;> rfl

theorem flagByte_of_store (x : StoreState) : flagByte (x != .idle) = [if x = .idle then 0 else 1] := by
  by_cases idle : x = .idle
  · rw [idle]; rfl
  · rw [if_neg idle, bne_iff_ne.mpr idle]; rfl

/-! ### The acceptance -/

/-- The agent with a RESTART accepted, its inbox frame not yet ended. -/
def State.accepting (force : Bool) (s : State) : State :=
  s.onAgent fun a => { a with todo := [], trailing := none, restartForce := force, restartAccepted := true }

section Accept
variable {s : State} {force : Bool}

theorem acceptRestart_eq : s.acceptRestart force = (s.accepting force).advance := rfl

theorem acceptRestart_of_nothingClosed (closed : s.agent.closed = []) (notPending : s.agent.state ≠ .restartPending) :
    s.acceptRestart force = (s.accepting force).enterPending.advance :=
  advance_of_accepted (s := s.accepting force) closed notPending rfl

theorem acceptRestart_of_unplaced {f : OutFrame} (closed : s.agent.closed = [f])
    (waits : (s.accepting force).placeOut .agent f = none) : s.acceptRestart force = (s.accepting force).enterWaiting :=
  advance_of_unplaced (s := s.accepting force) closed waits

theorem acceptRestart_of_placed {f : OutFrame} {t : State} (closed : s.agent.closed = [f])
    (notPending : s.agent.state ≠ .restartPending) (placed : (s.accepting force).placeOut .agent f = some t) :
    s.acceptRestart force = t.replyPlaced.enterPending.advance := by
  have next : s.acceptRestart force = t.replyPlaced.advance := advance_of_placed (s := s.accepting force) closed placed
  obtain ⟨rest, state, _, _, _, accepted⟩ := State.placeReply_agent (placeReply_of_placed placed)
  rw [next]
  refine advance_of_accepted (rest.trans ?_) (fun pending => notPending (state.symm.trans pending)) accepted
  exact congrArg (List.drop 1) closed

/-- The oldest inbox frame leaves; its cells may owe a retry to a reply frame that waits (R42, R52). -/
theorem dropInbox_agent (s : State) : ∃ n, s.dropInbox.agent = { s.agent with inbox := s.agent.inbox.drop 1, retries := n } := by
  cases inbox : s.agent.inbox with
  | nil =>
    have same : s.dropInbox = s := by rw [State.dropInbox, inbox]
    rw [same, List.drop_nil, ← inbox]
    exact ⟨s.agent.retries, rfl⟩
  | cons f rest => rw [State.dropInbox, inbox]; exact ⟨_, rfl⟩

theorem enterPending_agent (s : State) : ∃ n, s.enterPending.agent = { s.agent with
    openReplies := []
    closed := s.agent.closed ++ [s.controlFrame s.agent.src 0 s.agent.openReplies.length
      (s.agent.openReplies.map Reply.bytes).flatten .restartReply]
    inbox := s.agent.inbox.drop 1, state := .restartPending, restartAccepted := false, restartGone := false, retries := n } := by
  obtain ⟨n, left⟩ := dropInbox_agent (s.closeOpen false .restartReply)
  refine ⟨n, ?_⟩
  rw [State.enterPending, State.onAgent_agent, left]
  rfl

/-- With the inbox frame ended, one turn at the out-queue is left: the reply frame is placed, or waits in RESTART_PENDING. -/
theorem advance_enterPending_agent (closed : s.agent.closed = []) :
    let t := s.enterPending.advance
    t.agent.todo = s.agent.todo ∧ t.agent.trailing = s.agent.trailing ∧ t.agent.openReplies = [] ∧
    t.agent.state = .restartPending ∧ t.agent.restartForce = s.agent.restartForce ∧ t.agent.restartAccepted = false ∧
    t.agent.inbox = s.agent.inbox.drop 1 := by
  intro t
  obtain ⟨owed, ended⟩ := enterPending_agent s
  generalize s.controlFrame _ _ _ _ _ = f at ended
  rw [closed, List.nil_append] at ended
  have one : s.enterPending.agent.closed = [f] := by rw [ended]
  cases placed : s.enterPending.placeOut .agent f with
  | none =>
    have waits : t = s.enterPending.enterWaiting := advance_of_unplaced one placed
    rw [waits, State.enterWaiting, State.onAgent_agent, ended]
    exact ⟨rfl, rfl, rfl, rfl, rfl, rfl, rfl⟩
  | some u =>
    have same : u.agent.unheard = s.enterPending.agent.unheard := SameAgent.placeOut placed
    rw [ended] at same
    obtain ⟨inbox, state, op, src, todo, trailing, openReplies, rest, restartForce, restartAccepted, restartGone, lastPlaced,
      retries, cnt⟩ := Agent.mk.inj same
    have none : u.replyPlaced.agent.closed = [] := congrArg (List.drop 1) rest
    have stops : t = u.replyPlaced := (advance_of_placed one placed).trans (advance_of_pending none state)
    rw [stops]
    exact ⟨todo, trailing, openReplies, state, restartForce, restartAccepted, inbox⟩

theorem agentTakeFrame_of_pending (pending : s.agent.state = .restartPending) : s.agentTakeFrame = s := by
  rw [State.agentTakeFrame, pending]

end Accept

/-! ### The state that step 1 leaves -/

/-- The state once the running script, if one runs, has ended, before its notice. -/
def State.scriptStopped (s : State) : State :=
  match s.script.running with
  | none => s
  | some c => s.scriptEnded c .aborted c.cur

theorem scriptStopped_of_none {s : State} (resting : s.script.running = none) : s.scriptStopped = s := by
  rw [State.scriptStopped, resting]

theorem scriptStopped_of_running {s : State} {c : Running} (running : s.script.running = some c) :
    s.scriptStopped = s.scriptEnded c .aborted c.cur := by
  rw [State.scriptStopped, running]

theorem restartScript_same (s : State) : SameButPushes s.scriptStopped s.restartScript := by
  cases running : s.script.running with
  | none => rw [scriptStopped_of_none running, restartScript_of_none running]; exact SameButPushes.refl _
  | some c => rw [scriptStopped_of_running running, restartScript_of_running running]; exact SameButPushes.raiseNotice ..

theorem restartScript_agent_state (s : State) : s.restartScript.agent.state = s.agent.state := by
  cases running : s.script.running with
  | none => rw [restartScript_of_none running]
  | some c => rw [restartScript_of_running running, raiseNotice_agent_state]; rfl

section Stopped
variable (s : State)

theorem scriptEnded_power (c : Running) (o : ScriptOutcome) (step : Nat) :
    (s.scriptEnded c o step).power = s.power.linesToIdle := by
  rw [State.scriptEnded, State.onScript_power, State.setHoldS, State.onPorts_power, State.onPower_power]

/-- The end of the script changes the output lines, the hold of port S and the script engine; of the rest, what the clearing keeps. -/
theorem scriptStopped_kept : s.scriptStopped.pending = s.pending ∧ s.scriptStopped.pins = s.pins ∧ s.scriptStopped.clock = s.clock ∧
    s.scriptStopped.loader = s.loader ∧ s.scriptStopped.line = s.line ∧ s.scriptStopped.hist = s.hist ∧
    s.scriptStopped.media = s.media := by
  cases running : s.script.running with
  | none => rw [scriptStopped_of_none running]; exact ⟨rfl, rfl, rfl, rfl, rfl, rfl, rfl⟩
  | some c => rw [scriptStopped_of_running running]; simp [State.scriptEnded, State.setHoldS]

theorem scriptStopped_ports : s.scriptStopped.ports = { s.ports with holdS := s.ports.holdS && s.script.running.isNone } := by
  cases running : s.script.running with
  | none => rw [scriptStopped_of_none running]; exact congrArg (Ports.mk _ _ _ _) (Bool.and_true _).symm
  | some c => rw [scriptStopped_of_running running]; exact congrArg (Ports.mk _ _ _ _) (Bool.and_false _).symm

theorem scriptStopped_lines (k : Fin 6) : s.scriptStopped.power.lines[k] = { s.power.lines[k] with
    level := if s.script.running ≠ none ∧ (s.power.lines[k]).cls = .momentary then (s.power.lines[k]).idle
      else (s.power.lines[k]).level
    byScript := (s.power.lines[k]).byScript && !(s.script.running.isSome && (s.power.lines[k]).cls == .momentary) } := by
  cases running : s.script.running with
  | none =>
    rw [scriptStopped_of_none running, if_neg fun both => both.1 rfl]
    exact congrArg (OutLine.mk _ _ _ _) (Bool.and_true _).symm
  | some c =>
    rw [scriptStopped_of_running running, scriptEnded_power, linesToIdle_lines, returned_eq]
    refine congrArg (fun level => OutLine.mk _ _ level _ _) (if_congr ?_ rfl rfl)
    exact (and_iff_right (Option.some_ne_none c)).symm

theorem scriptStopped_power : ∃ lines cnt, s.scriptStopped.power = { s.power with lines := lines, cnt := cnt } := by
  cases running : s.script.running with
  | none => rw [scriptStopped_of_none running]; exact ⟨_, _, rfl⟩
  | some c =>
    obtain ⟨lines, drives, idle⟩ := linesToIdle_eq s.power
    rw [scriptStopped_of_running running, scriptEnded_power]
    exact ⟨_, _, idle⟩

theorem scriptStopped_script : ∃ cnt, s.scriptStopped.script = { s.script with
    running := none
    last := match s.script.running with
      | none => s.script.last
      | some c => some ⟨c.script, c.source, c.prio, .aborted, c.cur, c.start, s.clock.now⟩
    cnt := cnt } := by
  cases running : s.script.running with
  | none => rw [scriptStopped_of_none running]; exact ⟨s.script.cnt, by show _ = { s.script with running := none }; rw [← running]⟩
  | some c => rw [scriptStopped_of_running running, State.scriptEnded, State.onScript_script]; exact ⟨_, rfl⟩

end Stopped

/-! ### The clearing, field by field, over the state before it -/

section Begun
variable (start : StartRecord) (s : State)

theorem begun_outside : (s.restartScript.cleared start).pending = s.pending ∧ (s.restartScript.cleared start).pins = s.pins ∧
    (s.restartScript.cleared start).clock = s.clock := by
  have same := restartScript_same s
  obtain ⟨keptPending, keptPins, keptClock, -⟩ := scriptStopped_kept s
  obtain ⟨pending, pins, clock⟩ := cleared_outside start s.restartScript
  exact ⟨pending.trans (same.pending.trans keptPending), pins.trans (same.pins.trans keptPins),
    clock.trans (same.clock.trans keptClock)⟩

theorem begun_loader : (s.restartScript.cleared start).loader = { s.loader with
    store := .idle
    image := { s.loader.image with eeprom := if s.loader.store = .idle then s.loader.image.eeprom else .invalid }
    start := start } := by
  obtain ⟨-, -, -, kept, -⟩ := scriptStopped_kept s
  rw [cleared_loader, (restartScript_same s).loader, kept]

theorem begun_ports : (s.restartScript.cleared start).ports = { State.reset.ports with
    link := s.ports.link, holdS := s.ports.holdS && s.script.running.isNone } := by
  have same := restartScript_same s
  rw [cleared_ports, same.link, same.holdS, scriptStopped_ports]

theorem begun_line : (s.restartScript.cleared start).line = { s.line with
    set := State.reset.line.set, state := .running, rx := s.line.rxSettled, tx := s.line.txUnbroken s.clock.now
    fifo := [], owner := none, ctsCounted := false, cnt := {} } := by
  have same := restartScript_same s
  obtain ⟨-, -, clock, -, line, -⟩ := scriptStopped_kept s
  rw [cleared_line, same.line, same.clock, line, clock]

theorem begun_hist : (s.restartScript.cleared start).hist = { State.reset.hist with
    ring := s.hist.ring, newest := s.hist.newest } := by
  have same := restartScript_same s
  obtain ⟨-, -, -, -, -, hist, -⟩ := scriptStopped_kept s
  rw [cleared_hist, same.ring.1, same.ring.2, hist]

theorem begun_media : (s.restartScript.cleared start).media = { State.reset.media with
    table := s.media.table.map fun e => { e with use := none } } := by
  have same := restartScript_same s
  obtain ⟨-, -, -, -, -, -, media⟩ := scriptStopped_kept s
  have table : (s.restartScript.media.table.map fun e => { e with use := none }) = s.media.table.map fun e => { e with use := none } :=
    Vector.ext fun i bound => by
      have gen := same.gens ⟨i, bound⟩
      rw [media] at gen
      rw [Vector.getElem_map, Vector.getElem_map]
      exact congrArg (fun g => (⟨g, none⟩ : TransferEntry)) gen
  rw [cleared_media, table]

theorem begun_lines (k : Fin 6) : (s.restartScript.cleared start).power.lines[k] = { s.power.lines[k] with
    cls := (State.reset.power.lines[k]).cls
    idle := (State.reset.power.lines[k]).idle
    level := if s.script.running ≠ none ∧ (s.power.lines[k]).cls = .momentary then (s.power.lines[k]).idle
      else (s.power.lines[k]).level
    byScript := (s.power.lines[k]).byScript && !(s.script.running.isSome && (s.power.lines[k]).cls == .momentary) } := by
  have line := scriptStopped_lines s k
  rw [cleared_power, (restartScript_same s).power]
  refine (Vector.getElem_ofFn k.isLt).trans ?_
  exact congrArg (fun l : OutLine => { l with cls := (State.reset.power.lines[k]).cls, idle := (State.reset.power.lines[k]).idle }) line

end Begun

/-- Settles O59: the record judged and accepted, the clearing field by field, and the reload. -/
theorem restartJudgedClearedAndReloaded : Obligations.RestartJudgedClearedAndReloaded := by
  refine ⟨fun r s ready passes => ⟨fun dirty => ?_, fun clean busy => ?_, fun clean resting idle => ?_⟩, fun r s ready passes => ?_,
    fun s force notPending => ⟨fun closed => ?_, fun f closed => ⟨fun waits => ?_, fun t placed => ?_⟩⟩,
    fun s force closed notPending => ?_, fun s f rest pending inbox => ?_, fun s early => ?_, fun s running pending gone => ?_,
    fun s ack => ⟨fun other => ?_, fun reloading => ?_⟩⟩
  · exact refuses_of_judgeRestart ready passes nofun (judgeRestart_of_dirty (s := s.popRecord) dirty)
  · exact refuses_of_judgeRestart ready passes nofun (judgeRestart_of_busy (s := s.popRecord) clean busy)
  · exact congrArg Host.Outcome.next (runRestart_of_passes (c := .restart) nofun ready passes
      (judgeRestart_of_ready (s := s.popRecord) clean resting idle))
  · have answer := judgeRestart_forced s.popRecord
    rw [flagByte_of_running, flagByte_of_store] at answer
    exact congrArg Host.Outcome.next (runRestart_of_passes (c := .restartForce) nofun ready passes answer)
  · exact acceptRestart_of_nothingClosed closed notPending
  · exact acceptRestart_of_unplaced closed waits
  · exact acceptRestart_of_placed closed notPending placed
  · intro t
    rw [show t = (s.accepting force).enterPending.advance from acceptRestart_of_nothingClosed closed notPending]
    exact advance_enterPending_agent (s := s.accepting force) closed
  · exact congrArg Host.Outcome.next (agentTakeFrame_of_pending pending)
  · exact congrArg Host.Outcome.next (restartBegin_of_not early)
  · refine ⟨_, congrArg Host.Outcome.next (restartBegin_of_due running pending gone), ?_⟩
    generalize StartRecord.mk _ _ _ _ _ = start
    have same := restartScript_same s
    obtain ⟨-, -, sameClock, -⟩ := scriptStopped_kept s
    obtain ⟨keptPending, keptPins, keptClock⟩ := begun_outside start s
    obtain ⟨dom, steer, pcp, pool, meters, sched, agentOut, mediaOut, operators⟩ := cleared_tables start s.restartScript
    rw [same.clock, sameClock] at meters
    obtain ⟨lines, cnt, power⟩ := scriptStopped_power s
    obtain ⟨finished, script⟩ := scriptStopped_script s
    refine ⟨rfl, keptPending, keptPins, keptClock, begun_loader start s, begun_ports start s, dom, steer, pcp, pool, meters, sched,
      agentOut, mediaOut, operators, ?_⟩
    rw [cleared_agent, begun_line, begun_hist, begun_media]
    refine ⟨rfl, (restartScript_agent_state s).trans pending, rfl, rfl, rfl, rfl, rfl, rfl, rfl, rfl, fun running => ?_,
      fun ms c since sending => ?_, fun other => ?_, rfl, rfl, rfl, rfl, begun_lines start s, ?_⟩
    · exact if_pos running
    · show s.line.txUnbroken s.clock.now = _
      rw [ConsoleLine.txUnbroken, sending]
    · exact txUnbroken_of_noBreak _ other
    · rw [cleared_power, cleared_script, same.power, same.script, power, script]
      refine ⟨rfl, rfl, rfl, fun k => ?_, rfl, rfl, rfl, rfl, rfl, rfl, rfl, rfl, rfl, ?_⟩
      · exact Vector.getElem_ofFn k.isLt
      · cases s.script.running <;> rfl
  · exact congrArg Host.Outcome.next (if_neg other)
  · exact congrArg Host.Outcome.next (if_pos reloading)

end Sys2Proof.Machine
end

section
/-! The image: when it is good, its records, and how they are applied (R170, R171, R180). -/

namespace Sys2Proof.Machine

/-! ### The source of the tables (R170) -/

theorem imageValid_iff (e : Eeprom) (straps : Straps) : e.imageValid straps = true ↔
    e.magic = some 0x4B485449 ∧ e.length ≠ 0 ∧ 12 + e.length ≤ (if straps.eeLarge = true then 32768 else 8192) ∧
      BitVec.ofNat 32 ((e.records.take e.length).map BitVec.toNat).sum = e.sum := by
  simp only [Eeprom.imageValid, byteSum_eq, Bool.and_eq_true, beq_iff_eq, bne_iff_ne, decide_eq_true_eq, and_assoc]
  rfl

section Source
variable {s : State} {ack : EepromAck}

theorem loadTables_of_source {src : ImageSource} (source : s.loader.sourceOf ack = src) (other : src ≠ .image) :
    s.loadTables ack = s.onLoader fun l => { l with image := ⟨src, 0, 0, 0, .asLoaded⟩ } := by
  rw [State.loadTables, source]
  cases src with
  | image => exact absurd rfl other
  | _ => rfl

theorem loadTables_of_image (source : s.loader.sourceOf ack = .image) : s.loadTables ack =
    s.applyImage.state.onLoader fun l => { l with
      image := ⟨.image, s.loader.eeprom.length, s.applyImage.applied, s.applyImage.skipped, .asLoaded⟩ } := by
  rw [State.loadTables, source]

theorem sourceOf_of_off (off : s.loader.straps.loaderOff = true) : s.loader.sourceOf ack = .loaderOff := if_pos off

variable (on : s.loader.straps.loaderOff = false)
include on

theorem sourceOf_absent : s.loader.sourceOf .absent = .noEeprom := if_neg (ne_true_of_eq_false on)

theorem sourceOf_stopped : s.loader.sourceOf .stopped = .invalid := if_neg (ne_true_of_eq_false on)

theorem sourceOf_complete : s.loader.sourceOf .complete =
    if s.loader.eeprom.imageValid s.loader.straps = true then .image else .invalid := if_neg (ne_true_of_eq_false on)

end Source

/-! ### The walk over the records (R171, R180) -/

/-- A record whose fields fit their bytes. -/
def ImageRecord.Fits (r : ImageRecord) : Prop := r.table < 256 ∧ r.index < 256 ∧ 4 + r.entry.length < 65536

theorem imageWalk_of_record {n : Nat} {bs : List Byte} (least : 4 ≤ fieldAt 0 2 bs) (whole : fieldAt 0 2 bs ≤ bs.length) :
    imageWalk (n + 1) bs = (⟨fieldAt 2 1 bs, fieldAt 3 1 bs, (bs.drop 4).take (fieldAt 0 2 bs - 4)⟩ ::
      (imageWalk n (bs.drop (fieldAt 0 2 bs))).1, (imageWalk n (bs.drop (fieldAt 0 2 bs))).2) := by
  have some : ¬ bs.isEmpty = true := fun empty => by
    have : bs.length = 0 := List.length_eq_zero_iff.mpr (List.isEmpty_iff.mp empty)
    omega
  have good : ¬ (fieldAt 0 2 bs < 4 ∨ bs.length < fieldAt 0 2 bs) := by omega
  simp only [imageWalk, if_neg some, if_neg good]

theorem imageWalk_nil (n : Nat) : imageWalk n [] = ([], 0) := by
  cases n with
  | zero => rfl
  | succ n => rfl

theorem imageWalk_of_bad {n : Nat} {bs : List Byte} (some : bs ≠ []) (fuel : bs.length ≤ n)
    (bad : fieldAt 0 2 bs < 4 ∨ bs.length < fieldAt 0 2 bs) : imageWalk n bs = ([], 1) := by
  cases n with
  | zero => exact absurd (List.length_eq_zero_iff.mp (Nat.le_zero.mp fuel)) some
  | succ n =>
    have notEmpty : ¬ bs.isEmpty = true := fun empty => some (List.isEmpty_iff.mp empty)
    simp only [imageWalk, if_neg notEmpty, if_pos bad]

/-- A record written is the record walked. -/
theorem imageWalk_bytes {r : ImageRecord} (fits : r.Fits) (n : Nat) (rest : List Byte) :
    imageWalk (n + 1) (r.bytes ++ rest) = (r :: (imageWalk n rest).1, (imageWalk n rest).2) := by
  obtain ⟨table, index, length⟩ := fits
  have spelled : r.bytes ++ rest = natBytes 2 (4 + r.entry.length) ++ (natBytes 1 r.table ++ (natBytes 1 r.index ++
      (r.entry ++ rest))) := by simp only [ImageRecord.bytes, List.append_assoc]
  have len : fieldAt 0 2 (r.bytes ++ rest) = 4 + r.entry.length := by
    rw [spelled, fieldAt_start (natBytes_length ..), beNat_natBytes_of_lt (n := 2) length]
  have field2 : fieldAt 2 1 (r.bytes ++ rest) = r.table := by
    rw [spelled, fieldAt_middle (natBytes_length ..) (natBytes_length ..), beNat_natBytes_of_lt (n := 1) table]
  have field3 : fieldAt 3 1 (r.bytes ++ rest) = r.index := by
    rw [spelled, ← List.append_assoc, fieldAt_middle (by simp) (natBytes_length ..), beNat_natBytes_of_lt (n := 1) index]
  have size : r.bytes.length = 4 + r.entry.length := by
    simp only [ImageRecord.bytes, List.length_append, natBytes_length]
  have entry : ((r.bytes ++ rest).drop 4).take (4 + r.entry.length - 4) = r.entry := by
    rw [spelled, ← List.append_assoc, ← List.append_assoc, List.drop_left' (by simp), Nat.add_sub_cancel_left, List.take_left]
  have left : (r.bytes ++ rest).drop (4 + r.entry.length) = rest := List.drop_left' size
  rw [imageWalk_of_record (by omega) (by rw [len, List.length_append]; omega), len, field2, field3, entry, left]

theorem imageWalk_records {rs : List ImageRecord} (fits : ∀ r ∈ rs, r.Fits) {rest : List Byte} {n : Nat}
    (fuel : ((rs.map ImageRecord.bytes).flatten ++ rest).length ≤ n) :
    ∃ m, rest.length ≤ m ∧ imageWalk n ((rs.map ImageRecord.bytes).flatten ++ rest) =
      (rs ++ (imageWalk m rest).1, (imageWalk m rest).2) := by
  induction rs generalizing n with
  | nil => exact ⟨n, fuel, rfl⟩
  | cons r rs ih =>
    rw [List.map_cons, List.flatten_cons, List.append_assoc] at fuel ⊢
    have size : 4 ≤ r.bytes.length := by
      simp only [ImageRecord.bytes, List.length_append, natBytes_length]
      omega
    rw [List.length_append] at fuel
    obtain ⟨n, rfl⟩ : ∃ k, n = k + 1 := ⟨n - 1, by omega⟩
    obtain ⟨m, enough, walked⟩ := ih (fun x member => fits x (List.mem_cons_of_mem r member)) (n := n) (by omega)
    refine ⟨m, enough, ?_⟩
    rw [imageWalk_bytes (fits r List.mem_cons_self), walked]
    rfl

/-! ### The DOMAIN group (R171) -/

theorem inDomainGroup_iff (r : ImageRecord) : r.inDomainGroup = true ↔
    r.table = 1 ∧ ((r.index < 16 ∧ r.entry.length = 5) ∨ (r.index = 16 ∧ r.entry.length = 1)) := by
  simp only [ImageRecord.inDomainGroup, Bool.and_eq_true, beq_iff_eq, decide_eq_true_eq, TableId.code, TableId.entryLength,
    and_assoc]
  split <;> constructor <;> rintro ⟨table, rest⟩ <;> exact ⟨table, by omega⟩

/-- The record of an index that counts: the last one. -/
def lastAt (rs : List ImageRecord) (i : Nat) : Option ImageRecord := (rs.filter fun r => r.index == i).getLast?

theorem lastAt_cons (r : ImageRecord) (rs : List ImageRecord) (i : Nat) :
    lastAt (r :: rs) i = (lastAt rs i).or (if r.index = i then some r else none) := by
  rw [lastAt, List.filter_cons]
  by_cases here : r.index = i
  · rw [if_pos (beq_iff_eq.mpr here), if_pos here, List.getLast?_cons, lastAt]
    cases (rs.filter fun r => r.index == i).getLast? <;> rfl
  · rw [if_neg (fun eq => here (beq_iff_eq.mp eq)), if_neg here, Option.or_none, lastAt]

/-- A later record stands in place of an earlier one at its index. -/
theorem domainFields_eq {rs : List ImageRecord} (group : ∀ r ∈ rs, r.index ≤ 16) (d : Vector Domain 16 × Nat) :
    (∀ i : Fin 16, (domainFields rs d).1[i] = ((lastAt rs i.val).map fun x => readDomain x.entry).getD d.1[i]) ∧
    (domainFields rs d).2 = ((lastAt rs 16).map fun x => fieldAt 0 1 x.entry).getD d.2 := by
  induction rs generalizing d with
  | nil => exact ⟨fun i => rfl, rfl⟩
  | cons r rs ih =>
    have later := ih fun x member => group x (List.mem_cons_of_mem r member)
    have index := group r List.mem_cons_self
    cases found : idx? 16 r.index with
    | some i =>
      have here : i.val = r.index := idx?_some found
      obtain ⟨entries, mgmt⟩ := later (d.1.set i (readDomain r.entry), d.2)
      have step : domainFields (r :: rs) d = domainFields rs (d.1.set i (readDomain r.entry), d.2) := by
        rw [domainFields, found]
      refine ⟨fun j => ?_, ?_⟩
      · rw [step, entries j, lastAt_cons]
        cases lastAt rs j.val with
        | some x => rfl
        | none =>
          show (d.1.set i (readDomain r.entry))[j] = _
          by_cases same : i = j
          · subst same
            rw [if_pos here.symm]
            exact Vector.getElem_set_self ..
          · rw [if_neg fun eq => same (Fin.ext (here.trans eq))]
            exact Vector.getElem_set_ne _ _ fun eq => same (Fin.ext eq)
      · rw [step, mgmt, lastAt_cons, if_neg (by omega), Option.or_none]
    | none =>
      have beyond : ¬ r.index < 16 := fun below => by rw [idx?, dif_pos below] at found; exact nomatch found
      obtain ⟨entries, mgmt⟩ := later (d.1, fieldAt 0 1 r.entry)
      have step : domainFields (r :: rs) d = domainFields rs (d.1, fieldAt 0 1 r.entry) := by rw [domainFields, found]
      refine ⟨fun j => ?_, ?_⟩
      · rw [step, entries j, lastAt_cons, if_neg (by omega), Option.or_none]
      · rw [step, mgmt, lastAt_cons, if_pos (by omega)]
        cases lastAt rs 16 <;> rfl

end Sys2Proof.Machine
end

section
/-! Applying the records, and the start of the part (R170 to R172). -/

namespace Sys2Proof.Machine

/-! ### The tests on a whole domain table (R10 to R12) -/

/-- A domain table that keeps the protections where it replaces one that keeps them. -/
theorem domainsOk_iff {s : State} {d : Domains} (before : DomainsSound s) : s.domainsOk d = true ↔
    DomainVids d ∧ ManagementProtected d ∧ RewritesSound d s.steer ∧ ImageDomainsSound d s.media.regions := by
  constructor
  · intro ok
    have sound := Sound.domainsOk_sound ok before
    exact ⟨sound.vids, sound.management, sound.rewrites, sound.images⟩
  · rintro ⟨⟨inRange, unique⟩, management, rewrites, images⟩
    have rewritten : ∀ i : Fin 16, rewritesTo s.steer i = true → (d.entries[i]).valid = true ∧ i ≠ d.mgmt := fun i used => by
      obtain ⟨k, valid, value⟩ := rewritesTo_iff.mp used
      obtain ⟨j, same, sound⟩ := rewrites k i.val valid value
      rwa [Fin.ext same] at sound
    have imaged : ∀ i : Fin 16, imageDomainOf s.media.regions i = true →
        (d.entries[i]).valid = true ∧ (d.entries[i]).members.u = true ∧ (d.entries[i]).members.m = true := fun i used => by
      obtain ⟨g, valid, value⟩ := imageDomainOf_iff.mp used
      obtain ⟨j, same, sound⟩ := images g valid
      rwa [Fin.ext (same.trans value)] at sound
    have free : rewritesTo s.steer d.mgmt = false := Bool.eq_false_iff.mpr fun used => (rewritten _ used).2 rfl
    simp only [State.domainsOk, Bool.and_eq_true, List.all_eq_true, Bool.or_eq_true, Bool.not_eq_true', beq_iff_eq, bne_iff_ne,
      inRange_iff, managementOk_iff]
    refine ⟨⟨⟨⟨⟨fun i _ => ?_, fun i _ j _ => ?_⟩, management⟩, free⟩, fun i _ => ?_⟩, fun i _ => ?_⟩
    · exact (Bool.eq_false_or_eq_true _).symm.imp_right (inRange i)
    · by_cases same : i = j
      · exact .inl (.inl (.inl same))
      · cases vi : (d.entries[i]).valid with
        | false => exact .inl (.inl (.inr rfl))
        | true =>
          cases vj : (d.entries[j]).valid with
          | false => exact .inl (.inr rfl)
          | true => exact .inr (unique i j same vi vj)
    · exact (Bool.eq_false_or_eq_true _).symm.imp_right fun used => and_assoc.mpr (imaged i used)
    · exact (Bool.eq_false_or_eq_true _).symm.imp_right (fun used => (rewritten i used).1) |>.symm

/-! ### One record (R171, R180) -/

section Step
variable {l : Load} {all : List ImageRecord} {r : ImageRecord}

theorem step_of_met (group : r.inDomainGroup = true) (met : l.domainsMet = true) : l.step all r = l :=
  (if_pos group).trans (if_pos met)

theorem step_of_first (group : r.inDomainGroup = true) (first : l.domainsMet = false) : l.step all r = l.domains all :=
  (if_pos group).trans (if_neg (ne_true_of_eq_false first))

theorem step_of_malformedDomain (other : ¬ r.inDomainGroup = true) (domain : r.table = 1) :
    l.step all r = { l with skipped := l.skipped + 1 } :=
  (if_neg other).trans (if_pos domain)

theorem step_of_otherTable (table : r.table ≠ 1) : l.step all r = l.count 1 (l.state.applyRecord r) := by
  have other : ¬ r.inDomainGroup = true := fun group => table ((inDomainGroup_iff r).mp group).1
  exact (if_neg other).trans (if_neg table)

theorem applyRecord_of_unknown {s : State} (unknown : TableId.ofCode r.table = none) : s.applyRecord r = none := by
  rw [State.applyRecord, unknown]

theorem applyRecord_of_form {s : State} {t : TableId} (known : TableId.ofCode r.table = some t) : s.applyRecord r =
    if t.entryForm r.index r.entry = true then (s.writeEntry t r.index r.entry).toOption else none := by
  rw [State.applyRecord, known]
  refine if_congr Iff.rfl ?_ rfl
  cases s.writeEntry t r.index r.entry <;> rfl

/-- The group of an image. -/
def domainRecords (all : List ImageRecord) : List ImageRecord := all.filter ImageRecord.inDomainGroup

theorem domainRecords_index (all : List ImageRecord) : ∀ r ∈ domainRecords all, r.index ≤ 16 := fun r member => by
  obtain ⟨-, index⟩ := (inDomainGroup_iff r).mp (List.mem_filter.mp member).2
  omega

theorem domains_of_badManagement {x : ImageRecord} (last : lastAt (domainRecords all) 16 = some x) (beyond : 15 < fieldAt 0 1 x.entry) :
    l.domains all = { l with domainsMet := true, skipped := l.skipped + (domainRecords all).length } := by
  have made : domainGroup (domainRecords all) Factory.domains = none := by
    rw [domainGroup, (domainFields_eq (domainRecords_index all) _).2, last]
    exact congrArg (Option.map _) (idx?_of_ge beyond)
  rw [Load.domains, show all.filter ImageRecord.inDomainGroup = domainRecords all from rfl]
  dsimp only
  rw [made]
  rfl

theorem domainGroup_of_fields {d : Domains}
    (entries : ∀ i : Fin 16, d.entries[i] =
      ((lastAt (domainRecords all) i.val).map fun x => readDomain x.entry).getD Factory.domains.entries[i])
    (mgmt : d.mgmt.val = ((lastAt (domainRecords all) 16).map fun x => fieldAt 0 1 x.entry).getD 0) :
    domainGroup (domainRecords all) Factory.domains = some d := by
  obtain ⟨fieldEntries, fieldMgmt⟩ := domainFields_eq (domainRecords_index all) (Factory.domains.entries, Factory.domains.mgmt.val)
  have same : (domainFields (domainRecords all) (Factory.domains.entries, Factory.domains.mgmt.val)).1 = d.entries :=
    Vector.ext fun i bound => (fieldEntries ⟨i, bound⟩).trans (entries ⟨i, bound⟩).symm
  have named : (domainFields (domainRecords all) (Factory.domains.entries, Factory.domains.mgmt.val)).2 = d.mgmt.val :=
    fieldMgmt.trans mgmt.symm
  rw [domainGroup]
  rw [named, idx?_val, same]
  rfl

theorem domains_of_made {d : Domains} (made : domainGroup (domainRecords all) Factory.domains = some d) : l.domains all =
    if l.state.domainsOk d = true then { l with
      domainsMet := true, applied := l.applied + (domainRecords all).length, state := { l.state with dom := d } }
    else { l with domainsMet := true, skipped := l.skipped + (domainRecords all).length } := by
  rw [Load.domains, show all.filter ImageRecord.inDomainGroup = domainRecords all from rfl]
  dsimp only
  rw [made, Option.filter_some]
  split <;> rfl

end Step

/-! ### The start (R172) -/

section Start
variable {s : State}

theorem beginSensing_of_immediate {k : Fin 4} (none : (s.power.sense[k]).debounce = 0) :
    s.beginSensing k = s.establish k s.pins.raw[k] := if_pos none

/-- A sense line whose establishment has begun (R141). -/
def State.sensing (s : State) (k : Fin 4) : State := s.onPower fun p => { p with
  sense := p.sense.set k { p.sense[k] with
    pending := .establishing (s.clock.now + BitVec.ofNat 48 ((s.power.sense[k]).debounce * 1000)) } }

theorem beginSensing_of_debounced {k : Fin 4} (some : (s.power.sense[k]).debounce ≠ 0) : s.beginSensing k = s.sensing k := if_neg some

theorem sensing_sense (j k : Fin 4) : (s.sensing j).power.sense[k] = if j = k then { s.power.sense[j] with
    pending := .establishing (s.clock.now + BitVec.ofNat 48 ((s.power.sense[j]).debounce * 1000)) } else s.power.sense[k] :=
  getElem_set_if ..

theorem sensing_debounce (j k : Fin 4) : ((s.sensing j).power.sense[k]).debounce = (s.power.sense[k]).debounce := by
  rw [sensing_sense]
  split
  · rename_i same; rw [← same]
  · rfl

theorem autoAttach_of_due {g : Fin 4} (due : (s.media.regions[g]).cfg.valid = true ∧ (s.media.regions[g]).cfg.autoAttach = true ∧
    (s.media.regions[g]).state = .detached) : s.autoAttach g = s.beginAttach g := by
  obtain ⟨valid, auto, detached⟩ := due
  refine if_pos ?_
  rw [valid, auto, detached]
  rfl

theorem autoAttach_of_not {g : Fin 4} (not : ¬ ((s.media.regions[g]).cfg.valid = true ∧
    (s.media.regions[g]).cfg.autoAttach = true ∧ (s.media.regions[g]).state = .detached)) : s.autoAttach g = s :=
  if_neg fun due => not (by simpa only [Bool.and_eq_true, beq_iff_eq, and_assoc] using due)

theorem takePhy_of_down {p : Port} (down : s.pins.phy.get p = none) : s.takePhy p = s := by rw [State.takePhy, down]

theorem takePhy_of_up {p : Port} {v : Speed} (up : s.pins.phy.get p = some v) : s.takePhy p = (s.onPorts fun x => { x with
    link := x.link.set p (some v) }).onCnt p fun n => { n with linkChanges := n.linkChanges + 1 } := by
  rw [State.takePhy, up]
  rfl

theorem takePhy_eq (p : Port) : ∃ link cnt, s.takePhy p = s.onPorts fun x => { x with link := link, cnt := cnt } := by
  cases phy : s.pins.phy.get p with
  | none => exact ⟨_, _, takePhy_of_down phy⟩
  | some v => exact ⟨_, _, takePhy_of_up phy⟩

end Start

end Sys2Proof.Machine
end

section
/-! The supply, the load and the completed start (R170 to R172). -/

namespace Sys2Proof.Machine

/-! ### The completed start (R172) -/

section Complete
variable {s : State}

/-- Each output line driven at its idle level (R136). -/
def State.driven (s : State) : State := s.onPower fun p => { p with
  lines := p.lines.map fun l => { l with level := l.idle, driven := true, byScript := false } }

theorem onPower_driveIdle (s : State) : s.onPower PowerUnit.driveIdle = s.driven := by
  have lines := ofFn_eq_map s.power.lines fun l => { l with level := l.idle, driven := true, byScript := false }
  rw [State.driven, State.onPower, State.onPower, PowerUnit.driveIdle, lines]

theorem finRange_four : List.finRange 4 = [0, 1, 2, 3] := rfl

theorem foldl_finRange_four (f : State → Fin 4 → State) (s : State) : (List.finRange 4).foldl f s = f (f (f (f s 0) 1) 2) 3 := by
  rw [finRange_four]
  rfl

theorem completeStart_eq (s : State) : s.completeStart =
    ((((({ ((((((((s.driven.beginSensing 0).beginSensing 1).beginSensing 2).beginSensing 3).takePhy .u).takePhy .s).onLine fun l =>
      { l with rts := true })) with phase := .running } : State).autoAttach 0).autoAttach 1).autoAttach 2).autoAttach 3).onLoader fun l =>
      { l with start := ⟨.powerOn, false, 0, false, false⟩ } := by
  simp only [State.completeStart, onPower_driveIdle, State.autoAttachAll, foldl_finRange_four, State.setPhase]

theorem beginSensing_fold (js : List (Fin 4)) (debounced : ∀ k : Fin 4, (s.power.sense[k]).debounce ≠ 0) :
    js.foldl State.beginSensing s = js.foldl State.sensing s := by
  induction js generalizing s with
  | nil => rfl
  | cons j js ih =>
    rw [List.foldl_cons, beginSensing_of_debounced (debounced j)]
    exact ih fun k => by rw [sensing_debounce]; exact debounced k

theorem sensing_fold {js : List (Fin 4)} (once : js.Nodup) (k : Fin 4) : (js.foldl State.sensing s).power.sense[k] =
    if k ∈ js then { s.power.sense[k] with
      pending := .establishing (s.clock.now + BitVec.ofNat 48 ((s.power.sense[k]).debounce * 1000)) }
    else s.power.sense[k] := by
  induction js generalizing s with
  | nil => rfl
  | cons j js ih =>
    obtain ⟨fresh, once⟩ := List.nodup_cons.mp once
    rw [List.foldl_cons, ih once, sensing_sense]
    by_cases same : j = k
    · subst same
      rw [if_neg fresh, if_pos rfl, if_pos List.mem_cons_self]
    · have tail : k ∈ j :: js ↔ k ∈ js := List.mem_cons.trans (or_iff_right (Ne.symm same))
      rw [if_neg same]
      exact (if_congr tail rfl rfl).symm

theorem sensing_fold_eq (js : List (Fin 4)) : ∃ sense, js.foldl State.sensing s = s.onPower fun p => { p with sense := sense } := by
  induction js generalizing s with
  | nil => exact ⟨s.power.sense, rfl⟩
  | cons j js ih => exact ih

theorem autoAttach_of_invalid {g : Fin 4} (invalid : (s.media.regions[g]).cfg.valid = false) : s.autoAttach g = s :=
  autoAttach_of_not fun due => nomatch invalid.symm.trans due.1

theorem autoAttach_all (invalid : ∀ g : Fin 4, (s.media.regions[g]).cfg.valid = false) :
    (((s.autoAttach 0).autoAttach 1).autoAttach 2).autoAttach 3 = s := by
  simp only [autoAttach_of_invalid (invalid _)]

theorem takePhy_link (p : Port) : (s.takePhy p).ports.link = s.ports.link.set p ((s.pins.phy.get p).or (s.ports.link.get p)) := by
  cases phy : s.pins.phy.get p with
  | none => rw [takePhy_of_down phy]; cases p <;> rfl
  | some v => rw [takePhy_of_up phy]; rfl

theorem takePhy_both (down : s.ports.link = ⟨none, none⟩) : ((s.takePhy .u).takePhy .s).ports.link = s.pins.phy := by
  obtain ⟨link, cnt, first⟩ := takePhy_eq (s := s) .u
  have pins : (s.takePhy .u).pins = s.pins := by rw [first]; rfl
  rw [takePhy_link, takePhy_link, pins, down]
  obtain ⟨u, v⟩ := s.pins.phy
  show (⟨u.or none, v.or none⟩ : PerPort (Option Speed)) = ⟨u, v⟩
  rw [Option.or_none, Option.or_none]

/-- The changes of a start in which no establishment ends at once and no region attaches, block by block. -/
theorem started_eq (s : State) (sense : Vector SenseLine 4) (link1 link : PerPort (Option Speed)) (cnt1 cnt : PerPort PortCounters) :
    (({ ((((s.driven.onPower fun p => { p with sense := sense }).onPorts fun x => { x with link := link1, cnt := cnt1 }).onPorts
      fun x => { x with link := link, cnt := cnt }).onLine fun l => { l with rts := true }) with phase := .running } : State).onLoader
      fun l => { l with start := ⟨.powerOn, false, 0, false, false⟩ }) = { s with
      phase := .running, line := { s.line with rts := true }, ports := { s.ports with link := link, cnt := cnt }
      power := { s.driven.power with sense := sense }
      loader := { s.loader with start := ⟨.powerOn, false, 0, false, false⟩ } } := by
  cases s
  rfl

/-- A start in which no establishment ends at once and no region attaches. -/
theorem completeStart_of_quiet (invalid : ∀ g : Fin 4, (s.media.regions[g]).cfg.valid = false)
    (debounced : ∀ k : Fin 4, (s.power.sense[k]).debounce ≠ 0) : ∃ sense link cnt,
    s.completeStart = { s with
      phase := .running, line := { s.line with rts := true }, ports := { s.ports with link := link, cnt := cnt }
      power := { s.driven.power with sense := sense }
      loader := { s.loader with start := ⟨.powerOn, false, 0, false, false⟩ } } ∧
    (s.ports.link = ⟨none, none⟩ → link = s.pins.phy) ∧
    ∀ k : Fin 4, sense[k] = { s.power.sense[k] with
      pending := .establishing (s.clock.now + BitVec.ofNat 48 ((s.power.sense[k]).debounce * 1000)) } := by
  obtain ⟨sense, sensed⟩ := sensing_fold_eq (s := s.driven) (List.finRange 4)
  have lines : ∀ k : Fin 4, sense[k] = { s.power.sense[k] with
      pending := .establishing (s.clock.now + BitVec.ofNat 48 ((s.power.sense[k]).debounce * 1000)) } := fun k => by
    have line := sensing_fold (s := s.driven) (List.nodup_finRange 4) k
    rw [sensed, if_pos (List.mem_finRange k)] at line
    exact line
  have start := completeStart_eq s
  rw [← foldl_finRange_four State.beginSensing, beginSensing_fold (s := s.driven) _ debounced, sensed] at start
  generalize ready : (s.driven.onPower fun p => { p with sense := sense }) = r at start
  obtain ⟨link1, cnt1, first⟩ := takePhy_eq (s := r) .u
  obtain ⟨link, cnt, second⟩ := takePhy_eq (s := r.takePhy .u) .s
  have linked : s.ports.link = ⟨none, none⟩ → link = s.pins.phy := fun down => by
    have both := takePhy_both (s := r) (by rw [← ready]; exact down)
    rw [second, ← ready] at both
    exact both
  rw [autoAttach_all (by rw [second, first, ← ready]; exact invalid), second, first, ← ready] at start
  exact ⟨sense, link, cnt, start.trans (started_eq ..), linked, lines⟩

end Complete

/-- Settles O60: the supply, the source of the tables, the walk, each record, and the start line by line. -/
theorem powerOnAndLoading : Obligations.PowerOnAndLoading := by
  refine ⟨fun s straps => ⟨rfl, rfl⟩, fun s ack => ⟨fun other => congrArg Host.Outcome.next (if_neg other), fun loading =>
    congrArg Host.Outcome.next (if_pos loading)⟩, fun s ack => ?_, ?_, fun s => rfl, fun l all r domain => ?_,
    fun l all r table => ⟨fun t known form => ⟨fun s1 written => ?_, fun st refused => ?_⟩, fun unknown => ?_,
      fun t known bad => ?_⟩,
    fun s k none => beginSensing_of_immediate none, fun s g => ⟨autoAttach_of_due, autoAttach_of_not⟩,
    fun s k debounced => beginSensing_of_debounced debounced, fun s p => ⟨takePhy_of_down, fun v => takePhy_of_up⟩, completeStart_eq,
    fun s down invalid debounced => ?_⟩
  · have valid := imageValid_iff s.loader.eeprom s.loader.straps
    refine ⟨fun off => ?_, fun on absent => ?_, fun on bad => ?_, fun on complete good => ?_⟩
    · exact loadTables_of_source (sourceOf_of_off off) nofun
    · subst absent
      exact loadTables_of_source (sourceOf_absent on) nofun
    · rcases bad with stopped | ⟨complete, bad⟩
      · subst stopped
        exact loadTables_of_source (sourceOf_stopped on) nofun
      · subst complete
        exact loadTables_of_source ((sourceOf_complete on).trans (if_neg fun good => bad (valid.mp good))) nofun
    · subst complete
      exact loadTables_of_image ((sourceOf_complete on).trans (if_pos (valid.mpr good)))
  · intro spelled fits rs rest n fit all fuel
    obtain ⟨m, enough, walked⟩ := imageWalk_records (rs := rs) fit (rest := rest) (n := n) fuel
    refine ⟨fun none => ?_, fun some bad => ?_⟩
    · subst none
      rw [imageWalk_nil, List.append_nil rs] at walked
      exact walked
    · rw [imageWalk_of_bad some enough bad, List.append_nil] at walked
      exact walked
  · intro form group last skipped
    have groups : group = domainRecords all := List.filter_congr fun x _ => by
      rw [Bool.eq_iff_iff, decide_eq_true_iff, inDomainGroup_iff]
    have lasts : ∀ i, last i = lastAt (domainRecords all) i := fun i => congrArg (lastAt · i) groups
    refine ⟨fun other => ?_, fun this met => ?_, fun this first ⟨x, found, beyond⟩ => ?_,
      fun d this first before entries mgmt => ?_⟩
    · exact step_of_malformedDomain (fun group => other ((inDomainGroup_iff r).mp group)) domain
    · exact step_of_met ((inDomainGroup_iff r).mpr this) met
    · rw [step_of_first ((inDomainGroup_iff r).mpr this) first, domains_of_badManagement ((lasts 16).symm.trans found) beyond]
      simp only [skipped, groups]
    · have made : domainGroup (domainRecords all) Factory.domains = some d := by
        refine domainGroup_of_fields (fun i => (entries i).trans ?_) (mgmt.trans ?_)
        · rw [lasts]
          cases lastAt (domainRecords all) i.val <;> rfl
        · rw [lasts]
          cases lastAt (domainRecords all) 16 <;> rfl
      rw [step_of_first ((inDomainGroup_iff r).mpr this) first, domains_of_made made]
      refine ⟨fun sound => ?_, fun unsound => ?_⟩
      · rw [if_pos ((domainsOk_iff before).mpr sound), groups]
      · rw [if_neg fun ok => unsound ((domainsOk_iff before).mp ok)]
        simp only [skipped, groups]
  · rw [step_of_otherTable table, applyRecord_of_form known, if_pos form, written]
    rfl
  · rw [step_of_otherTable table, applyRecord_of_form known, if_pos form, refused]
    rfl
  · rw [step_of_otherTable table, applyRecord_of_unknown unknown]
    rfl
  · rw [step_of_otherTable table, applyRecord_of_form known, if_neg (ne_true_of_eq_false bad)]
    rfl
  · obtain ⟨sense, link, cnt, started, linked, sensed⟩ := completeStart_of_quiet invalid debounced
    refine ⟨_, rfl, ?_⟩
    rw [started]
    refine ⟨rfl, rfl, linked down, rfl, fun k => ?_, sensed, rfl, rfl, rfl⟩
    exact Vector.getElem_map ..

end Sys2Proof.Machine
end

section
/-! The sum of R22 through the shapers, the out-queues and the agent's traffic (R24, R31 to R33, R42, R51 to R55, R87). -/

namespace Sys2Proof.Machine

/-! ### The form a frame leaves in has no fewer cells than the untagged frame it is made from (R20, R22) -/

theorem cells_le_of_length {f g : Frame} (shorter : f.length ≤ g.length) : f.cells ≤ g.cells :=
  Nat.div_le_div_right (Nat.sub_le_sub_right (Nat.add_le_add_right shorter _) _)

theorem length_le_padded (f : Frame) : f.length ≤ f.padded.length := by
  unfold Frame.length Frame.padded
  dsimp only
  rw [List.length_append]
  omega

theorem cells_le_egressForm {tagged : Bool} {vid : Nat} {pcp : Fin 8} {f g : Frame} (untagged : f.tag = none)
    (form : egressForm tagged vid pcp f = some g) : f.cells ≤ g.cells := by
  refine cells_le_of_length ?_
  unfold egressForm at form
  split at form
  · rw [untagged] at form
    dsimp only at form
    split at form
    · exact nomatch form
    · obtain rfl := Option.some.inj form
      simp only [Frame.length, untagged, Option.isSome_none, Option.isSome_some, Bool.false_eq_true, if_false, if_true]
      omega
  · obtain rfl := Option.some.inj form
    refine Nat.le_trans ?_ (length_le_padded _)
    simp only [Frame.length, untagged]
    omega

theorem cells_le_judgeEgress {s : State} {p : Port} {d : Fin 16} {k : Fin 4} {f g : Frame} (untagged : f.tag = none)
    (form : s.judgeEgress p d k f = .form g) : f.cells ≤ g.cells := by
  unfold State.judgeEgress at form
  dsimp only at form
  split at form
  · split at form
    · exact nomatch form
    · rename_i made
      obtain rfl := Judgement.form.inj form
      exact cells_le_egressForm untagged made
  · exact nomatch form

/-! ### Out-queues -/

theorem outCells_cons (f : OutFrame) (fs : List OutFrame) : outCells (f :: fs) = f.frame.cells + outCells fs := by
  simp only [outCells, List.map_cons, List.sum_cons]

theorem outCells_append_singleton (fs : List OutFrame) (f : OutFrame) : outCells (fs ++ [f]) = outCells fs + f.frame.cells := by
  simp only [outCells, List.map_append, List.sum_append, List.map_cons, List.map_nil, List.sum_cons, List.sum_nil, Nat.add_zero]

/-- What a shaper keeps fits the head of its queue. -/
def OutQueue.Fits (q : OutQueue) : Prop := ∀ (g : Frame) (k : Fin 4) (w : Bool) (n : Nat) (h : OutFrame) (rest : List OutFrame),
  q.shaper = .blocked g k w n → q.frames = h :: rest → h.frame.cells ≤ g.cells

theorem fits_of_notBlocked {q : OutQueue} (not : ∀ g k w n, q.shaper ≠ .blocked g k w n) : q.Fits :=
  fun g k w n _ _ blocked _ => (not g k w n blocked).elim

namespace CellsBut

variable {b : Option Shaper} {n : Int} {s t : State} {sh : Shaper}

theorem frameCells_setOutQueue (s : State) (sh : Shaper) (q : OutQueue) :
    (s.setOutQueue sh q).frameCells + outCells (s.outQueue sh).frames = s.frameCells + outCells q.frames := by
  rw [frameCells_eq, frameCells_eq]
  cases sh
  · show (s.sched.port.get .u).cells + (s.sched.port.get .s).cells + inboxCells s + mediaInboxCells s + outCells q.frames +
      outCells s.mediaOut.frames + outCells s.agentOut.frames = _
    omega
  · show (s.sched.port.get .u).cells + (s.sched.port.get .s).cells + inboxCells s + mediaInboxCells s + outCells s.agentOut.frames +
      outCells q.frames + outCells s.mediaOut.frames = _
    omega

theorem outQueue_setOutQueue (s : State) (sh x : Shaper) (q : OutQueue) :
    (s.setOutQueue sh q).outQueue x = if sh = x then q else s.outQueue x := by
  cases sh <;> cases x <;> rfl

/-- The frames built stand in the two out-queues and among the closed reply frames. -/
theorem built_iff {P : OutFrame → Prop} : (∀ f ∈ s.agentOut.frames ++ s.mediaOut.frames ++ s.agent.closed, P f) ↔
    (∀ sh, ∀ f ∈ (s.outQueue sh).frames, P f) ∧ ∀ f ∈ s.agent.closed, P f := by
  simp only [List.mem_append]
  constructor
  · intro all
    exact ⟨fun sh f member => match sh with
      | .agent => all f (.inl (.inl member))
      | .media => all f (.inl (.inr member)), fun f member => all f (.inr member)⟩
  · rintro ⟨queues, closed⟩ f ((member | member) | member)
    · exact queues .agent f member
    · exact queues .media f member
    · exact closed f member

theorem untagged_of_queued (h : CellsBut b n s) {f : OutFrame} (member : f ∈ (s.outQueue sh).frames) : f.frame.tag = none :=
  (built_iff.mp h.built).1 sh f member

/-- The out-queue of a shaper is replaced: what it kept before does not matter, and what it keeps now may not fit. -/
theorem setOutQueue (h : CellsBut b n s) (own : b = none ∨ b = some sh) (q : OutQueue) (d : Int)
    (cells : (outCells q.frames : Int) = outCells (s.outQueue sh).frames + d) (untagged : ∀ f ∈ q.frames, f.frame.tag = none) :
    CellsBut (some sh) (n - d) (s.setOutQueue sh q) where
  total := by
    have total := h.total
    have frames := frameCells_setOutQueue s sh q
    have free : (s.setOutQueue sh q).pool.free = s.pool.free := by cases sh <;> rfl
    have cache : (s.setOutQueue sh q).cacheCells = s.cacheCells := by cases sh <;> rfl
    rw [free, cache]
    omega
  lines := by cases sh <;> exact h.lines
  built := by
    obtain ⟨queues, closed⟩ := built_iff.mp h.built
    refine built_iff.mpr ⟨fun x f member => ?_, ?_⟩
    · rw [outQueue_setOutQueue] at member
      split at member
      · exact untagged f member
      · exact queues x f member
    · cases sh <;> exact closed
  blocked x g k w m f rest other kept frames := by
    have others : sh ≠ x := fun same => other (congrArg some same)
    rw [outQueue_setOutQueue, if_neg others] at kept frames
    refine h.blocked x g k w m f rest (fun same => ?_) kept frames
    rcases own with none | own
    · exact nomatch none.symm.trans same
    · exact others (Option.some.inj (own.symm.trans same))

theorem fitted (h : CellsBut (some sh) n s) (fits : (s.outQueue sh).Fits) : CellsBut none n s where
  total := h.total
  lines := h.lines
  built := h.built
  blocked x g k w m f rest _ kept frames := by
    by_cases same : sh = x
    · subst same
      exact fits g k w m f rest kept frames
    · exact h.blocked x g k w m f rest (fun eq => same (Option.some.inj eq)) kept frames

/-! ### The head frame leaves, or stays -/

theorem outQueue_setShaper (s : State) (sh : Shaper) (x : ShaperState) :
    (s.setShaper sh x).outQueue sh = { s.outQueue sh with shaper := x } :=
  (outQueue_setOutQueue ..).trans (if_pos rfl)

theorem setShaper (h : CellsBut (some sh) n s) {x : ShaperState} (fits : ({ s.outQueue sh with shaper := x } : OutQueue).Fits) :
    CellsBut none n (s.setShaper sh x) := by
  have kept : CellsBut (some sh) (n - 0) (s.setShaper sh x) :=
    h.setOutQueue (.inr rfl) _ 0 (by simp) fun f member => h.untagged_of_queued (sh := sh) member
  exact (kept.congr (by omega)).fitted (by rw [outQueue_setShaper]; exact fits)

theorem leftHead (h : CellsBut b n s) (sh : Shaper) : CellsBut b n (s.leftHead sh) := by
  cases sh
  · exact h.same rfl rfl rfl rfl rfl rfl
  · exact h

theorem popHead (h : CellsBut b n s) (own : b = none ∨ b = some sh) {f : OutFrame} {rest : List OutFrame}
    (frames : (s.outQueue sh).frames = f :: rest) : CellsBut (some sh) (n + f.frame.cells) (s.popHead sh) := by
  have popped := h.setOutQueue (sh := sh) own { s.outQueue sh with frames := rest } (-f.frame.cells)
    (by rw [frames, outCells_cons]; push_cast; omega)
    fun g member => h.untagged_of_queued (sh := sh) (frames ▸ List.mem_cons_of_mem f member)
  rw [State.popHead, frames]
  exact ((popped.leftHead sh).departed f.origin).congr (by omega)

theorem dropHead (h : CellsBut b n s) (own : b = none ∨ b = some sh) {f : OutFrame} {rest : List OutFrame}
    (frames : (s.outQueue sh).frames = f :: rest) : CellsBut (some sh) n (s.dropHead sh) := by
  rw [State.dropHead, frames]
  exact (((h.popHead own frames).noteGone _).returnCells _).congr (by omega)

theorem announceRoom_frames (s : State) (p : Port) (removed : Fin 4 → Bool) (sh : Shaper) :
    ((s.announceRoom p removed).outQueue sh).frames = (s.outQueue sh).frames := by
  cases p <;> cases sh <;> rfl

theorem choose_frames (s : State) (p : Port) (sh : Shaper) : ((s.choose p).outQueue sh).frames = (s.outQueue sh).frames := by
  unfold State.choose
  split
  · exact announceRoom_frames ..
  · rfl

/-- An out-queue is not touched by what a class queue is offered, but for the retries owed to its shaper. -/
theorem offerClass_frames (s : State) (p : Port) (k : Fin 4) (need : Nat) (q : QFrame) (sh : Shaper) :
    ((s.offerClass p k need q).2.outQueue sh).frames = (s.outQueue sh).frames := by
  unfold State.offerClass
  split
  · rfl
  split
  · rfl
  split
  · rfl
  split
  · rfl
  · exact choose_frames ..

/-- The form a BLOCKED shaper keeps fits the head it was made from. -/
theorem fits_of_blocked {q : OutQueue} {g : Frame} {k : Fin 4} {w : Bool} {m : Nat} {f : OutFrame} {rest : List OutFrame}
    (frames : q.frames = f :: rest) (fits : f.frame.cells ≤ g.cells) :
    ({ q with shaper := .blocked g k w m } : OutQueue).Fits := fun g' k' w' m' f' rest' kept frames' => by
  obtain ⟨rfl, _, _, _⟩ := ShaperState.blocked.inj kept
  obtain ⟨rfl, _⟩ := List.cons.inj (frames.symm.trans frames')
  exact fits

theorem moveHead (h : CellsBut b n s) (own : b = none ∨ b = some sh) {f : OutFrame} {rest : List OutFrame}
    (frames : (s.outQueue sh).frames = f :: rest) {g : Frame} (fits : f.frame.cells ≤ g.cells) (k : Fin 4) (owed : Nat) :
    CellsBut (if (s.moveHead sh k g f owed).1 = true then some sh else none) n (s.moveHead sh k g f owed).2 := by
  have mine : CellsBut (some sh) n s := by
    rcases own with rfl | rfl
    · exact h.loosen
    · exact h
  have offered := mine.offerClass .u k (g.cells - f.frame.cells) ⟨g, f.origin⟩
  have head := (offerClass_frames s .u k (g.cells - f.frame.cells) ⟨g, f.origin⟩ sh).trans frames
  unfold State.moveHead
  generalize s.offerClass .u k (g.cells - f.frame.cells) ⟨g, f.origin⟩ = r at offered head
  obtain ⟨offer, t⟩ := r
  cases offer with
  | admitted =>
    refine ((offered.popHead (.inr rfl) head).congr ?_)
    dsimp only
    rw [if_pos rfl]
    omega
  | queueFull => exact offered.setShaper (fits_of_blocked head fits)
  | poolFull => exact offered.setShaper (fits_of_blocked head fits)
  | linkDown => exact offered.dropHead (.inr rfl) head
  | held => exact offered.dropHead (.inr rfl) head

theorem testHead (fuel : Nat) (h : CellsBut (some sh) n s) : CellsBut none n (s.testHead sh fuel) := by
  induction fuel generalizing s with
  | zero => exact h.setShaper (fits_of_notBlocked nofun)
  | succ fuel ih =>
    unfold State.testHead
    split
    · exact h.setShaper (fits_of_notBlocked nofun)
    · rename_i f rest frames
      dsimp only
      split
      · exact ih ((h.onCnt .u _).dropHead (.inr rfl) frames)
      · exact ih ((h.onCnt .u _).dropHead (.inr rfl) frames)
      · rename_i g form
        have untagged := h.untagged_of_queued (sh := sh) (frames ▸ List.mem_cons_self : f ∈ (s.outQueue sh).frames)
        have fits := cells_le_judgeEgress untagged form
        have tested : CellsBut (some sh) n (s.setMeter (s.shaperMeter sh)
            ((s.meters.bank[s.shaperMeter sh]).present s.clock.now (chargeOf g.length)).1) := h.same rfl rfl rfl rfl rfl rfl
        split
        · have moved := tested.moveHead (.inr rfl) frames fits (s.shaperClass sh) 0
          split
          · rename_i eq
            rw [eq] at moved
            exact ih moved
          · rename_i eq
            rw [eq] at moved
            exact moved
        · exact tested.setShaper (fits_of_notBlocked nofun)

theorem runShaper (h : CellsBut b n s) (own : b = none ∨ b = some sh) : CellsBut none n (s.runShaper sh) := by
  rcases own with rfl | rfl
  · exact h.loosen.testHead _
  · exact h.testHead _

theorem retestWaiting (h : CellsBut none n s) (sh : Shaper) : CellsBut none n (s.retestWaiting sh) := by
  unfold State.retestWaiting
  split
  · exact h.runShaper (.inl rfl)
  · exact h

/-- A frame built takes its cells in the out-queue. -/
theorem placeOut (h : CellsBut none n s) {f : OutFrame} (untagged : f.frame.tag = none) (placed : s.placeOut sh f = some t) :
    CellsBut none n t := by
  unfold State.placeOut at placed
  dsimp only at placed
  split at placed
  · rename_i room
    obtain rfl := Option.some.inj placed
    have joined := (h.takeCells room.2).setOutQueue (sh := sh) (.inl rfl)
      { s.outQueue sh with frames := (s.outQueue sh).frames ++ [f] } f.frame.cells
      (by rw [show (s.takeCells f.frame.cells).outQueue sh = s.outQueue sh by cases sh <;> rfl, outCells_append_singleton]; push_cast; rfl)
      fun g member => by
        rcases List.mem_append.mp member with old | new
        · exact h.untagged_of_queued old
        · rw [List.mem_singleton.mp new]; exact untagged
    have joined := joined.congr (m := n) (by omega)
    split
    · exact joined.runShaper (.inr rfl)
    · rename_i some
      refine joined.fitted ?_
      rw [outQueue_setOutQueue, if_pos rfl]
      intro g k w m head rest kept frames
      cases old : (s.outQueue sh).frames with
      | nil => exact absurd (List.isEmpty_iff.mpr old) some
      | cons first others =>
        have same : first = head := by
          have := frames
          dsimp only at this
          rw [old, List.cons_append] at this
          exact (List.cons.inj this).1
        subst same
        exact h.blocked sh g k w m first others (by simp) kept old
  · exact nomatch placed

/-! ### Closed reply frames -/

/-- A change of the agent that leaves its inbox, and closes no frame but an untagged one. -/
theorem onAgent (h : CellsBut b n s) (f : Agent → Agent) (inbox : (f s.agent).inbox = s.agent.inbox)
    (closed : ∀ x ∈ (f s.agent).closed, x ∈ s.agent.closed ∨ x.frame.tag = none) : CellsBut b n (s.onAgent f) where
  total := by
    have cells : (s.onAgent f).frameCells = s.frameCells := by
      unfold State.frameCells inboxCells mediaInboxCells
      rw [State.onAgent_agent, inbox]
      rfl
    rw [cells]
    exact h.total
  lines := h.lines
  built := by
    obtain ⟨queues, old⟩ := built_iff.mp h.built
    exact built_iff.mpr ⟨fun sh => by
      cases sh with
      | agent => exact queues .agent
      | media => exact queues .media, fun x member =>
      (closed x member).elim (old x) id⟩
  blocked sh g k w m f' rest other kept frames := by
    cases sh
    · exact h.blocked .agent g k w m f' rest other kept frames
    · exact h.blocked .media g k w m f' rest other kept frames

theorem controlFrame_untagged (s : State) (dst : Mac) (flags count : Nat) (records : List Byte) (o : Origin) :
    (s.controlFrame dst flags count records o).frame.tag = none := rfl

end CellsBut

end Sys2Proof.Machine
end

section
/-! What the frame path and the part's own traffic leave of the sector cache, the held requests, the transfers and the script
engine. -/

namespace Sys2Proof.Machine

/-- Two states of the media engine that differ in nothing `CacheSound` speaks of. -/
structure SameCache (m m' : Media) : Prop where
  lines : m'.lines = m.lines
  dirtyOrder : m'.dirtyOrder = m.dirtyOrder
  uses : ∀ e : Fin 16, (m'.table[e]).use.map Transfer.undated = (m.table[e]).use.map Transfer.undated
  states : ∀ g : Fin 4, (m'.regions[g]).state = (m.regions[g]).state
  held : m'.held = m.held
  waiting : m'.waitingInquiries = m.waitingInquiries

theorem SameCache.refl (m : Media) : SameCache m m := ⟨rfl, rfl, fun _ => rfl, fun _ => rfl, rfl, rfl⟩

theorem SameCache.trans {m n k : Media} (a : SameCache m n) (b : SameCache n k) : SameCache m k :=
  ⟨b.lines.trans a.lines, b.dirtyOrder.trans a.dirtyOrder, fun e => (b.uses e).trans (a.uses e),
    fun g => (b.states g).trans (a.states g), b.held.trans a.held, b.waiting.trans a.waiting⟩

/-- The change from one state to another leaves the script engine, the media inbox and all of the cache. -/
structure Aside (s t : State) : Prop where
  script : t.script = s.script
  inbox : t.media.inbox = s.media.inbox
  cache : SameCache s.media t.media

namespace Aside

variable {s t u : State}

theorem refl (s : State) : Aside s s := ⟨rfl, rfl, .refl _⟩

theorem trans (a : Aside s t) (b : Aside t u) : Aside s u :=
  ⟨b.script.trans a.script, b.inbox.trans a.inbox, a.cache.trans b.cache⟩

theorem of_eq (script : t.script = s.script) (media : t.media = s.media) : Aside s t :=
  ⟨script, by rw [media], by rw [media]; exact .refl _⟩

/-- What follows a change of other blocks. -/
theorem after {s' : State} (b : Aside s' t) (script : s'.script = s.script) (media : s'.media = s.media) : Aside s t :=
  (of_eq script media).trans b

theorem of_pushes (same : SameButPushes s t) : Aside s t where
  script := same.script
  inbox := same.mediaInbox
  cache := ⟨same.cache.1, same.cache.2, same.uses, fun g => by rw [same.regions], same.held, same.issue.2⟩

theorem onMedia (s : State) {f : Media → Media} (inbox : (f s.media).inbox = s.media.inbox) (cache : SameCache s.media (f s.media)) :
    Aside s (s.onMedia f) := ⟨rfl, inbox, cache⟩

theorem onBlk (s : State) (f : BlockCounters → BlockCounters) : Aside s (s.onBlk f) :=
  onMedia s rfl ⟨rfl, rfl, fun _ => rfl, fun _ => rfl, rfl, rfl⟩

theorem onXfer (s : State) (f : TransferCounters → TransferCounters) : Aside s (s.onXfer f) :=
  onMedia s rfl ⟨rfl, rfl, fun _ => rfl, fun _ => rfl, rfl, rfl⟩

/-! ### The frame path -/

theorem returnCells (s : State) (n : Nat) : Aside s (s.returnCells n) :=
  ⟨rfl, rfl, rfl, rfl, fun _ => rfl, fun _ => rfl, rfl, rfl⟩

theorem announceRoom (s : State) (p : Port) (r : Fin 4 → Bool) : Aside s (s.announceRoom p r) := by cases p <;> exact of_eq rfl rfl

theorem choose (s : State) (p : Port) : Aside s (s.choose p) := by
  unfold State.choose
  split
  · exact (announceRoom ..).after rfl rfl
  · exact refl s

theorem offerClass (s : State) (p : Port) (k : Fin 4) (n : Nat) (q : QFrame) : Aside s (s.offerClass p k n q).2 := by
  unfold State.offerClass
  split
  · exact of_eq rfl rfl
  split
  · exact of_eq rfl rfl
  split
  · exact of_eq rfl rfl
  split
  · exact of_eq rfl rfl
  · exact (choose ..).after rfl rfl

theorem offerEgress (s : State) (p : Port) (d : Fin 16) (k : Fin 4) (f : Frame) (o : Origin) :
    Aside s (s.offerEgress p d k f o).2 := by
  unfold State.offerEgress
  split
  · exact of_eq rfl rfl
  · exact of_eq rfl rfl
  · exact offerClass ..

theorem noteGone (s : State) (os : List Origin) : Aside s (s.noteGone os) := by
  unfold State.noteGone
  split <;> exact of_eq rfl rfl

theorem flushLink (s : State) (p : Port) : Aside s (s.flushLink p) := by
  unfold State.flushLink
  dsimp only
  have flushed := fun r os => trans (announceRoom ((s.onEgress p fun e => { e.flushed with tx := none }).onCnt p fun c => { c with
    linkFlush := c.linkFlush + BitVec.ofNat 32 (s.sched.port.get p).discarded.length }) p r) (noteGone _ os)
  split
  · exact (flushed _ _).after rfl rfl
  · exact trans ((flushed _ _).after rfl rfl) (returnCells ..)

theorem flushHold (s : State) : Aside s s.flushHold := by
  unfold State.flushHold
  dsimp only
  split
  · exact of_eq rfl rfl
  · exact (returnCells ..).after rfl rfl

/-- A departure starts a deadline, which the cache does not speak of (R123). -/
theorem departed (s : State) (o : Origin) : Aside s (s.departed o) := by
  unfold State.departed
  split
  · rename_i i g
    dsimp only
    split
    · exact refl s
    · rename_i t use
      split
      · refine onMedia s rfl ⟨rfl, rfl, fun e => ?_, fun _ => rfl, rfl, rfl⟩
        dsimp only
        rw [getElem_set_if]
        split
        · rename_i same
          subst same
          rw [use]
          rfl
        · rfl
      · exact refl s
  · exact refl s

theorem setOutQueue (s : State) (sh : Shaper) (q : OutQueue) : Aside s (s.setOutQueue sh q) := by cases sh <;> exact of_eq rfl rfl

theorem setShaper (s : State) (sh : Shaper) (x : ShaperState) : Aside s (s.setShaper sh x) := setOutQueue ..

theorem leftHead (s : State) (sh : Shaper) : Aside s (s.leftHead sh) := by cases sh <;> exact of_eq rfl rfl

theorem popHead (s : State) (sh : Shaper) : Aside s (s.popHead sh) := by
  unfold State.popHead
  split
  · exact refl s
  · exact trans (trans (setOutQueue ..) (leftHead ..)) (departed ..)

theorem dropHead (s : State) (sh : Shaper) : Aside s (s.dropHead sh) := by
  unfold State.dropHead
  split
  · exact refl s
  · exact trans (trans (popHead ..) (noteGone ..)) (returnCells ..)

theorem moveHead (s : State) (sh : Shaper) (k : Fin 4) (g : Frame) (h : OutFrame) (n : Nat) :
    Aside s (s.moveHead sh k g h n).2 := by
  have offered := offerClass s .u k (g.cells - h.frame.cells) ⟨g, h.origin⟩
  unfold State.moveHead
  split <;> rename_i eq <;> rw [eq] at offered
  · exact trans offered (popHead ..)
  · exact trans offered (setShaper ..)
  · exact trans offered (setShaper ..)
  · exact trans offered (dropHead ..)

theorem testHead (sh : Shaper) (fuel : Nat) (s : State) : Aside s (s.testHead sh fuel) := by
  induction fuel generalizing s with
  | zero => exact setShaper ..
  | succ fuel ih =>
    unfold State.testHead
    split
    · exact setShaper ..
    · rename_i h _ _
      dsimp only
      split
      · exact trans ((dropHead (s.onCnt .u _) sh).after rfl rfl) (ih _)
      · exact trans ((dropHead (s.onCnt .u _) sh).after rfl rfl) (ih _)
      · rename_i g _
        have moved := moveHead (s.setMeter (s.shaperMeter sh)
          ((s.meters.bank[s.shaperMeter sh]).present s.clock.now (chargeOf g.length)).1) sh (s.shaperClass sh) g h 0
        split
        · split <;> rename_i eq <;> rw [eq] at moved
          · exact trans (moved.after rfl rfl) (ih _)
          · exact moved.after rfl rfl
        · exact (setShaper ..).after rfl rfl

theorem retestWaiting (s : State) (sh : Shaper) : Aside s (s.retestWaiting sh) := by
  unfold State.retestWaiting
  split
  · exact testHead ..
  · exact refl s

theorem placeOut {sh : Shaper} {f : OutFrame} (placed : s.placeOut sh f = some t) : Aside s t := by
  unfold State.placeOut at placed
  dsimp only at placed
  split at placed
  · obtain rfl := Option.some.inj placed
    have joined : Aside s ((s.takeCells f.frame.cells).setOutQueue sh
        { s.outQueue sh with frames := (s.outQueue sh).frames ++ [f] }) := (setOutQueue ..).after rfl rfl
    split
    · exact trans joined (testHead ..)
    · exact joined
  · exact nomatch placed

theorem blkReply (s : State) (mac : Mac) (d : Fin 16) (b : List Byte) (st : BlkStatus) : Aside s (s.blkReply mac d b st) := by
  unfold State.blkReply
  dsimp only
  split
  · exact trans (onBlk ..) (offerEgress ..)
  · exact trans (trans (onBlk ..) (offerEgress ..)) (onBlk ..)

theorem answer (s : State) (r : BlkRequest) (st : BlkStatus) (body : List Byte) : Aside s (s.answer r st body) :=
  trans (onBlk ..) (blkReply ..)

theorem raiseNotice (s : State) (n : Notice) : Aside s (s.raiseNotice n) := of_pushes (SameButPushes.raiseNotice s n)

end Aside

end Sys2Proof.Machine
end

section
/-! The sector cache in the middle of an operation, and what only takes away from it (R97, R109, R111, R115 to R121). -/

namespace Sys2Proof.Machine

/-! ### Transfers but for their deadlines -/

theorem undated_eq_iff {t t' : Transfer} : t'.undated = t.undated ↔ t'.kind = t.kind ∧ t'.region = t.region ∧ t'.first = t.first ∧
    t'.count = t.count ∧ t'.received = t.received ∧ t'.attempts = t.attempts := by
  obtain ⟨kind, region, first, count, received, attempts, deadline⟩ := t
  obtain ⟨kind', region', first', count', received', attempts', deadline'⟩ := t'
  simp [Transfer.undated]

/-- The same transfer, some answers, attempts and deadlines later. -/
structure Transfer.Same (t t' : Transfer) : Prop where
  kind : t'.kind = t.kind
  region : t'.region = t.region
  first : t'.first = t.first
  count : t'.count = t.count

theorem Transfer.Same.refl (t : Transfer) : t.Same t := ⟨rfl, rfl, rfl, rfl⟩

theorem same_of_undated {t t' : Transfer} (same : t'.undated = t.undated) : t.Same t' := by
  obtain ⟨kind, region, first, count, -⟩ := undated_eq_iff.mp same
  exact ⟨kind, region, first, count⟩

theorem Transfer.Same.covers {t t' : Transfer} (same : t.Same t') {l : CacheLine} (covers : t.Covers l) : t'.Covers l := by
  obtain ⟨region, first, last⟩ := covers
  exact ⟨same.region.trans region, by rw [same.first]; exact first, by rw [same.first, same.count]; exact last⟩

/-! ### The cache in the middle of an operation -/

/-- The transfer that a line's state names is there: a FETCH that has not received the sector, or a FLUSH (R118, R133). -/
structure Media.Carries (m : Media) (l : CacheLine) : Prop where
  filling : ∀ e, l.cond = .filling e → ∃ t, (m.table[e]).use = some t ∧ t.kind = .fetch ∧ t.Covers l ∧ l.sector ∉ t.received
  flushing : ∀ e, l.cond = .flushing e ∨ l.cond = .redirtied e → ∃ t, (m.table[e]).use = some t ∧ t.kind = .flush ∧ t.Covers l

/-- The dirty order lists the DIRTY lines. -/
def Media.Listed (m : Media) : Prop :=
  ∀ (g : Fin 4) (x : Nat), (g, x) ∈ m.dirtyOrder ↔ ∃ l ∈ m.lines, l.region = g ∧ l.sector = x ∧ l.cond = .dirty

/-- The inquiries of a region, made or waiting. -/
def Media.inquiriesOf (m : Media) (g : Fin 4) : Nat := (m.entriesOf g (· == .inquire)).length + m.waitingInquiries.count g

/-- `CacheSound` in the middle of an operation: the region `u` may have held requests though it is no longer ATTACHED. -/
structure CacheBut (u : Option (Fin 4)) (m : Media) : Prop where
  lines : OneLineEach m
  dirtyOnce : m.dirtyOrder.Nodup
  dirtyListed : m.Listed
  dirtyLimit : m.dirtyCount ≤ 256
  carried : ∀ l ∈ m.lines, m.Carries l
  lineRegions : ∀ l ∈ m.lines, (m.regions[l.region]).state ≠ .detached ∧ (m.regions[l.region]).state ≠ .attaching
  held : ∀ h ∈ m.held, some h.unit = u ∨ (m.regions[h.unit]).state = .attached
  fetches : m.inUse .fetch ≤ 12
  inquiries : ∀ g : Fin 4, m.inquiriesOf g ≤ if (m.regions[g]).state = .attaching then 1 else 0

theorem CacheSound.but {m : Media} (sound : CacheSound m) : CacheBut none m where
  lines := sound.lines
  dirtyOnce := sound.dirtyOnce
  dirtyListed := sound.dirtyListed
  dirtyLimit := sound.dirtyLimit
  carried l member := ⟨sound.filling l member, sound.flushing l member⟩
  lineRegions := sound.lineRegions
  held h member := .inr (sound.held h member)
  fetches := sound.fetches
  inquiries := sound.inquiries

theorem CacheBut.sound {m : Media} (but : CacheBut none m) : CacheSound m where
  lines := but.lines
  dirtyOnce := but.dirtyOnce
  dirtyListed := but.dirtyListed
  dirtyLimit := but.dirtyLimit
  filling l member := (but.carried l member).filling
  flushing l member := (but.carried l member).flushing
  lineRegions := but.lineRegions
  held h member := (but.held h member).resolve_left nofun
  fetches := but.fetches
  inquiries := but.inquiries

theorem carries_of_same {m m' : Media} {l : CacheLine} (carries : m.Carries l)
    (uses : ∀ e, l.coveredBy e = true → (m'.table[e]).use.map Transfer.undated = (m.table[e]).use.map Transfer.undated) :
    m'.Carries l := by
  have found : ∀ e t, l.coveredBy e = true → (m.table[e]).use = some t →
      ∃ t', (m'.table[e]).use = some t' ∧ t'.undated = t.undated := fun e t covered use => by
    have same := uses e covered
    rw [use] at same
    exact Option.map_eq_some_iff.mp same
  refine ⟨fun e cond => ?_, fun e cond => ?_⟩
  · obtain ⟨t, use, kind, covers, fresh⟩ := carries.filling e cond
    obtain ⟨t', use', same⟩ := found e t (by simp [CacheLine.coveredBy, cond]) use
    obtain ⟨-, -, -, -, received, -⟩ := undated_eq_iff.mp same
    have kept := same_of_undated same
    exact ⟨t', use', kept.kind.trans kind, kept.covers covers, by rwa [received]⟩
  · obtain ⟨t, use, kind, covers⟩ := carries.flushing e cond
    obtain ⟨t', use', same⟩ := found e t (by rcases cond with cond | cond <;> simp [CacheLine.coveredBy, cond]) use
    have kept := same_of_undated same
    exact ⟨t', use', kept.kind.trans kind, kept.covers covers⟩

/-! ### Counting the transfers -/

/-- Each transfer of one table is a transfer of the other. -/
def FewerUses (m m' : Media) : Prop :=
  ∀ (e : Fin 16) (t' : Transfer), (m'.table[e]).use = some t' → ∃ t, (m.table[e]).use = some t ∧ t.Same t'

theorem FewerUses.of_undated {m m' : Media} (same : ∀ e : Fin 16, (m'.table[e]).use = none ∨
    (m'.table[e]).use.map Transfer.undated = (m.table[e]).use.map Transfer.undated) : FewerUses m m' := fun e t' use' => by
  rcases same e with none | same
  · exact nomatch none.symm.trans use'
  · rw [use'] at same
    obtain ⟨t, use, eq⟩ := Option.map_eq_some_iff.mp same.symm
    exact ⟨t, use, same_of_undated eq.symm⟩

theorem any_iff {α : Type} {o : Option α} {p : α → Bool} : o.any p = true ↔ ∃ x, o = some x ∧ p x = true := by cases o <;> simp

theorem inUse_le_of_fewer {m m' : Media} (fewer : FewerUses m m') (k : TransferKind) : m'.inUse k ≤ m.inUse k := by
  rw [inUse_eq, inUse_eq]
  refine List.countP_mono_left fun e _ kind => ?_
  obtain ⟨t', use', is⟩ := any_iff.mp kind
  obtain ⟨t, use, same⟩ := fewer e t' use'
  rw [same.kind] at is
  exact any_iff.mpr ⟨t, use, is⟩

theorem entriesOf_le_of_fewer {m m' : Media} (fewer : FewerUses m m') (g : Fin 4) (k : TransferKind → Bool) :
    (m'.entriesOf g k).length ≤ (m.entriesOf g k).length := by
  rw [entriesOf_eq, entriesOf_eq, ← List.countP_eq_length_filter, ← List.countP_eq_length_filter]
  refine List.countP_mono_left fun e _ here => ?_
  obtain ⟨t', use', is⟩ := any_iff.mp here
  obtain ⟨t, use, same⟩ := fewer e t' use'
  rw [same.region, same.kind] at is
  exact any_iff.mpr ⟨t, use, is⟩

/-! ### What only takes away -/

section
variable {u : Option (Fin 4)} {m m' : Media}

/-- Lines may go and the others change places. -/
def FewerLines (ls ms : List CacheLine) : Prop := ∃ kept : List CacheLine, kept.Perm ls ∧ kept.Sublist ms

namespace FewerLines

variable {ls ms : List CacheLine}

theorem of_sublist (sub : ls.Sublist ms) : FewerLines ls ms := ⟨ls, .refl _, sub⟩

theorem of_perm (perm : ls.Perm ms) : FewerLines ls ms := ⟨ms, perm.symm, .refl _⟩

theorem of_eq (same : ls = ms) : FewerLines ls ms := of_perm (.of_eq same)

theorem subset (fewer : FewerLines ls ms) : ls ⊆ ms := by
  obtain ⟨kept, perm, sub⟩ := fewer
  exact fun l member => sub.subset (perm.mem_iff.mpr member)

theorem countP_le (fewer : FewerLines ls ms) (p : CacheLine → Bool) : ls.countP p ≤ ms.countP p := by
  obtain ⟨kept, perm, sub⟩ := fewer
  rw [← perm.countP_eq]
  exact sub.countP_le

end FewerLines

theorem sublist_of_eq {α : Type} {xs ys : List α} (same : xs = ys) : xs.Sublist ys := by
  subst same
  exact .refl _

/-- Lines, transfers, held requests and waiting inquiries may go, and the others stay as they are. -/
theorem CacheBut.shrink (but : CacheBut u m) (lines : FewerLines m'.lines m.lines) (order : m'.dirtyOrder.Sublist m.dirtyOrder)
    (listed : m'.Listed) (carried : ∀ l ∈ m'.lines, m'.Carries l) (fewer : FewerUses m m')
    (states : ∀ g : Fin 4, (m'.regions[g]).state = (m.regions[g]).state)
    (held : ∀ h ∈ m'.held, ∃ h0 ∈ m.held, h0.unit = h.unit)
    (waiting : m'.waitingInquiries.Sublist m.waitingInquiries) : CacheBut u m' where
  lines := by
    obtain ⟨kept, perm, sub⟩ := lines
    exact (perm.map _).nodup_iff.mp ((sub.map _).nodup but.lines)
  dirtyOnce := order.nodup but.dirtyOnce
  dirtyListed := listed
  dirtyLimit := Nat.le_trans (lines.countP_le _) but.dirtyLimit
  carried := carried
  lineRegions l member := by
    rw [states]
    exact but.lineRegions l (lines.subset member)
  held h member := by
    obtain ⟨h0, member0, unit⟩ := held h member
    rw [states, ← unit]
    exact but.held h0 member0
  fetches := Nat.le_trans (inUse_le_of_fewer fewer _) but.fetches
  inquiries g := by
    rw [states]
    exact Nat.le_trans (Nat.add_le_add (entriesOf_le_of_fewer fewer g _) (waiting.count_le g)) (but.inquiries g)

theorem CacheBut.same (but : CacheBut u m) (same : SameCache m m') : CacheBut u m' := by
  refine but.shrink (.of_eq same.lines) (sublist_of_eq same.dirtyOrder) (fun g x => ?_) (fun l member => ?_)
    (.of_undated fun e => .inr (same.uses e)) same.states (fun h member => ⟨h, by rwa [← same.held], rfl⟩) (sublist_of_eq same.waiting)
  · rw [same.dirtyOrder, same.lines]
    exact but.dirtyListed g x
  · exact carries_of_same (but.carried l (same.lines ▸ member)) fun e _ => same.uses e

theorem CacheSound.same (sound : CacheSound m) (same : SameCache m m') : CacheSound m' := (sound.but.same same).sound

/-- There is one line of a region and sector. -/
theorem line_unique (once : OneLineEach m) {k l : CacheLine} (hk : k ∈ m.lines) (hl : l ∈ m.lines) (region : k.region = l.region)
    (sector : k.sector = l.sector) : k = l :=
  eq_of_nodup_map once hk hl (Prod.ext region sector)

end

end Sys2Proof.Machine
end

section
/-! What every operation outside the media engine keeps: the sum of R22, the cache, and the order of the power-request queue.
The agent's traffic and the pushes. -/

namespace Sys2Proof.Machine

/-- What `RequestsInOrder`, `CacheSound` and `CellsSound` say is kept from one state to another. -/
structure Safe (s t : State) : Prop where
  requests : RequestsInOrder s → RequestsInOrder t
  cache : CacheSound s.media → CacheSound t.media
  cells : CellsSound s → CellsSound t

/-- The parts of the state that the three properties speak of. -/
structure Work where
  requests : List Request
  media : Media
  sched : Scheduler
  agentOut : OutQueue
  mediaOut : OutQueue
  inbox : List Frame
  closed : List OutFrame
  free : Nat

def State.work (s : State) : Work :=
  ⟨s.script.queue, s.media, s.sched, s.agentOut, s.mediaOut, s.agent.inbox, s.agent.closed, s.pool.free⟩

namespace Safe

variable {s t u : State}

theorem refl (s : State) : Safe s s := ⟨id, id, id⟩

theorem trans (a : Safe s t) (b : Safe t u) : Safe s u := ⟨b.requests ∘ a.requests, b.cache ∘ a.cache, b.cells ∘ a.cells⟩

theorem of_aside (aside : Aside s t) (cells : CellsSound s → CellsSound t) : Safe s t where
  requests ordered := by
    unfold RequestsInOrder
    rw [aside.script]
    exact ordered
  cache sound := sound.same aside.cache
  cells := cells

/-- A change outside the parts the properties speak of. -/
theorem elsewhere (same : t.work = s.work) : Safe s t := by
  obtain ⟨requests, media, sched, agentOut, mediaOut, inbox, closed, free⟩ := Work.mk.inj same
  refine ⟨fun ordered => ?_, fun sound => media ▸ sound, fun sound => ?_⟩
  · unfold RequestsInOrder
    rw [requests]
    exact ordered
  · refine (sound.but.same free ?_ (by rw [media]) agentOut mediaOut closed).sound
    simp only [State.frameCells, State.txCells, inboxCells, mediaInboxCells, sched, agentOut, mediaOut, inbox, media]

theorem after {s' : State} (b : Safe s' t) (same : s'.work = s.work) : Safe s t := (elsewhere same).trans b

theorem before {t' : State} (a : Safe s t') (same : t.work = t'.work) : Safe s t := a.trans (elsewhere same)

end Safe

/-! ### The agent's traffic -/

namespace CellsBut

variable {b : Option Shaper} {n : Int} {s t : State}

theorem closeOpen (h : CellsBut b n s) (more : Bool) (o : Origin) : CellsBut b n (s.closeOpen more o) := by
  unfold State.closeOpen
  refine h.onAgent _ rfl fun x member => ?_
  rcases List.mem_append.mp member with old | new
  · exact .inl old
  · exact .inr (by rw [List.mem_singleton.mp new]; rfl)

theorem pack (h : CellsBut b n s) (r : Reply) : CellsBut b n (s.pack r) := by
  have counted : CellsBut b n (s.onAgentCnt fun c => c.replied r.status) := h.onAgent _ rfl fun _ => .inl
  unfold State.pack
  dsimp only
  split
  · exact counted.onAgent _ rfl fun _ => .inl
  · exact (counted.closeOpen true .reply).onAgent _ rfl fun _ => .inl

theorem placeReply (h : CellsBut none n s) {f : OutFrame} (member : f ∈ s.agent.closed) (placed : s.placeReply f = some t) :
    CellsBut none n t := by
  unfold State.placeReply at placed
  obtain ⟨u, room, rfl⟩ := Option.map_eq_some_iff.mp placed
  refine (h.placeOut ((built_iff.mp h.built).2 f member) room).onAgent _ rfl fun _ kept => .inl (List.mem_of_mem_drop kept)

theorem enterWaiting (h : CellsBut b n s) : CellsBut b n s.enterWaiting := h.onAgent _ rfl fun _ => .inl

/-- The oldest frame leaves the inbox with its cells. -/
theorem dropInbox (h : CellsBut b n s) : CellsBut b n s.dropInbox := by
  unfold State.dropInbox
  split
  · exact h
  · rename_i f rest inbox
    have left : CellsBut b (n - -f.cells) (s.onAgent fun a => { a with inbox := rest }) := by
      refine h.move ?_ id rfl rfl (fun _ => id) fun sh => by cases sh <;> exact .refl _
      have cells : inboxCells s = f.cells + inboxCells (s.onAgent fun a => { a with inbox := rest }) := by
        rw [inboxCells, inbox, List.map_cons, List.sum_cons]
        rfl
      have frames : s.frameCells = f.cells + (s.onAgent fun a => { a with inbox := rest }).frameCells := by
        rw [frameCells_eq, frameCells_eq, cells]
        show (s.sched.port.get .u).cells + (s.sched.port.get .s).cells + _ + mediaInboxCells s + outCells s.agentOut.frames +
          outCells s.mediaOut.frames = f.cells + ((s.sched.port.get .u).cells + (s.sched.port.get .s).cells +
          inboxCells (s.onAgent fun a => { a with inbox := rest }) + mediaInboxCells s + outCells s.agentOut.frames +
          outCells s.mediaOut.frames)
        omega
      rw [frames]
      show (s.pool.free : Int) + _ + s.cacheCells = _
      push_cast
      omega
    exact (left.returnCells f.cells).congr (by omega)

theorem finishFrame (h : CellsBut b n s) : CellsBut b n s.finishFrame :=
  CellsBut.dropInbox (h.onAgent _ rfl fun _ => .inl)

theorem enterPending (h : CellsBut b n s) : CellsBut b n s.enterPending :=
  (h.closeOpen false .restartReply).dropInbox.onAgent _ rfl fun _ => .inl

theorem advanceN (fuel : Nat) (h : CellsBut none n s) : CellsBut none n (s.advanceN fuel) := by
  induction fuel generalizing s with
  | zero => exact h
  | succ fuel ih =>
    unfold State.advanceN
    split
    · rename_i f rest closed
      split
      · exact h.enterWaiting
      · rename_i placed
        exact ih (h.placeReply (closed ▸ List.mem_cons_self) placed)
    · split
      · exact h
      · split
        · exact ih h.enterPending
        · split
          · exact h.onAgent _ rfl fun _ => .inl
          · exact ih ((h.onAgent _ rfl fun _ => .inl).pack _)
          · exact ih (h.closeOpen false .reply)
          · exact h.finishFrame

theorem advance (h : CellsBut none n s) : CellsBut none n s.advance := h.advanceN _

theorem beginFrame (h : CellsBut none n s) (i : Fin 8) (f : Frame) : CellsBut none n (s.beginFrame i f) :=
  CellsBut.advance (h.onAgent _ rfl fun _ member => nomatch member)

/-! ### Pushes -/

theorem pushFrame_untagged (s : State) (p : Push) : (s.pushFrame p).frame.tag = none := by cases p <;> rfl

theorem onHist (h : CellsBut b n s) (f : History → History) : CellsBut b n (s.onHist f) := h.same rfl rfl rfl rfl rfl rfl

theorem placePush (h : CellsBut none n s) {p : Push} (placed : s.placePush p = some t) : CellsBut none n t := by
  unfold State.placePush at placed
  obtain ⟨u, room, rfl⟩ := Option.map_eq_some_iff.mp placed
  exact ((h.placeOut (pushFrame_untagged s p) room).onAgent _ rfl fun _ => .inl).onHist _

theorem pumpN (fuel : Nat) (h : CellsBut none n s) : CellsBut none n (s.pumpN fuel) := by
  induction fuel generalizing s with
  | zero => exact h
  | succ fuel ih =>
    unfold State.pumpN
    split
    · exact h
    split
    · exact h
    · split
      · exact (h.onHist _).onAgent _ rfl fun _ => .inl
      · rename_i placed
        exact ih (h.placePush placed)

theorem raiseNotice (h : CellsBut none n s) (x : Notice) : CellsBut none n (s.raiseNotice x) := (h.onHist _).pumpN _

end CellsBut

namespace Safe

variable {s t : State}

/-- Traffic of the part's own, by what it does to the sum. -/
theorem of_pushes (same : SameButPushes s t) (cells : CellsBut none 0 s → CellsBut none 0 t) : Safe s t :=
  of_aside (.of_pushes same) fun sound => (cells sound.but).sound

theorem advance (s : State) : Safe s s.advance := of_pushes (SameButTraffic.advance s).1 CellsBut.advance

theorem pack (s : State) (r : Reply) : Safe s (s.pack r) := of_pushes (SameButTraffic.pack s r).1 fun h => h.pack r

theorem dropInbox (s : State) : Safe s s.dropInbox := of_pushes (SameButTraffic.dropInbox s).1 CellsBut.dropInbox

theorem pump (s : State) : Safe s s.pump := of_pushes (SameButPushes.pump s) fun h => h.pumpN _

theorem raiseNotice (s : State) (n : Notice) : Safe s (s.raiseNotice n) :=
  of_pushes (SameButPushes.raiseNotice s n) fun h => h.raiseNotice n

theorem settleOffer (s : State) : Safe s s.settleOffer := by
  unfold State.settleOffer
  split
  · exact elsewhere rfl
  · exact refl s

theorem removeWatcher (s : State) (w : Fin 4) : Safe s (s.removeWatcher w) := (settleOffer _).after rfl

theorem removeWatcherOf (s : State) (op : Fin 8) : Safe s (s.removeWatcherOf op) := by
  unfold State.removeWatcherOf
  split
  · exact refl s
  · exact removeWatcher ..

theorem beginFrame (s : State) (i : Fin 8) (f : Frame) : Safe s (s.beginFrame i f) :=
  of_pushes ((SameButTraffic.onAgent s _).trans (SameButTraffic.advance _)).1 fun h => h.beginFrame i f

end Safe

end Sys2Proof.Machine
end

section
/-! The commands of the frame path and of the agent keep the sum, the cache and the request queue. -/

namespace Sys2Proof.Machine

namespace CellsBut

variable {b : Option Shaper} {n : Int} {s t : State}

/-- A frame joins the agent's inbox. -/
theorem joinInbox (h : CellsBut b n s) (f : Frame) :
    CellsBut b (n - f.cells) (s.onAgent fun a => { a with inbox := a.inbox ++ [f] }) := by
  refine h.move ?_ id rfl rfl (fun _ => id) fun sh => by cases sh <;> exact .refl _
  have cells : inboxCells (s.onAgent fun a => { a with inbox := a.inbox ++ [f] }) = inboxCells s + f.cells := by
    simp [inboxCells]
  have frames : (s.onAgent fun a => { a with inbox := a.inbox ++ [f] }).frameCells = s.frameCells + f.cells := by
    rw [frameCells_eq, frameCells_eq, cells]
    show (s.sched.port.get .u).cells + (s.sched.port.get .s).cells + (inboxCells s + f.cells) + mediaInboxCells s +
      outCells s.agentOut.frames + outCells s.mediaOut.frames = _
    omega
  rw [frames]
  show (s.pool.free : Int) + _ + s.cacheCells = _
  push_cast
  omega

/-- The media inbox is replaced by one of `d` cells more. -/
theorem onMediaInbox (h : CellsBut b n s) {f : Media → Media} (lines : (f s.media).lines = s.media.lines) (d : Int)
    (cells : ((((f s.media).inbox.map fun m => m.frame.cells).sum : Nat) : Int) = mediaInboxCells s + d) :
    CellsBut b (n - d) (s.onMedia f) := by
  refine h.move ?_ (fun once => ?_) rfl rfl (fun _ => id) fun sh => by cases sh <;> exact .refl _
  · have inbox : (mediaInboxCells (s.onMedia f) : Int) = mediaInboxCells s + d := cells
    have cache : (s.onMedia f).cacheCells = s.cacheCells := by
      unfold State.cacheCells
      rw [State.onMedia_media, lines]
    have frames : ((s.onMedia f).frameCells : Int) = s.frameCells + d := by
      rw [frameCells_eq, frameCells_eq]
      have same : ((s.sched.port.get .u).cells + (s.sched.port.get .s).cells + inboxCells s + mediaInboxCells (s.onMedia f) +
        outCells s.agentOut.frames + outCells s.mediaOut.frames : Int) = (s.sched.port.get .u).cells + (s.sched.port.get .s).cells +
        inboxCells s + mediaInboxCells s + outCells s.agentOut.frames + outCells s.mediaOut.frames + d := by omega
      exact_mod_cast same
    rw [frames, cache]
    show (s.pool.free : Int) + _ + _ = _
    omega
  · show OneLineEach (f s.media)
    unfold OneLineEach
    rw [lines]
    exact once

theorem finishSending (h : CellsBut b n s) {p : Port} {x : Sending} (tx : (s.sched.port.get p).tx = some x) :
    CellsBut b n (s.finishSending p x) := by
  have sent := h.onEgress p (fun e => { e with tx := none }) (-x.q.frame.cells) (by
    have cells : (s.sched.port.get p).cells = (s.sched.port.get p).queueCells + x.q.frame.cells := by
      rw [Egress.cells, Egress.txCells, tx]
    rw [cells]
    show (((s.sched.port.get p).queueCells + 0 : Nat) : Int) = _
    push_cast
    omega)
  exact (((((sent.onCnt p _).noteGone _).returnCells _).congr (by omega)).choose p)

theorem shaperBlockedRetry (h : CellsBut none n s) (sh : Shaper) : CellsBut none n (s.shaperBlockedRetry sh) := by
  unfold State.shaperBlockedRetry
  split
  · rename_i g k w owed f rest shaper frames
    have moved := h.moveHead (.inl rfl) frames (h.blocked sh g k w (owed + 1) f rest nofun shaper frames) k owed
    split <;> rename_i eq <;> rw [eq] at moved
    · exact moved.runShaper (.inr rfl)
    · exact moved
  · exact h

end CellsBut

namespace Aside

variable {s t : State}

theorem finishSending (s : State) (p : Port) (x : Sending) : Aside s (s.finishSending p x) := by
  have sent : Aside s ((s.onEgress p fun e => { e with tx := none }).onCnt p fun c => { c with
    txFrames := c.txFrames + 1, txBytes := c.txBytes + BitVec.ofNat 32 x.q.frame.length }) := of_eq rfl rfl
  exact ((sent.trans (noteGone ..)).trans (returnCells ..)).trans (choose ..)

theorem shaperBlockedRetry (s : State) (sh : Shaper) : Aside s (s.shaperBlockedRetry sh) := by
  unfold State.shaperBlockedRetry
  split
  · rename_i g k w owed f rest shaper frames
    have moved := moveHead s sh k g f owed
    split <;> rename_i eq <;> rw [eq] at moved
    · exact moved.trans (testHead ..)
    · exact moved
  · exact refl s

end Aside

namespace Safe

variable {s t : State}

theorem of_cells (aside : Aside s t) (cells : CellsBut none 0 s → CellsBut none 0 t) : Safe s t :=
  of_aside aside fun sound => (cells sound.but).sound

/-! ### The frame path -/

theorem flushLink (s : State) (p : Port) : Safe s (s.flushLink p) := of_cells (.flushLink s p) fun h => h.flushLink p

theorem flushHold (s : State) : Safe s s.flushHold := of_cells (.flushHold s) CellsBut.flushHold

theorem offerEgress (s : State) (p : Port) (d : Fin 16) (k : Fin 4) (f : Frame) (o : Origin) : Safe s (s.offerEgress p d k f o).2 :=
  of_cells (.offerEgress s p d k f o) fun h => h.offerEgress p d k f o

theorem linkUp (p : Port) (v : Speed) (s : State) : Safe s (s.linkUp p v) := by
  unfold State.linkUp
  dsimp only
  split <;> exact elsewhere rfl

theorem linkDown (p : Port) (s : State) : Safe s (s.linkDown p) := by
  unfold State.linkDown
  dsimp only
  split
  · exact elsewhere rfl
  · exact (flushLink _ p).after rfl

theorem admitAgent (f : Frame) (s : State) : Safe s (s.admitAgent f) := by
  unfold State.admitAgent
  split
  · rename_i room
    exact of_cells (.of_eq rfl rfl) fun h => ((h.takeCells room.2).joinInbox f).congr (by omega)
  · exact elsewhere rfl

theorem admitMedia (p : Port) (d : Fin 16) (f : Frame) (s : State) : Safe s (s.admitMedia p d f) := by
  unfold State.admitMedia
  split
  · rename_i room
    have same : SameCache s.media { s.media with inbox := s.media.inbox ++ [⟨p, d, f⟩] } :=
      ⟨rfl, rfl, fun _ => rfl, fun _ => rfl, rfl, rfl⟩
    refine ⟨id, fun sound => sound.same same, fun sound => ?_⟩
    exact (((sound.but.takeCells room.2).onMediaInbox (f := fun m => { m with inbox := m.inbox ++ [⟨p, d, f⟩] }) rfl f.cells
      (by simp [mediaInboxCells])).congr (by omega)).sound
  · exact elsewhere rfl

theorem rewriteForward (p : Port) (d : Fin 16) (k : Fin 4) (r : Option Nat) (f : Frame) (s : State) :
    Safe s (s.rewriteForward p d k r f) := by
  unfold State.rewriteForward
  split
  · exact elsewhere rfl
  · exact offerEgress ..

theorem police (p : Port) (d : Fin 16) (k : Fin 4) (e : Steering) (f : Frame) (s : State) : Safe s (s.police p d k e f) := by
  unfold State.police
  split
  · exact rewriteForward ..
  · dsimp only
    split
    · exact (rewriteForward ..).after rfl
    · split
      · exact elsewhere rfl
      · exact (rewriteForward ..).after rfl

theorem steerFrame (p : Port) (d : Fin 16) (v : Nat) (f : Frame) (s : State) : Safe s (s.steerFrame p d v f) := by
  unfold State.steerFrame
  dsimp only
  split
  · exact offerEgress ..
  · split
    · exact (police ..).after rfl
    · exact elsewhere rfl

theorem classify (p : Port) (d : Fin 16) (v : Nat) (f : Frame) (s : State) : Safe s (s.classify p d v f) := by
  unfold State.classify
  split
  · exact elsewhere rfl
  split
  · exact elsewhere rfl
  split
  · exact admitAgent ..
  split
  · exact admitMedia ..
  · exact steerFrame ..

theorem ingress (p : Port) (bytes : List Byte) (good : Bool) (s : State) : Safe s (s.ingress p bytes good) := by
  unfold State.ingress
  dsimp only
  split
  · exact elsewhere rfl
  split
  · exact elsewhere rfl
  split
  · exact elsewhere rfl
  split
  · exact elsewhere rfl
  · exact (classify ..).after rfl

theorem frameArrival (p : Port) (bytes : List Byte) (good : Bool) (s : State) : Safe s (s.frameArrival p bytes good) := by
  unfold State.frameArrival
  split
  · exact refl s
  · exact ingress ..

theorem transmissionComplete (p : Port) (s : State) : Safe s (s.transmissionComplete p) := by
  unfold State.transmissionComplete
  split
  · exact refl s
  · rename_i x tx
    split
    · exact of_cells (.finishSending s p x) fun h => h.finishSending tx
    · exact refl s

theorem runShaper (s : State) (sh : Shaper) : Safe s (s.runShaper sh) := of_cells (.testHead sh _ s) fun h => h.runShaper (.inl rfl)

theorem retestWaiting (s : State) (sh : Shaper) : Safe s (s.retestWaiting sh) :=
  of_cells (.retestWaiting s sh) fun h => h.retestWaiting sh

theorem shaperWaitExpiry (sh : Shaper) (s : State) : Safe s (s.shaperWaitExpiry sh) := by
  unfold State.shaperWaitExpiry
  split
  · split
    · exact runShaper ..
    · exact refl s
  · exact refl s

theorem shaperBlockedRetry (sh : Shaper) (s : State) : Safe s (s.shaperBlockedRetry sh) :=
  of_cells (.shaperBlockedRetry s sh) fun h => h.shaperBlockedRetry sh

/-! ### The agent -/

theorem dropFrame (s : State) (f : AgentCounters → AgentCounters) : Safe s (s.dropFrame f) := (dropInbox _).after rfl

theorem agentTakeFrame (s : State) : Safe s s.agentTakeFrame := by
  unfold State.agentTakeFrame
  split
  · dsimp only
    split
    · exact (dropFrame ..).after rfl
    · split
      · exact (dropFrame ..).after rfl
      · exact (beginFrame ..).after rfl
  · exact refl s

theorem retryReply (s : State) {f : OutFrame} (member : f ∈ s.agent.closed) : Safe s (s.retryReply f) := by
  unfold State.retryReply
  split
  · exact refl s
  · rename_i t placed
    exact trans (of_pushes (SameButTraffic.placeReply placed).1 fun h => h.placeReply member placed) (advance t)

theorem retryPush (s : State) (p : Push) : Safe s (s.retryPush p) := by
  unfold State.retryPush
  split
  · exact refl s
  · rename_i t placed
    exact trans (of_pushes (SameButPushes.placePush placed) fun h => h.placePush placed) ((pump _).after rfl)

theorem retryPlacement (s : State) : Safe s s.retryPlacement := by
  have claimed : ∀ f, s.agentClaim = some f → f ∈ s.agent.closed := fun f => List.mem_of_mem_head?
  unfold State.retryPlacement
  split
  · exact refl s
  · rename_i claim _
    exact retryReply s (claimed _ claim)
  · exact retryPush ..
  · rename_i claim _
    split
    · exact retryReply s (claimed _ claim)
    · exact retryPush ..

theorem outQueueRetry (s : State) : Safe s s.outQueueRetry := by
  unfold State.outQueueRetry
  split
  · exact refl s
  · exact (retryPlacement _).after rfl

/-- A record command is as safe as its handler. -/
theorem runRecord (s : State) (c : Instr) {h : Rec → State → Answer} (safe : ∀ r t, Safe t (h r t).state) : Safe s (s.runRecord c h) := by
  unfold State.runRecord
  split
  · exact refl s
  · rename_i r _
    have performed : Safe s (s.popRecord.perform r h).state := by
      unfold State.perform
      split
      · exact elsewhere rfl
      · exact (safe r _).after rfl
    exact (performed.trans (pack ..)).trans (advance _)

end Safe

end Sys2Proof.Machine
end

section
/-! Lines freed, evicted and touched, and held requests ended: what they keep (R25, R26, R111, R112, R115, R117). -/

namespace Sys2Proof.Machine

/-- What an operation of the media engine keeps. -/
structure Serves (u : Option (Fin 4)) (s t : State) : Prop where
  script : t.script = s.script
  inbox : t.media.inbox = s.media.inbox
  cache : CacheBut u s.media → CacheBut u t.media
  cells : CellsBut none 0 s → CellsBut none 0 t

namespace Serves

variable {u : Option (Fin 4)} {s t v : State}

theorem refl (s : State) : Serves u s s := ⟨rfl, rfl, id, id⟩

theorem trans (a : Serves u s t) (b : Serves u t v) : Serves u s v :=
  ⟨b.script.trans a.script, b.inbox.trans a.inbox, b.cache ∘ a.cache, b.cells ∘ a.cells⟩

theorem of_aside (aside : Aside s t) (cells : CellsBut none 0 s → CellsBut none 0 t) : Serves u s t :=
  ⟨aside.script, aside.inbox, fun but => but.same aside.cache, cells⟩

theorem safe (serves : Serves none s t) : Safe s t where
  requests ordered := by
    unfold RequestsInOrder
    rw [serves.script]
    exact ordered
  cache sound := (serves.cache sound.but).sound
  cells sound := (serves.cells sound.but).sound

theorem foldl {α : Type} {f : State → α → State} (h : ∀ s x, Serves u s (f s x)) (xs : List α) (s : State) :
    Serves u s (xs.foldl f s) := by
  induction xs generalizing s with
  | nil => exact refl s
  | cons x xs ih => exact (h s x).trans (ih _)

end Serves

/-! ### Cells of the cache -/

namespace CellsBut

variable {b : Option Shaper} {n : Int} {s t : State}

/-- A change of the media engine that leaves its inbox, by the number of lines. -/
theorem onMedia (h : CellsBut b n s) {f : Media → Media} (inbox : (f s.media).inbox = s.media.inbox) (d : Int)
    (count : ((f s.media).lines.length : Int) = s.media.lines.length + d) (once : OneLineEach s.media → OneLineEach (f s.media)) :
    CellsBut b (n - 4 * d) (s.onMedia f) := by
  refine h.move ?_ once rfl rfl (fun _ => id) fun sh => by cases sh <;> exact .refl _
  have frames : (s.onMedia f).frameCells = s.frameCells := by
    have cells : mediaInboxCells (s.onMedia f) = mediaInboxCells s := by
      unfold mediaInboxCells
      rw [State.onMedia_media, inbox]
    rw [frameCells_eq, frameCells_eq, cells]
    rfl
  have cache : ((s.onMedia f).cacheCells : Int) = s.cacheCells + 4 * d := by
    show ((4 * (f s.media).lines.length : Nat) : Int) = ((4 * s.media.lines.length : Nat) : Int) + 4 * d
    push_cast
    rw [count]
    omega
  rw [frames, cache]
  show (s.pool.free : Int) + _ + _ = _
  omega

/-- A change of the media engine that leaves its inbox and the keys of its lines. -/
theorem onMediaSame (h : CellsBut b n s) {f : Media → Media} (inbox : (f s.media).inbox = s.media.inbox)
    (keys : ((f s.media).lines.map fun l => (l.region, l.sector)).Perm (s.media.lines.map fun l => (l.region, l.sector))) :
    CellsBut b n (s.onMedia f) := by
  have count := keys.length_eq
  rw [List.length_map, List.length_map] at count
  exact (h.onMedia inbox 0 (by rw [count]; omega) fun once => keys.nodup_iff.mpr once).congr (by omega)

theorem onPool (h : CellsBut b n s) {f : Pool → Pool} (free : (f s.pool).free = s.pool.free) : CellsBut b n (s.onPool f) :=
  h.same free rfl rfl rfl rfl rfl

theorem blkReply (h : CellsBut b n s) (mac : Mac) (d : Fin 16) (bytes : List Byte) (st : BlkStatus) :
    CellsBut b n (s.blkReply mac d bytes st) := by
  have counted : CellsBut b n (s.onBlk fun c => c.replied st) := h.onMediaSame rfl (.refl _)
  have offered := counted.offerEgress .s d (s.onBlk fun c => c.replied st).sched.mediaClass
    (builtFrame mac (s.onBlk fun c => c.replied st).ports.partMac Config.etherTypeMedia bytes) .blkReply
  unfold State.blkReply
  dsimp only
  split
  · exact offered
  · exact offered.onMediaSame rfl (.refl _)

theorem answer (h : CellsBut b n s) (r : BlkRequest) (st : BlkStatus) (body : List Byte) : CellsBut b n (s.answer r st body) :=
  CellsBut.blkReply (h.onMediaSame rfl (.refl _)) ..

end CellsBut

/-- The lines other than the one of a region and sector are fewer by one. -/
theorem length_others {ls : List CacheLine} (once : (ls.map fun l => (l.region, l.sector)).Nodup) {l : CacheLine} (member : l ∈ ls) :
    (ls.filter fun x => !x.isFor l.region l.sector).length + 1 = ls.length := by
  have one : ls.countP (fun x => x.isFor l.region l.sector) = 1 := by
    have count := (List.Nodup.count once).trans (if_pos (List.mem_map_of_mem (f := fun l : CacheLine => (l.region, l.sector)) member))
    rw [List.count, List.countP_map] at count
    rw [← count]
    refine List.countP_congr fun x _ => ?_
    simp [CacheLine.isFor]
  have split := List.length_eq_countP_add_countP (p := fun x : CacheLine => x.isFor l.region l.sector) (l := ls)
  rw [← List.countP_eq_length_filter, split, one]
  simp [Nat.add_comm]

namespace CellsBut

variable {b : Option Shaper} {n : Int} {s t : State}

theorem dropLine (h : CellsBut b n s) {l : CacheLine} (member : l ∈ s.media.lines) : CellsBut b (n + 4) (s.dropLine l) := by
  have count := length_others h.lines member
  refine (h.onMedia (f := fun m => { m with lines := s.media.lines.filter fun x => !x.isFor l.region l.sector }) rfl (-1)
    (by dsimp only; omega) fun once => ?_).congr (by omega)
  exact (List.filter_sublist.map _).nodup once

theorem freeLines (h : CellsBut b n s) (p : CacheLine → Bool) : CellsBut b n (s.freeLines p) := by
  unfold State.freeLines
  dsimp only
  split
  · exact h
  · have gone := List.length_eq_countP_add_countP (p := p) (l := s.media.lines)
    have freed := h.onMedia (f := fun m => { m with
      lines := m.lines.filter fun l => !p l
      dirtyOrder := m.dirtyOrder.filter fun d => !(s.media.lines.filter p).any (CacheLine.isFor d.1 d.2) }) rfl
      (-(s.media.lines.filter p).length) (by
        dsimp only
        rw [← List.countP_eq_length_filter, ← List.countP_eq_length_filter]
        simp only [Bool.not_eq_true, Bool.decide_eq_false] at gone ⊢
        omega) fun once => (List.filter_sublist.map _).nodup once
    refine (freed.returnCells _).congr ?_
    show _ - ((4 * (s.media.lines.filter p).length : Nat) : Int) = n
    push_cast
    omega

theorem trimN (fuel : Nat) (h : CellsBut none n s) : CellsBut none n (s.trimN fuel) := by
  induction fuel generalizing s with
  | zero => exact h
  | succ fuel ih =>
    unfold State.trimN
    split
    · exact h
    split
    · exact h
    · rename_i l found
      exact ih ((((h.dropLine (List.mem_of_find?_eq_some found)).onPool rfl).returnCells _).congr
        (by show n + 4 - ((4 : Nat) : Int) = n; omega))

end CellsBut

/-! ### Lines that go -/

namespace CacheBut

variable {u : Option (Fin 4)} {m m' : Media}

/-- Lines go, with their places in the dirty order. -/
theorem dropLines (but : CacheBut u m) (p : CacheLine → Bool) {m' : Media} (lines : m'.lines = m.lines.filter fun l => !p l)
    (order : m'.dirtyOrder = m.dirtyOrder.filter fun d => !(m.lines.filter p).any (CacheLine.isFor d.1 d.2))
    (table : m'.table = m.table) (regions : m'.regions = m.regions) (held : m'.held = m.held)
    (waiting : m'.waitingInquiries = m.waitingInquiries) : CacheBut u m' := by
  refine but.shrink (lines ▸ .of_sublist List.filter_sublist) (order ▸ List.filter_sublist) (fun g x => ?_) (fun l member => ?_)
    (.of_undated fun e => .inr (by rw [table])) (fun g => by rw [regions]) (fun h member => ⟨h, held ▸ member, rfl⟩)
    (sublist_of_eq waiting)
  · rw [order, lines, List.mem_filter, but.dirtyListed g x]
    constructor
    · rintro ⟨⟨l, member, region, sector, dirty⟩, kept⟩
      refine ⟨l, List.mem_filter.mpr ⟨member, ?_⟩, region, sector, dirty⟩
      refine Classical.byContradiction fun gone => ?_
      have gone : p l = true := by simpa using gone
      simp only [Bool.not_eq_true', List.any_eq_false, List.mem_filter] at kept
      exact kept l ⟨member, gone⟩ (isFor_iff.mpr ⟨region, sector⟩)
    · rintro ⟨l, member, region, sector, dirty⟩
      obtain ⟨member, kept⟩ := List.mem_filter.mp member
      refine ⟨⟨l, member, region, sector, dirty⟩, ?_⟩
      simp only [Bool.not_eq_true', List.any_eq_false, List.mem_filter]
      rintro k ⟨there, gone⟩ isFor
      obtain ⟨region', sector'⟩ := isFor_iff.mp isFor
      have same := line_unique but.lines there member (region'.trans region.symm) (sector'.trans sector.symm)
      rw [same] at gone
      simp [gone] at kept
  · rw [lines] at member
    exact carries_of_same (but.carried l (List.mem_filter.mp member).1) fun e _ => by rw [table]

theorem freeLines {s : State} (but : CacheBut u s.media) (p : CacheLine → Bool) : CacheBut u (s.freeLines p).media := by
  obtain ⟨n, media⟩ := freeLines_media (s := s) (p := p)
  rw [media]
  exact but.dropLines p rfl rfl rfl rfl rfl rfl

/-- A CLEAN line goes, which has no place in the dirty order (R117). -/
theorem dropClean {s : State} (but : CacheBut u s.media) {l : CacheLine} (member : l ∈ s.media.lines) (clean : l.cond = .clean) :
    CacheBut u (s.dropLine l).media := by
  refine but.dropLines (fun x => x.isFor l.region l.sector) rfl ?_ rfl rfl rfl rfl
  refine (List.filter_eq_self.mpr fun d listed => ?_).symm
  simp only [Bool.not_eq_true', List.any_eq_false, List.mem_filter]
  rintro k ⟨there, isFor⟩ isFor'
  obtain ⟨region, sector⟩ := isFor_iff.mp isFor
  have same := line_unique but.lines there member region sector
  obtain ⟨x, hx, region', sector', dirty⟩ := (but.dirtyListed d.1 d.2).mp listed
  obtain ⟨region2, sector2⟩ := isFor_iff.mp isFor'
  have same' := line_unique but.lines hx there (region'.trans region2.symm) (sector'.trans sector2.symm)
  rw [same', same, clean] at dirty
  exact nomatch dirty

end CacheBut

theorem evictee_clean {m : Media} {l : CacheLine} (found : m.evictee = some l) : l ∈ m.lines ∧ l.cond = .clean := by
  refine ⟨List.mem_of_find?_eq_some found, ?_⟩
  have evictable := List.find?_some found
  simp only [Media.evictable, Bool.and_eq_true, beq_iff_eq] at evictable
  exact evictable.1

namespace Serves

variable {u : Option (Fin 4)} {s t v : State}

theorem onBlk (s : State) (f : BlockCounters → BlockCounters) : Serves u s (s.onBlk f) :=
  of_aside (.onBlk s f) fun h => h.onMediaSame rfl (.refl _)

theorem onXfer (s : State) (f : TransferCounters → TransferCounters) : Serves u s (s.onXfer f) :=
  of_aside (.onXfer s f) fun h => h.onMediaSame rfl (.refl _)

theorem blkReply (s : State) (mac : Mac) (d : Fin 16) (bytes : List Byte) (st : BlkStatus) : Serves u s (s.blkReply mac d bytes st) :=
  of_aside (.blkReply s mac d bytes st) fun h => h.blkReply mac d bytes st

theorem answer (s : State) (r : BlkRequest) (st : BlkStatus) (body : List Byte) : Serves u s (s.answer r st body) :=
  of_aside (.answer s r st body) fun h => h.answer r st body

theorem freeLines (s : State) (p : CacheLine → Bool) : Serves u s (s.freeLines p) where
  script := by unfold State.freeLines; dsimp only; split <;> rfl
  inbox := by
    obtain ⟨n, media⟩ := freeLines_media (s := s) (p := p)
    rw [media]
  cache but := but.freeLines p
  cells h := h.freeLines p

theorem trimN (fuel : Nat) (s : State) : Serves u s (s.trimN fuel) where
  script := by
    induction fuel generalizing s with
    | zero => rfl
    | succ fuel ih =>
      unfold State.trimN
      split
      · rfl
      split
      · rfl
      · rw [ih, (Aside.returnCells ..).script]
        rfl
  inbox := by
    obtain ⟨ls, r, media, -⟩ := trimN_media (s := s) fuel
    rw [media]
  cache but := by
    induction fuel generalizing s with
    | zero => exact but
    | succ fuel ih =>
      unfold State.trimN
      split
      · exact but
      split
      · exact but
      · rename_i l found
        obtain ⟨member, clean⟩ := evictee_clean found
        exact ih _ ((but.dropClean member clean).same ⟨rfl, rfl, fun _ => rfl, fun _ => rfl, rfl, rfl⟩)
  cells h := h.trimN fuel

theorem trimExcess (s : State) : Serves u s s.trimExcess := trimN ..

/-- Lines take another order of use (R115). -/
theorem setLines {s : State} {ls : List CacheLine} (perm : ls.Perm s.media.lines) : Serves u s (s.setLines ls) where
  script := rfl
  inbox := rfl
  cache but := but.shrink (.of_perm perm) (.refl _)
    (fun g x => (but.dirtyListed g x).trans (exists_congr fun _ => and_congr_left fun _ => perm.mem_iff.symm))
    (fun l member => carries_of_same (but.carried l (perm.mem_iff.mp member)) fun _ _ => rfl) (.of_undated fun _ => .inr rfl)
    (fun _ => rfl) (fun h member => ⟨h, member, rfl⟩) (.refl _)
  cells h := h.onMediaSame rfl (perm.map _)

theorem touch (s : State) (g : Fin 4) (xs : List Nat) : Serves u s (s.touch g xs) := by
  refine setLines ?_
  induction xs using snoc_induction with
  | nil => exact .refl _
  | snoc xs x ih =>
    rw [List.foldl_append]
    exact (KeepsDirty.touchLine_perm g x _).trans ih

/-- Held requests may go, and what the others await may become less (R111, R112). -/
theorem onHeld {s : State} {f : Media → Media} (others : f s.media = { s.media with held := (f s.media).held })
    (held : ∀ h ∈ (f s.media).held, ∃ h0 ∈ s.media.held, h0.unit = h.unit) : Serves u s (s.onMedia f) where
  script := rfl
  inbox := by rw [State.onMedia_media, others]
  cache but := by
    rw [State.onMedia_media]
    refine but.shrink (.of_eq (by rw [others])) (sublist_of_eq (by rw [others])) ?_ ?_ ?_ ?_ held (sublist_of_eq (by rw [others])) <;>
      rw [others]
    · exact but.dirtyListed
    · exact fun l member => carries_of_same (but.carried l member) fun _ _ => rfl
    · exact .of_undated fun _ => .inr rfl
    · exact fun _ => rfl
  cells h := h.onMediaSame (by rw [others]) (by rw [others])

theorem endHeld (st : BlkStatus) (s : State) (h : Held) : Serves u s (s.endHeld st h) := by
  have erased : Serves u s (s.onMedia fun m => { m with held := m.held.erase h }) :=
    onHeld rfl fun h0 member => ⟨h0, List.mem_of_mem_erase member, rfl⟩
  unfold State.endHeld
  dsimp only
  split
  · exact ((erased.trans (touch ..)).trans (blkReply ..)).trans (trimExcess _)
  · exact (erased.trans (blkReply ..)).trans (trimExcess _)

theorem endHeldWhere (s : State) (p : Held → Bool) (st : BlkStatus) : Serves u s (s.endHeldWhere p st) := foldl (endHeld st) ..

theorem sectorArrived (g : Fin 4) (x : Nat) (s : State) : Serves u s (s.sectorArrived g x) := by
  unfold State.sectorArrived
  dsimp only
  refine trans (onHeld rfl fun h member => ?_) (endHeldWhere ..)
  obtain ⟨h0, member0, rfl⟩ := List.mem_map.mp member
  refine ⟨h0, member0, ?_⟩
  split <;> rfl

theorem raiseNotice (s : State) (n : Notice) : Serves u s (s.raiseNotice n) := of_aside (.raiseNotice s n) fun h => h.raiseNotice n

end Serves

end Sys2Proof.Machine
end

section
/-! The script engine, the console stream, the console line, the sense lines and the boot window keep the sum, the cache and the
request queue. -/

namespace Sys2Proof.Machine

/-! ### The request queue (R159) -/

theorem mem_insertRequest {r x : Request} {q : List Request} : x ∈ insertRequest r q ↔ x = r ∨ x ∈ q := by
  induction q with
  | nil => simp [insertRequest]
  | cons y rest ih =>
    rw [insertRequest]
    split
    · rw [List.mem_cons, ih, List.mem_cons]
      exact or_left_comm
    · exact List.mem_cons

theorem insertRequest_ordered (r : Request) {q : List Request} (ordered : q.Pairwise fun a b => b.prio ≤ a.prio) :
    (insertRequest r q).Pairwise fun a b => b.prio ≤ a.prio := by
  induction q with
  | nil => exact List.pairwise_singleton ..
  | cons y rest ih =>
    obtain ⟨first, others⟩ := List.pairwise_cons.mp ordered
    rw [insertRequest]
    split
    · rename_i below
      refine List.pairwise_cons.mpr ⟨fun x member => ?_, ih others⟩
      rcases mem_insertRequest.mp member with rfl | member
      · exact below
      · exact first x member
    · rename_i above
      refine List.pairwise_cons.mpr ⟨fun x member => ?_, ordered⟩
      rcases List.mem_cons.mp member with rfl | member
      · omega
      · exact Nat.le_trans (first x member) (by omega)

namespace Safe

variable {s t : State}

/-- A change of the script engine, by what becomes of its queue. -/
theorem onScript {f : ScriptEngine → ScriptEngine}
    (ordered : RequestsInOrder s → (f s.script).queue.Pairwise fun a b => b.prio ≤ a.prio) : Safe s (s.onScript f) where
  requests := ordered
  cache := id
  cells sound := (sound.but.same (t := s.onScript f) rfl rfl rfl rfl rfl rfl).sound

theorem foldl {α : Type} {f : State → α → State} (h : ∀ s x, Safe s (f s x)) (xs : List α) (s : State) : Safe s (xs.foldl f s) := by
  induction xs generalizing s with
  | nil => exact refl s
  | cons x xs ih => exact (h s x).trans (ih _)

/-! ### The script engine (R152 to R158) -/

theorem finishCore (s : State) (o : ScriptOutcome) (step : Nat) : Safe s (s.finishCore o step) := by
  cases running : s.script.running with
  | none =>
    rw [State.finishCore, running]
    exact refl s
  | some c =>
    have ended : (s.scriptEnded c o step).work = s.work := by simp [State.work, State.scriptEnded, State.setHoldS]
    rw [finishCore_of_running running]
    exact (raiseNotice ..).after ended

theorem beginStep (fuel i : Nat) (s : State) : Safe s (s.beginStep fuel i).1 := by
  induction fuel using Nat.strongRecOn generalizing i s with
  | _ fuel ih =>
    cases fuel with
    | zero => exact refl s
    | succ fuel =>
      unfold State.beginStep
      split
      · exact refl s
      · dsimp only
        split
        · exact elsewhere rfl
        · split
          · exact (ih fuel (Nat.lt_succ_self _) ..).after rfl
          · split
            · exact (ih fuel (Nat.lt_succ_self _) ..).after rfl
            · exact elsewhere rfl
        · exact elsewhere rfl

theorem startCore (r : Request) (s : State) : Safe s (s.startCore r).1 := by
  have begun : Safe s (s.begun r) := by
    refine (raiseNotice ..).after (s := s) ?_
    rfl
  unfold State.startCore
  dsimp only
  split
  · exact begun.trans (beginStep ..)
  · exact begun

theorem startNext (fuel : Nat) (s : State) : Safe s (s.startNext fuel) := by
  induction fuel generalizing s with
  | zero => exact refl s
  | succ fuel ih =>
    unfold State.startNext
    split
    · exact refl s
    · rename_i r rest queue
      have left : Safe s (s.onScript fun e => { e with queue := rest }) := onScript fun ordered => by
        unfold RequestsInOrder at ordered
        rw [queue] at ordered
        exact (List.pairwise_cons.mp ordered).2
      have started := left.trans (startCore r _)
      split <;> rename_i eq <;> rw [eq] at started
      · exact started
      · exact (started.trans (finishCore ..)).trans (ih _)

theorem finishScript (o : ScriptOutcome) (step : Nat) (s : State) : Safe s (s.finishScript o step) :=
  (finishCore s o step).trans (startNext ..)

theorem settle {x : State × Finish} (begun : Safe s x.1) : Safe s (State.settle x) := by
  unfold State.settle
  split
  · exact begun
  · exact begun.trans (finishScript ..)

theorem goTo (i : Nat) (s : State) : Safe s (s.goTo i) := settle (beginStep ..)

theorem startRequest (r : Request) (s : State) : Safe s (s.startRequest r) := settle (startCore r s)

/-! ### Presenting a request (R159 to R162) -/

theorem enqueue (r : Request) (s : State) : Safe s (s.enqueue r) := onScript (insertRequest_ordered r)

theorem queueRequest (r : Request) (s : State) : Safe s (s.queueRequest r).2 := by
  unfold State.queueRequest
  dsimp only
  split
  · exact elsewhere rfl
  split
  · exact enqueue r s
  split
  · exact refl s
  · rename_i low _
    split
    · have dropped : Safe s (s.onScript fun e => { e with
          queue := s.script.queue.dropLast, cnt := { e.cnt with displaced := e.cnt.displaced + 1 } }) :=
        onScript fun ordered => List.Pairwise.sublist (List.dropLast_sublist _) ordered
      exact (dropped.trans (raiseNotice _ (.scriptDropped low.script low.source low.prio))).trans (enqueue ..)
    · exact refl s

theorem present (r : Request) (s : State) : Safe s (s.present r).2 := by
  unfold State.present
  split
  · exact refl s
  split
  · exact startRequest r s
  · split
    · have counted : Safe s (s.onScriptCnt fun n => { n with preemptions := n.preemptions + 1 }) := elsewhere rfl
      exact (counted.trans (finishCore ..)).trans (startRequest ..)
    · exact queueRequest r s

theorem presentFrom (script : Nat) (source : Source) (prio : Nat) (preempt : Bool) (s : State) :
    Safe s (s.presentFrom script source prio preempt) := by
  unfold State.presentFrom
  dsimp only
  split
  · exact elsewhere rfl
  · rename_i k _
    have presented := present ⟨k, source, prio, preempt, s.clock.now⟩ s
    split <;> rename_i eq <;> rw [eq] at presented
    · exact presented.before rfl
    · exact presented.before rfl
    · exact presented

/-! ### The engine's waits and actions (R153 to R157) -/

theorem scriptDelayExpiry (s : State) : Safe s s.scriptDelayExpiry := by
  unfold State.scriptDelayExpiry
  split
  · exact refl s
  split
  · split
    · exact elsewhere rfl
    · exact refl s
  · exact refl s

theorem awaitTimeout (s : State) : Safe s s.awaitTimeout := by
  unfold State.awaitTimeout
  split
  · exact refl s
  split
  · split
    · exact (goTo ..).after rfl
    · exact refl s
  · exact refl s

theorem awaitLevel (k : Fin 4) (s : State) : Safe s (s.awaitLevel k) := by
  unfold State.awaitLevel
  split
  · exact refl s
  split
  · split
    · exact (goTo ..).after rfl
    · exact refl s
  · exact refl s

theorem act (s : State) (op : StepOp) {f : Running → State → State} (safe : ∀ c t, Safe t (f c t)) : Safe s (s.act op f) := by
  unfold State.act
  split
  · exact refl s
  · exact (safe _ _).after rfl

theorem actThenNext (s : State) (op : StepOp) {f : Running → State → State} (safe : ∀ c t, Safe t (f c t)) :
    Safe s (s.actThenNext op f) := act s op fun c t => (safe c t).trans (goTo ..)

theorem presentDrive (c : Running) (s : State) : Safe s (s.presentDrive c) := by
  unfold State.presentDrive
  split
  · exact goTo ..
  split
  · exact (goTo ..).after rfl
  · split <;> exact elsewhere rfl

theorem guardWaitExpiry (s : State) : Safe s s.guardWaitExpiry := by
  unfold State.guardWaitExpiry
  split
  · exact refl s
  split
  · split
    · exact presentDrive ..
    · exact refl s
  · exact refl s

theorem addMark (s : State) (kind : MarkKind) (code : Half) : Safe s (s.addMark kind code) := elsewhere rfl

theorem closeWindow (code : Half) (s : State) : Safe s (s.closeWindow code) := by
  unfold State.closeWindow
  split
  · exact refl s
  · exact (Serves.endHeldWhere ..).safe.after rfl

theorem bootWindowExpiry (s : State) : Safe s s.bootWindowExpiry := by
  unfold State.bootWindowExpiry
  split
  · exact refl s
  split
  · exact closeWindow ..
  · exact refl s

theorem stepCall (s : State) : Safe s s.stepCall := act s _ fun c t => by
  split
  · exact finishScript ..
  split
  · exact finishScript ..
  · exact (goTo ..).after rfl

theorem stepEnd (s : State) : Safe s s.stepEnd := act s _ fun c t => by
  split
  · exact finishScript ..
  · exact (goTo ..).after rfl

theorem stepHoldS (s : State) : Safe s s.stepHoldS := actThenNext s _ fun _ _ => (flushHold _).after rfl

/-! ### The console stream (R79, R92, R93) -/

theorem patternHit (i : Fin 8) (p : Pattern) (s : State) : Safe s (s.patternHit i p) := by
  unfold State.patternHit
  dsimp only
  have marked : ∀ t : State, Safe t (if p.mark = true then t.addMark .pattern (BitVec.ofNat 16 i.val) else t) := fun t => by
    split <;> exact elsewhere rfl
  have noticed : ∀ (t : State) (n : Notice), Safe t (if p.notify = true then t.raiseNotice n else t) := fun t n => by
    split
    · exact raiseNotice ..
    · exact refl t
  have requested : ∀ t : State, Safe t (if p.request = true then t.presentFrom p.script (.pattern i) p.prio p.preempt else t) := fun t => by
    split
    · exact presentFrom ..
    · exact refl t
  exact (((marked _).trans (noticed ..)).trans (requested _)).after rfl

theorem judgePattern (b : Byte) (s : State) (i : Fin 8) : Safe s (s.judgePattern b i) := by
  unfold State.judgePattern
  dsimp only
  split
  · split
    · exact patternHit ..
    · exact elsewhere rfl
  · exact refl s

theorem onHist (s : State) (f : History → History) : Safe s (s.onHist f) := elsewhere rfl

theorem appendByte (b : Byte) (s : State) : Safe s (s.appendByte b) := by
  have judged := (onHist s fun h => h.store b s.clock.now).trans (foldl (judgePattern b) (List.finRange 8) _)
  exact (judged.trans (onHist _ _)).trans (pump _)

/-! ### The console line (R64 to R75) -/

theorem rxdFallingEdge (s : State) : Safe s s.rxdFallingEdge := by
  unfold State.rxdFallingEdge
  dsimp only
  split
  · split
    · exact elsewhere rfl
    · split <;> exact elsewhere rfl
  · exact elsewhere rfl

theorem falseStart (s : State) : Safe s s.falseStart := by
  unfold State.falseStart
  split
  · split
    · exact elsewhere rfl
    · exact refl s
  · exact refl s

theorem takeCharacter (v : Byte) (framing parity : Bool) (s : State) : Safe s (s.takeCharacter v framing parity) :=
  (appendByte ..).after rfl

theorem judgeSamples (c : CharSettings) (edge : Time) (samples : List Bool) (rose : Bool) (s : State) :
    Safe s (s.judgeSamples c edge samples rose) := by
  unfold State.judgeSamples
  split
  · dsimp only
    split
    · exact (takeCharacter ..).after rfl
    · exact elsewhere rfl
  · exact refl s

theorem rxCharacter (samples : List Bool) (rose : Bool) (s : State) : Safe s (s.rxCharacter samples rose) := by
  unfold State.rxCharacter
  split
  · exact judgeSamples ..
  · exact judgeSamples ..
  · split
    · exact (takeCharacter ..).after rfl
    · exact refl s
  · exact refl s

theorem breakDetected (s : State) : Safe s s.breakDetected := by
  unfold State.breakDetected
  split
  · split
    · exact elsewhere rfl
    · exact refl s
  · exact refl s

theorem breakInEnd (s : State) : Safe s s.breakInEnd := by
  unfold State.breakInEnd
  split
  · exact elsewhere rfl
  · exact refl s

theorem onLine (s : State) (f : ConsoleLine → ConsoleLine) : Safe s (s.onLine f) := elsewhere rfl

theorem autobaudComplete (m : Nat) (s : State) : Safe s (s.autobaudComplete m) := by
  have ended : Safe s ((s.endMeasurement.setDiv (divOfInterval m)).onLineCnt fun c => { c with autobaudOk := c.autobaudOk + 1 }) :=
    ((onLine s _).trans (onLine _ _)).trans (onLine _ _)
  exact (ended.trans (addMark ..)).trans (raiseNotice ..)

theorem autobaudOverflow (s : State) : Safe s s.autobaudOverflow := by
  unfold State.autobaudOverflow
  split
  · split
    · exact elsewhere rfl
    · exact refl s
  · exact refl s

theorem autobaudInterval (cycles : Nat) (s : State) : Safe s (s.autobaudInterval cycles) := by
  unfold State.autobaudInterval
  split
  · dsimp only
    split
    · exact refl s
    split
    · exact elsewhere rfl
    split
    · exact elsewhere rfl
    · exact (autobaudComplete ..).after rfl
  · exact refl s

theorem autobaudTimeout (s : State) : Safe s s.autobaudTimeout := by
  unfold State.autobaudTimeout
  split
  · split
    · exact (raiseNotice ..).after rfl
    · exact refl s
  · exact refl s

theorem txNext (s : State) : Safe s s.txNext := by
  unfold State.txNext
  split
  · split
    · split
      · exact refl s
      · exact elsewhere rfl
    · exact elsewhere rfl
  · exact refl s

theorem txCharacterDone (s : State) : Safe s s.txCharacterDone := by
  unfold State.txCharacterDone
  split
  · split
    · exact (txNext _).after rfl
    · exact refl s
  · exact refl s

theorem breakOutEnd (s : State) : Safe s s.breakOutEnd := by
  unfold State.breakOutEnd
  split
  · split
    · exact elsewhere rfl
    · exact refl s
  · exact refl s

theorem breakGapEnd (s : State) : Safe s s.breakGapEnd := by
  unfold State.breakGapEnd
  split
  · split
    · exact (txNext _).after rfl
    · exact refl s
  · exact refl s

theorem ctsAssert (s : State) : Safe s s.ctsAssert := (txNext _).after rfl

theorem changeOwner (new : Option (Fin 8)) (cause : OwnerCause) (s : State) : Safe s (s.changeOwner new cause) :=
  (raiseNotice ..).after rfl

theorem releaseIfIdle (s : State) : Safe s s.releaseIfIdle := by
  unfold State.releaseIfIdle
  split
  · exact refl s
  split
  · exact changeOwner ..
  · exact refl s

theorem pushDelayExpiry (w : Fin 4) (s : State) : Safe s (s.pushDelayExpiry w) := by
  unfold State.pushDelayExpiry
  split
  · exact refl s
  split
  · exact (pump _).after rfl
  · exact refl s

/-! ### The sense lines (R141 to R145) -/

theorem setPowerState (new : PowerState) (s : State) : Safe s (s.setPowerState new) := by
  unfold State.setPowerState
  dsimp only
  split
  · exact refl s
  · exact (raiseNotice ..).after rfl

theorem matchTrigger (k : Fin 4) (rise : Bool) (s : State) (n : Fin 8) : Safe s (s.matchTrigger k rise n) := by
  unfold State.matchTrigger
  dsimp only
  split
  · exact (presentFrom ..).after rfl
  · exact refl s

theorem takeLevel (k : Fin 4) (level : Bool) (s : State) : Safe s (s.takeLevel k level) := by
  unfold State.takeLevel
  dsimp only
  split
  · exact (setPowerState ..).after rfl
  · exact elsewhere rfl

theorem raiseEdge (k : Fin 4) (level : Bool) (s : State) : Safe s (s.raiseEdge k level) := by
  have counted : Safe s (s.onPowerCnt fun c => c.edge k level) := elsewhere rfl
  have taken := counted.trans (takeLevel k level _)
  unfold State.raiseEdge
  exact (taken.trans (foldl (matchTrigger k level) ..)).trans (awaitLevel ..)

theorem establish (k : Fin 4) (level : Bool) (s : State) : Safe s (s.establish k level) := (takeLevel ..).trans (awaitLevel ..)

theorem sensedChange (k : Fin 4) (level : Bool) (s : State) : Safe s (s.sensedChange k level) := by
  unfold State.sensedChange
  dsimp only
  split
  · split
    · exact establish ..
    · exact elsewhere rfl
  · split
    · split
      · exact elsewhere rfl
      · exact refl s
    · split
      · exact raiseEdge ..
      · exact elsewhere rfl

theorem senseRawChange (k : Fin 4) (level : Bool) (s : State) : Safe s (s.senseRawChange k level) := by
  unfold State.senseRawChange
  split
  · exact refl s
  · dsimp only
    split
    · exact (sensedChange ..).after rfl
    · exact elsewhere rfl

theorem senseChangeDue (k : Fin 4) (s : State) : Safe s (s.senseChangeDue k) := by
  unfold State.senseChangeDue
  split
  · split
    · exact raiseEdge ..
    · exact refl s
  · exact refl s

theorem senseEstablishmentDue (k : Fin 4) (s : State) : Safe s (s.senseEstablishmentDue k) := by
  unfold State.senseEstablishmentDue
  split
  · split
    · exact establish ..
    · exact refl s
  · exact refl s

end Safe

end Sys2Proof.Machine
end

section
/-! Every operation of the media engine keeps the sum of R22, the media inbox and the script engine. -/

namespace Sys2Proof.Machine

/-- What an operation of the media engine keeps but for the cache. -/
structure Holds (s t : State) : Prop where
  script : t.script = s.script
  inbox : t.media.inbox = s.media.inbox
  cells : CellsBut none 0 s → CellsBut none 0 t

theorem Serves.holds {u : Option (Fin 4)} {s t : State} (serves : Serves u s t) : Holds s t :=
  ⟨serves.script, serves.inbox, serves.cells⟩

/-! ### A line is had (R25) -/

/-- No line of the sector. -/
def State.Missing (s : State) (g : Fin 4) (x : Nat) : Prop := ∀ l ∈ s.media.lines, l.isFor g x = false

theorem missing_of_findLine {s : State} {g : Fin 4} {x : Nat} (none : ¬ (s.media.findLine g x).isSome = true) : s.Missing g x :=
  fun l member => by
    have none : s.media.findLine g x = Option.none := by simpa using none
    simpa using List.find?_eq_none.mp none l member

theorem obtainLine_lines (s : State) : s.obtainLine.2.media.lines.Sublist s.media.lines := by
  unfold State.obtainLine
  split
  · exact .refl _
  · split
    · exact List.filter_sublist
    · exact .refl _

theorem obtainLine_script (s : State) : s.obtainLine.2.script = s.script := by
  unfold State.obtainLine
  split
  · rfl
  · split <;> rfl

theorem obtainLine_inbox (s : State) : s.obtainLine.2.media.inbox = s.media.inbox := by
  unfold State.obtainLine
  split
  · rfl
  · split <;> rfl

namespace CellsBut

variable {b : Option Shaper} {n : Int} {s t : State}

/-- A line granted is four cells in no place yet. -/
theorem obtainLine (h : CellsBut b n s) : CellsBut b (if s.obtainLine.1 = true then n + 4 else n) s.obtainLine.2 := by
  unfold State.obtainLine
  split
  · rename_i room
    have fits : Config.lineCells ≤ s.pool.free := Nat.le_trans (Nat.le_add_left ..) room.2
    exact (h.takeCells fits).onPool (f := fun p => { p with cacheAlloc := p.cacheAlloc + 1 }) rfl
  · split
    · rename_i l found
      exact (h.dropLine (evictee_clean found).1).onPool (f := fun p => { p with
        cacheAlloc := p.cacheAlloc + 1, cacheEvict := p.cacheEvict + 1 }) rfl
    · exact h.onPool (f := fun p => { p with cacheAllocFail := p.cacheAllocFail + 1 }) rfl

theorem addLine (h : CellsBut b n s) {l : CacheLine} (missing : s.Missing l.region l.sector) : CellsBut b (n - 4) (s.addLine l) := by
  refine (h.onMedia (f := fun m => { m with lines := s.media.lines ++ [l] }) rfl 1 (by simp) fun once => ?_).congr (by omega)
  show ((s.media.lines ++ [l]).map fun l => (l.region, l.sector)).Nodup
  rw [List.map_append, List.map_singleton, List.nodup_append]
  refine ⟨once, List.pairwise_singleton _ _, fun a old b new same => ?_⟩
  obtain ⟨k, member, rfl⟩ := List.mem_map.mp old
  obtain rfl := List.mem_singleton.mp new
  have other := missing k member
  obtain ⟨region, sector⟩ := Prod.mk.inj same
  rw [isFor_iff.mpr ⟨region, sector⟩] at other
  exact nomatch other

end CellsBut

/-- A line had enters the cache. -/
theorem holds_enter {s : State} {l : CacheLine} (granted : s.obtainLine.1 = true) (missing : s.Missing l.region l.sector) :
    Holds s (s.obtainLine.2.addLine l) where
  script := obtainLine_script s
  inbox := obtainLine_inbox s
  cells h := by
    have had := h.obtainLine
    rw [if_pos granted] at had
    exact (had.addLine fun k member => missing k ((obtainLine_lines s).subset member)).congr (by omega)

theorem holds_refused {s : State} (refused : s.obtainLine.1 = false) : Holds s s.obtainLine.2 where
  script := obtainLine_script s
  inbox := obtainLine_inbox s
  cells h := by
    have had := h.obtainLine
    rwa [refused, if_neg Bool.false_ne_true] at had

theorem missing_enter {s : State} {g : Fin 4} {x y : Nat} {c : LineCond} (missing : s.Missing g y) (other : y ≠ x) :
    (s.obtainLine.2.addLine ⟨g, x, c, []⟩).Missing g y := fun l member => by
  rcases List.mem_append.mp member with old | new
  · exact missing l ((obtainLine_lines s).subset old)
  · obtain rfl := List.mem_singleton.mp new
    rw [← Bool.not_eq_true, isFor_iff]
    exact fun both => other both.2.symm

/-- Lines changed in place stand for the same sectors. -/
theorem map_keys {ls : List CacheLine} {f : CacheLine → CacheLine} (keys : ∀ l, (f l).region = l.region ∧ (f l).sector = l.sector) :
    ((ls.map f).map fun l => (l.region, l.sector)) = ls.map fun l => (l.region, l.sector) := by
  rw [List.map_map]
  exact List.map_congr_left fun l _ => Prod.ext (keys l).1 (keys l).2

namespace Holds

variable {s t v : State}

theorem refl (s : State) : Holds s s := ⟨rfl, rfl, id⟩

theorem trans (a : Holds s t) (b : Holds t v) : Holds s v :=
  ⟨b.script.trans a.script, b.inbox.trans a.inbox, b.cells ∘ a.cells⟩

theorem foldl {α : Type} {f : State → α → State} (h : ∀ s x, Holds s (f s x)) (xs : List α) (s : State) : Holds s (xs.foldl f s) := by
  induction xs generalizing s with
  | nil => exact refl s
  | cons x xs ih => exact (h s x).trans (ih _)

/-- A change of the media engine that leaves its inbox and the sectors that have lines. -/
theorem onMedia {f : Media → Media} (inbox : (f s.media).inbox = s.media.inbox)
    (keys : ((f s.media).lines.map fun l => (l.region, l.sector)).Perm (s.media.lines.map fun l => (l.region, l.sector))) :
    Holds s (s.onMedia f) := ⟨rfl, inbox, fun h => h.onMediaSame inbox keys⟩

/-- A change of the media engine that leaves its inbox and its lines. -/
theorem apart {f : Media → Media} (inbox : (f s.media).inbox = s.media.inbox := by rfl)
    (lines : (f s.media).lines = s.media.lines := by rfl) : Holds s (s.onMedia f) := onMedia inbox (by rw [lines])

theorem onXfer (s : State) (f : TransferCounters → TransferCounters) : Holds s (s.onXfer f) := apart

theorem onRegion (s : State) (g : Fin 4) (f : Region → Region) : Holds s (s.onRegion g f) := apart

theorem allocate (s : State) (k : TransferKind) (g : Fin 4) (first count : Nat) (e : Fin 16) : Holds s (s.allocate k g first count e) :=
  apart

theorem freeEntry (s : State) (e : Fin 16) : Holds s (s.freeEntry e) := apart

theorem setTransfer (s : State) (e : Fin 16) (t : Transfer) : Holds s (s.setTransfer e t) := apart

theorem raiseNotice (s : State) (n : Notice) : Holds s (s.raiseNotice n) := (Serves.raiseNotice (u := none) s n).holds

theorem freeLines (s : State) (p : CacheLine → Bool) : Holds s (s.freeLines p) := (Serves.freeLines (u := none) s p).holds

theorem trimExcess (s : State) : Holds s s.trimExcess := (Serves.trimExcess (u := none) s).holds

theorem endHeldWhere (s : State) (p : Held → Bool) (st : BlkStatus) : Holds s (s.endHeldWhere p st) :=
  (Serves.endHeldWhere (u := none) s p st).holds

theorem sectorArrived (g : Fin 4) (x : Nat) (s : State) : Holds s (s.sectorArrived g x) :=
  (Serves.sectorArrived (u := none) g x s).holds

theorem answer (s : State) (r : BlkRequest) (st : BlkStatus) (body : List Byte) : Holds s (s.answer r st body) :=
  (Serves.answer (u := none) s r st body).holds

theorem onBlk (s : State) (f : BlockCounters → BlockCounters) : Holds s (s.onBlk f) := apart

/-- Lines are changed in place. -/
theorem onLineOf (s : State) (g : Fin 4) (x : Nat) {f : CacheLine → CacheLine}
    (keys : ∀ l, (f l).region = l.region ∧ (f l).sector = l.sector := by exact fun _ => ⟨rfl, rfl⟩) : Holds s (s.onLineOf g x f) := by
  unfold State.onLineOf State.setLines
  exact onMedia rfl (.of_eq (map_keys fun l => by
    split
    · exact keys l
    · exact ⟨rfl, rfl⟩))

/-! ### Fills (R118, R119) -/

theorem fillLines (g : Fin 4) (e : Fin 16) {xs : List Nat} (once : xs.Nodup) (s : State) (missing : ∀ x ∈ xs, s.Missing g x) :
    Holds s (s.fillLines g e xs).2 := by
  induction xs generalizing s with
  | nil => exact refl s
  | cons x xs ih =>
    obtain ⟨fresh, once⟩ := List.nodup_cons.mp once
    have here := missing x List.mem_cons_self
    unfold State.fillLines
    cases granted : s.obtainLine with
    | mk had t =>
      cases had with
      | false =>
        have refused := holds_refused (s := s) (by rw [granted])
        rw [granted] at refused
        exact refused
      | true =>
        have entered := holds_enter (s := s) (l := ⟨g, x, .filling e, []⟩) (by rw [granted]) here
        have still := fun y member other => missing_enter (s := s) (x := x) (c := .filling e) (missing y (List.mem_cons_of_mem x member)) other
        rw [granted] at entered still
        exact entered.trans (ih once _ fun y member => still y member fun same => fresh (same ▸ member))

theorem runFrom_missing {m : Media} {g : Fin 4} {limit : Nat} (fuel x : Nat) :
    (m.runFrom g x limit fuel).Nodup ∧ ∀ y ∈ m.runFrom g x limit fuel, x ≤ y ∧ m.findLine g y = none := by
  induction fuel generalizing x with
  | zero => exact ⟨List.nodup_nil, nofun⟩
  | succ fuel ih =>
    obtain ⟨once, rest⟩ := ih (x + 1)
    unfold Media.runFrom
    split
    · rename_i here
      refine ⟨List.nodup_cons.mpr ⟨fun member => absurd (rest x member).1 (by omega), once⟩, fun y member => ?_⟩
      rcases List.mem_cons.mp member with rfl | member
      · exact ⟨Nat.le_refl _, by simpa using here.2⟩
      · exact ⟨by have := (rest y member).1; omega, (rest y member).2⟩
    · exact ⟨List.nodup_nil, nofun⟩

theorem deferFill (s : State) : Holds s s.deferFill := onXfer ..

theorem ensureFill (g : Fin 4) (x : Nat) (s : State) : Holds s (s.ensureFill g x).2 := by
  unfold State.ensureFill
  split
  · exact refl s
  · dsimp only
    split
    · exact deferFill s
    · split
      · exact deferFill s
      · rename_i e _ _
        obtain ⟨once, missing⟩ := runFrom_missing (m := s.media) (g := g)
          (limit := runEnd (s.media.regions[g]).cfg.prefetch (s.media.regions[g]).sectors x) (s.media.regions[g]).cfg.prefetch x
        have filled := fillLines g e once s fun y member => missing_of_findLine (by rw [(missing y member).2]; exact Bool.false_ne_true)
        split
        · exact filled.trans (deferFill _)
        · dsimp only
          exact (filled.trans (allocate _ .fetch g x _ e)).trans (onXfer _ _)

theorem rescanSector (g : Fin 4) (s : State) (x : Nat) : Holds s (s.rescanSector g x) := by
  unfold State.rescanSector
  dsimp only
  split
  · exact (ensureFill g x s).trans apart
  · exact ensureFill g x s

theorem rescanHeld (s : State) : Holds s s.rescanHeld := by
  unfold State.rescanHeld
  refine trans (t := s.onMedia fun m => { m with fillWaiting := false }) apart (foldl (fun t h => ?_) ..)
  split
  · exact foldl (rescanSector h.unit) ..
  · exact refl t

/-! ### Write-back (R133) -/

theorem startFlush (s : State) (e : Fin 16) (g : Fin 4) (x : Nat) : Holds s (s.startFlush e g x) := by
  unfold State.startFlush
  dsimp only
  refine trans (trans (onMedia rfl ?_) (allocate ..)) (onXfer ..)
  exact .of_eq (map_keys fun l => by split <;> split <;> exact ⟨rfl, rfl⟩)

theorem flushN (fuel : Nat) (s : State) : Holds s (s.flushN fuel) := by
  induction fuel generalizing s with
  | zero => exact refl s
  | succ fuel ih =>
    unfold State.flushN
    split
    · exact refl s
    split
    · exact (startFlush ..).trans (ih _)
    · exact refl s

theorem runFlushes (s : State) : Holds s s.runFlushes := flushN ..

theorem runJoined (b : Bool) (s : State) : Holds s (s.runJoined b) := by
  cases b
  · exact refl s
  · exact runFlushes s

/-! ### Regions (R97 to R102, R126) -/

theorem enterRegion (g : Fin 4) (st : RegionState) (s : State) : Holds s (s.enterRegion g st) := (onRegion s g _).trans (raiseNotice ..)

theorem setError (g : Fin 4) (c : ErrorCode) (x : Option Nat) (s : State) : Holds s (s.setError g c x) := onRegion ..

theorem beginAttach (g : Fin 4) (s : State) : Holds s (s.beginAttach g) := by
  unfold State.beginAttach
  dsimp only
  split
  · exact (enterRegion g .attaching s).trans (allocate ..)
  · exact (enterRegion g .attaching s).trans apart

theorem cancelFetches (g : Fin 4) (k : TransferKind → Bool) (s : State) : Holds s (s.cancelFetches g k) :=
  foldl (fun t e => (freeLines t _).trans (freeEntry _ e)) ..

theorem discardDirty (g : Fin 4) (s : State) : Holds s (s.discardDirty g) := by
  unfold State.discardDirty
  exact ((foldl (fun t e => freeEntry t e) (s.media.entriesOf g (· == .flush)) s).trans (freeLines ..)).trans (onBlk ..)

theorem becomeDetached (g : Fin 4) (s : State) : Holds s (s.becomeDetached g) := (freeLines ..).trans (enterRegion ..)

theorem faultRegion (g : Fin 4) (s : State) : Holds s (s.faultRegion g) :=
  (((onRegion s g _).trans (endHeldWhere ..)).trans (cancelFetches ..)).trans (enterRegion ..)

theorem countFailure (g : Fin 4) (s : State) : Holds s (s.countFailure g) := by
  unfold State.countFailure
  dsimp only
  split
  · split
    · exact (onRegion s g _).trans (faultRegion ..)
    · exact onRegion ..
  · split
    · exact ((onRegion s g _).trans (discardDirty ..)).trans (becomeDetached ..)
    · exact onRegion ..
  · exact refl s

theorem countCompletion (g : Fin 4) (s : State) : Holds s (s.countCompletion g) := onRegion ..

/-! ### Failure and retry (R124, R125) -/

theorem returnDirty (e : Fin 16) (s : State) (x : Fin 4 × Nat) : Holds s (s.returnDirty e x) := by
  unfold State.returnDirty
  split
  · exact refl s
  · split
    · exact (onLineOf s _ _).trans apart
    · exact refl s

theorem failFetch (e : Fin 16) (t : Transfer) (s : State) : Holds s (s.failFetch e t) :=
  (((((freeLines ..).trans (endHeldWhere ..)).trans (setError ..)).trans (onXfer ..)).trans (freeEntry ..)).trans (countFailure ..)

theorem failFlush (e : Fin 16) (t : Transfer) (s : State) : Holds s (s.failFlush e t) :=
  (((((foldl (returnDirty e) _ s).trans (runJoined ..)).trans (setError ..)).trans (onXfer ..)).trans (freeEntry ..)).trans (countFailure ..)

theorem failAttach (g : Fin 4) (c : ErrorCode) (s : State) : Holds s (s.failAttach g c) := (setError ..).trans (enterRegion ..)

theorem failTransfer (e : Fin 16) (t : Transfer) (s : State) : Holds s (s.failTransfer e t) := by
  unfold State.failTransfer
  split
  · exact failFetch ..
  · exact failFlush ..
  · exact (freeEntry ..).trans (failAttach ..)

theorem judgeAttempt (e : Fin 16) (t : Transfer) (s : State) : Holds s (s.judgeAttempt e t) := by
  unfold State.judgeAttempt
  split
  · exact ((setTransfer s e _).trans apart).trans (onXfer ..)
  · exact (setTransfer s e _).trans (failTransfer ..)

theorem transferDeadline (e : Fin 16) (s : State) : Holds s (s.transferDeadline e) := by
  unfold State.transferDeadline
  split
  · exact refl s
  split
  · exact refl s
  split
  · exact (onXfer s _).trans (judgeAttempt ..)
  · exact refl s

/-! ### Issue and rescan (R120, R122) -/

theorem requestFrame_untagged (s : State) (e : Fin 16) (t : Transfer) (d : Fin 16) : (s.requestFrame e t d).frame.tag = none := rfl

theorem transferIssue (s : State) : Holds s s.transferIssue := by
  unfold State.transferIssue
  split
  · exact refl s
  split
  · exact apart
  split
  · exact refl s
  · have issued : Holds s (s.onMedia Media.issued) := apart
    split
    · rename_i placed
      have aside := Aside.placeOut placed
      exact issued.trans ⟨aside.script, aside.inbox, fun h => h.placeOut (requestFrame_untagged ..) placed⟩
    · split
      · exact refl s
      · exact trans apart (onXfer ..)

theorem takeInquiries (fuel : Nat) (s : State) : Holds s (s.takeInquiries fuel) := by
  induction fuel generalizing s with
  | zero => exact refl s
  | succ fuel ih =>
    unfold State.takeInquiries
    split
    · rename_i g rest e _ _
      have left : Holds s (s.onMedia fun m => { m with waitingInquiries := rest }) := apart
      exact (left.trans (allocate ..)).trans (ih _)
    · exact refl s

theorem resourceRescan (s : State) : Holds s s.resourceRescan := by
  unfold State.resourceRescan
  split
  · exact refl s
  · rename_i n _
    have begun : Holds s (s.onMedia fun m => { m with rescans := n }) := apart
    exact ((begun.trans (takeInquiries ..)).trans (rescanHeld _)).trans (runFlushes _)

theorem heldDeadline (k : Nat) (s : State) : Holds s (s.heldDeadline k) := by
  unfold State.heldDeadline
  split
  · exact refl s
  · split
    · exact (onBlk s _).trans (Serves.endHeld (u := none) ..).holds
    · exact refl s

/-! ### Block requests (R106 to R111) -/

theorem judged (r : BlkRequest) {f : Fin 4 → State → State} (s : State) (h : ∀ g, Holds s (f g s)) : Holds s (s.judged r f) := by
  unfold State.judged
  split
  · exact answer ..
  · exact h _

theorem dispose (g : Fin 4) (op : HeldOp) (r : BlkRequest) (s : State) : Holds s (s.dispose g op r) := by
  unfold State.dispose
  dsimp only
  split
  · exact answer ..
  split
  · exact onBlk ..
  split
  · exact answer ..
  · exact trans apart (onBlk ..)

theorem readRequest (r : BlkRequest) (g : Fin 4) (s : State) : Holds s (s.readRequest r g) := by
  unfold State.readRequest
  dsimp only
  split
  · exact (Serves.touch (u := none) ..).holds.trans (answer ..)
  · exact (foldl (fun t x => ensureFill g x t) ..).trans (dispose ..)

theorem writeLines (g : Fin 4) (xs : List Nat) (s : State) : Holds s (s.writeLines g xs).2 := by
  induction xs generalizing s with
  | nil => exact refl s
  | cons x xs ih =>
    unfold State.writeLines
    split
    · exact ih s
    · rename_i none
      cases granted : s.obtainLine with
      | mk had t =>
        cases had with
        | false =>
          have refused := holds_refused (s := s) (by rw [granted])
          rw [granted] at refused
          exact refused
        | true =>
          have entered := holds_enter (s := s) (l := ⟨g, x, .dirty, []⟩) (by rw [granted]) (missing_of_findLine none)
          rw [granted] at entered
          exact entered.trans (ih _)

theorem storeSector (g : Fin 4) (joins : List Nat) (s : State) (x : Nat × List Byte) : Holds s (s.storeSector g joins x) := by
  have stored : Holds s ((s.onLineOf g x.1 fun l => { l with data := x.2, cond := l.cond.written }).touch g [x.1]) :=
    (onLineOf s g x.1).trans (Serves.touch (u := none) ..).holds
  unfold State.storeSector
  dsimp only
  split
  · exact stored.trans apart
  · exact stored

theorem writeBusy (r : BlkRequest) (s : State) : Holds s (s.writeBusy r) := (onBlk s _).trans (answer ..)

theorem writeRequest (r : BlkRequest) (g : Fin 4) (s : State) : Holds s (s.writeRequest r g) := by
  unfold State.writeRequest
  dsimp only
  split
  · exact answer ..
  split
  · exact writeBusy ..
  · have had := writeLines g (sectorsOf r.first r.count ++ sectorsOf r.first r.count) s
    split <;> rename_i eq <;> rw [eq] at had
    · exact (had.trans (freeLines ..)).trans (writeBusy ..)
    · exact (((had.trans (foldl (storeSector g _) ..)).trans (answer ..)).trans
        (foldl (fun t x => sectorArrived g x t) ..)).trans (runJoined ..)

theorem inquireRequest (r : BlkRequest) (g : Fin 4) (s : State) : Holds s (s.inquireRequest r g) := answer ..

theorem syncRequest (r : BlkRequest) (g : Fin 4) (s : State) : Holds s (s.syncRequest r g) := by
  unfold State.syncRequest
  split
  · exact answer ..
  · exact dispose ..

/-! ### Answers of image servers (R128 to R131) -/

theorem inquiryAnswered (e : Fin 16) (t : Transfer) (p : List Byte) (s : State) : Holds s (s.inquiryAnswered e t p) := by
  unfold State.inquiryAnswered
  dsimp only
  split
  · exact (freeEntry ..).trans (failAttach ..)
  split
  · exact (freeEntry ..).trans (failAttach ..)
  · exact ((freeEntry ..).trans (onRegion ..)).trans (enterRegion ..)

theorem refusal (e : Fin 16) (t : Transfer) (s : State) : Holds s (s.refusal e t) := (onXfer s _).trans (judgeAttempt ..)

theorem takeSector (e : Fin 16) (s : State) (x : Nat × List Byte) : Holds s (s.takeSector e x) := by
  unfold State.takeSector
  split
  · exact refl s
  split
  · exact onXfer ..
  split
  · exact onXfer ..
  · dsimp only
    split
    · exact (setTransfer ..).trans (onXfer ..)
    · split
      · exact (((setTransfer ..).trans (onLineOf ..)).trans (sectorArrived ..)).trans (trimExcess _)
      · exact (setTransfer ..).trans (onXfer ..)

theorem completeFetch (e : Fin 16) (s : State) : Holds s (s.completeFetch e) := by
  unfold State.completeFetch
  split
  · exact refl s
  split
  · exact ((freeEntry ..).trans (onXfer ..)).trans (countCompletion ..)
  · exact refl s

theorem dataAnswered (e : Fin 16) (t : Transfer) (p : List Byte) (s : State) : Holds s (s.dataAnswered e t p) := by
  unfold State.dataAnswered
  split
  · exact refusal ..
  · exact (foldl (takeSector e) ..).trans (completeFetch ..)

theorem acknowledge (e : Fin 16) (s : State) (x : Fin 4 × Nat) : Holds s (s.acknowledge e x) := by
  unfold State.acknowledge
  split
  · exact refl s
  split
  · exact (onLineOf ..).trans (trimExcess _)
  split
  · exact returnDirty ..
  · exact refl s

theorem settleRegion (g : Fin 4) (s : State) : Holds s (s.settleRegion g) := by
  unfold State.settleRegion
  split
  · dsimp only
    split
    · exact (endHeldWhere ..).trans (becomeDetached ..)
    · exact endHeldWhere ..
  · exact refl s

theorem ackAnswered (e : Fin 16) (t : Transfer) (p : List Byte) (s : State) : Holds s (s.ackAnswered e t p) := by
  unfold State.ackAnswered
  split
  · exact refusal ..
  · exact (((((foldl (acknowledge e) ..).trans (runJoined ..)).trans (freeEntry ..)).trans (onXfer ..)).trans
      (countCompletion ..)).trans (settleRegion ..)

end Holds

end Sys2Proof.Machine
end

section
/-! A write of a table keeps the sum, the cache and the order of the request queue (R26, R27, R35, R46, R56, R60, R85). -/

namespace Sys2Proof.Machine

/-- An accepted write is safe. -/
def SafeWrite (s : State) (w : Written) : Prop := ∀ t, w = .ok t → Safe s t

namespace SafeWrite

variable {s t : State}

theorem ok (safe : Safe s t) : SafeWrite s (.ok t) := fun u same => by
  cases same
  exact safe

theorem error (st : Status) : SafeWrite s (.error st) := fun _ same => nomatch same

theorem elsewhere (same : t.work = s.work) : SafeWrite s (.ok t) := ok (.elsewhere same)

end SafeWrite

namespace Safe

variable {s t : State}

/-! ### The frame path -/

theorem queueCells_congr {e e' : Egress} (frames : ∀ k : Fin 4, (e'.queues[k]).frames = (e.queues[k]).frames) :
    e'.queueCells = e.queueCells := by
  have eq : ∀ e : Egress, e.queueCells = queuedCells (e.queues[(0 : Fin 4)]).frames + queuedCells (e.queues[(1 : Fin 4)]).frames +
    queuedCells (e.queues[(2 : Fin 4)]).frames + queuedCells (e.queues[(3 : Fin 4)]).frames := Egress.queueCells_eq
  rw [eq, eq, frames, frames, frames, frames]

/-- A change of an egress side that leaves the frames it holds. -/
theorem onEgress (s : State) (p : Port) {f : Egress → Egress} (tx : (f (s.sched.port.get p)).tx = (s.sched.port.get p).tx)
    (frames : ∀ k : Fin 4, ((f (s.sched.port.get p)).queues[k]).frames = ((s.sched.port.get p).queues[k]).frames) :
    Safe s (s.onEgress p f) :=
  of_cells (.of_eq rfl rfl) fun h => (h.onEgress p f 0 (by
    rw [Egress.cells, Egress.cells, queueCells_congr frames, Egress.txCells, Egress.txCells, tx]
    omega)).congr (by omega)

theorem retestIf (b : Bool) (sh : Shaper) (s : State) : Safe s (s.retestIf b sh) := by
  unfold State.retestIf
  split
  · exact retestWaiting s sh
  · exact refl s

theorem writeClassQueue (p : Port) (k : Fin 4) (e : List Byte) (s : State) : Safe s (s.writeClassQueue p k e) := by
  refine onEgress s p rfl fun j => ?_
  dsimp only
  rw [getElem_set_if]
  split
  · rename_i same
    rw [same]
  · rfl

theorem setMode (s : State) (p : Port) (m : SchedMode) : Safe s (s.onEgress p fun x => x.setMode m) := by
  refine onEgress s p ?_ fun j => ?_ <;> unfold Egress.setMode <;> split
  · rfl
  · rfl
  · rfl
  · simp

/-! ### Operators and the console -/

theorem cascade (i : Fin 8) (s : State) : Safe s (s.cascade i) := by
  have removed : Safe s (if (s.removeWatcherOf i).line.owner.any (·.op == i) then (s.removeWatcherOf i).changeOwner none .operatorWrite
      else s.removeWatcherOf i) := by
    split
    · exact (removeWatcherOf s i).trans (changeOwner ..)
    · exact removeWatcherOf s i
  unfold State.cascade
  exact removed.trans (onScript fun ordered => List.Pairwise.filter _ ordered)

theorem abandonMeasurement (s : State) : Safe s s.abandonMeasurement := by
  unfold State.abandonMeasurement
  split
  · exact refl s
  · exact elsewhere rfl

theorem writeHistorySettings (e : List Byte) (s : State) : Safe s (s.writeHistorySettings e) := (onHist s _).trans (pump _)

end Safe

namespace SafeWrite

variable {s t : State}

theorem domain (idx : Nat) (e : List Byte) (s : State) : SafeWrite s (s.writeDomain idx e) := by
  unfold State.writeDomain
  split
  · unfold State.writeDomainEntry
    split
    · exact error _
    · exact elsewhere rfl
  split
  · unfold State.writeMgmt
    split
    · exact error _
    split
    · exact elsewhere rfl
    · exact error _
  · exact error _

theorem steering (idx : Nat) (e : List Byte) (s : State) : SafeWrite s (s.writeSteering idx e) := by
  unfold State.writeSteering
  split
  · exact error _
  dsimp only
  split
  · split
    · exact error _
    · exact elsewhere rfl
  · exact elsewhere rfl

theorem pcpMap (idx : Nat) (e : List Byte) (s : State) : SafeWrite s (s.writePcpMap idx e) := by
  unfold State.writePcpMap
  split
  · exact error _
  · exact elsewhere rfl

theorem portSettings (p : Port) (e : List Byte) (s : State) : SafeWrite s (s.writePortSettings p e) := by
  unfold State.writePortSettings
  dsimp only
  split
  · exact elsewhere rfl
  · exact error _

theorem port (idx : Nat) (e : List Byte) (s : State) : SafeWrite s (s.writePort idx e) := by
  unfold State.writePort
  split
  · exact portSettings .u e s
  · exact portSettings .s e s
  · split
    · exact error _
    · exact elsewhere rfl
  · exact error _

theorem meter (idx : Nat) (e : List Byte) (s : State) : SafeWrite s (s.writeMeter idx e) := by
  unfold State.writeMeter
  split
  · unfold State.writeMeterEntry
    dsimp only
    split
    · exact error _
    · exact ok (((Safe.retestIf ..).trans (Safe.retestIf ..)).after rfl)
  split
  · unfold State.writeMeterSettings
    split
    · exact ok (((Safe.retestIf ..).trans (Safe.retestIf ..)).after rfl)
    · exact error _
  · exact error _

theorem mode (p : Port) (e : List Byte) (s : State) : SafeWrite s (s.writeMode p e) := by
  unfold State.writeMode
  split
  · exact ok (Safe.setMode ..)
  · exact ok (Safe.setMode ..)
  · exact error _

theorem queue (idx : Nat) (e : List Byte) (s : State) : SafeWrite s (s.writeQueue idx e) := by
  unfold State.writeQueue
  split
  · exact ok (Safe.writeClassQueue ..)
  · exact ok (Safe.writeClassQueue ..)
  · split
    · exact mode .u e s
    · exact mode .s e s
    · exact ok (Safe.of_cells (.of_eq rfl rfl) fun h => h.same rfl rfl rfl rfl rfl rfl)
    · exact error _

theorem pool (idx : Nat) (e : List Byte) (s : State) : SafeWrite s (s.writePool idx e) := by
  unfold State.writePool
  split
  · exact ok ((Serves.trimExcess (u := none) _).safe.after rfl)
  · exact error _

theorem operator (idx : Nat) (e : List Byte) (s : State) : SafeWrite s (s.writeOperator idx e) := by
  unfold State.writeOperator
  split
  · exact error _
  dsimp only
  split
  · exact error _
  · exact ok ((Safe.cascade ..).after rfl)

theorem lineSettings (e : List Byte) (s : State) : SafeWrite s (s.writeLineSettings e) := by
  unfold State.writeLineSettings
  split
  · exact error _
  · rename_i l _
    have taken : Safe s (s.abandonMeasurement.onLine fun x => { x with set := l, ctsCounted := x.ctsCounted && l.rtsCts }) :=
      (Safe.abandonMeasurement s).trans (Safe.onLine ..)
    dsimp only
    split
    · exact ok (taken.trans (Safe.txNext _))
    · exact ok ((taken.trans (Safe.releaseIfIdle _)).trans (Safe.txNext _))

theorem console (idx : Nat) (e : List Byte) (s : State) : SafeWrite s (s.writeConsole idx e) := by
  unfold State.writeConsole
  split
  · exact lineSettings e s
  · exact ok (Safe.writeHistorySettings ..)
  · exact error _

theorem pattern (idx : Nat) (e : List Byte) (s : State) : SafeWrite s (s.writePattern idx e) := by
  unfold State.writePattern
  split
  · exact error _
  dsimp only
  split
  · split
    · exact error _
    · exact elsewhere rfl
  · exact elsewhere rfl

/-- The state of the region stays, so the cache agrees with it still (R96). -/
theorem putRegion (s : State) (g : Fin 4) (c : RegionConfig) :
    Safe s (s.onRegion g fun r => { r with cfg := c, sectors := 0, writable := false, failures := 0 }) := by
  refine Safe.of_cells (.onMedia s rfl ⟨rfl, rfl, fun _ => rfl, fun j => ?_, rfl, rfl⟩) fun h => h.onMediaSame rfl (.refl _)
  dsimp only
  rw [getElem_set_if]
  split
  · rename_i same
    rw [same]
  · rfl

theorem region (idx : Nat) (e : List Byte) (s : State) : SafeWrite s (s.writeRegion idx e) := by
  unfold State.writeRegion
  split
  · exact error _
  dsimp only
  split
  · exact error _
  split
  · split
    · exact error _
    · exact ok (putRegion ..)
  · exact ok (putRegion ..)

theorem mediaParams (idx : Nat) (e : List Byte) (s : State) : SafeWrite s (s.writeMediaParams idx e) := by
  unfold State.writeMediaParams
  split
  · exact ok (Safe.of_cells (.onMedia s rfl ⟨rfl, rfl, fun _ => rfl, fun _ => rfl, rfl, rfl⟩) fun h => h.onMediaSame rfl (.refl _))
  · exact error _

theorem line (idx : Nat) (e : List Byte) (s : State) : SafeWrite s (s.writeLine idx e) := by
  unfold State.writeLine
  split
  · exact error _
  split
  · exact error _
  split
  · exact error _
  split
  · exact error _
  · exact elsewhere rfl

theorem sense (idx : Nat) (e : List Byte) (s : State) : SafeWrite s (s.writeSense idx e) := by
  unfold State.writeSense
  split
  · exact error _
  · exact elsewhere rfl

theorem senseTrigger (idx : Nat) (e : List Byte) (s : State) : SafeWrite s (s.writeSenseTrigger idx e) := by
  unfold State.writeSenseTrigger
  split
  · exact error _
  dsimp only
  split
  · split
    · exact error _
    · exact elsewhere rfl
  · exact elsewhere rfl

theorem scriptDir (idx : Nat) (e : List Byte) (s : State) : SafeWrite s (s.writeScriptDir idx e) := by
  unfold State.writeScriptDir
  split
  · exact error _
  dsimp only
  split
  · exact error _
  · exact elsewhere rfl

theorem scriptStep (idx : Nat) (e : List Byte) (s : State) : SafeWrite s (s.writeScriptStep idx e) := by
  unfold State.writeScriptStep
  split
  · exact error _
  dsimp only
  split
  · exact error _
  · exact elsewhere rfl

theorem entry (t : TableId) (idx : Nat) (e : List Byte) (s : State) : SafeWrite s (s.writeEntry t idx e) := by
  cases t with
  | domain => exact domain idx e s
  | steering => exact steering idx e s
  | pcpMap => exact pcpMap idx e s
  | port => exact port idx e s
  | meter => exact meter idx e s
  | queue => exact queue idx e s
  | pool => exact pool idx e s
  | operator => exact operator idx e s
  | console => exact console idx e s
  | pattern => exact pattern idx e s
  | region => exact region idx e s
  | mediaParams => exact mediaParams idx e s
  | line => exact line idx e s
  | sense => exact sense idx e s
  | senseTrigger => exact senseTrigger idx e s
  | scriptDir => exact scriptDir idx e s
  | scriptStep => exact scriptStep idx e s

end SafeWrite

theorem Safe.tableWrite (t : TableId) (r : Rec) (s : State) : Safe s (s.tableWrite t r).state := by
  unfold State.tableWrite
  split
  · exact refl s
  split
  · exact refl s
  split
  · exact refl s
  · rename_i s1 written
    exact SafeWrite.entry _ _ _ s s1 written

end Sys2Proof.Machine
end

section
/-! The records, the loader and the restart keep the sum, the cache and the order of the request queue (R164, R169 to R177). -/

namespace Sys2Proof.Machine

namespace Safe

variable {s t : State}

/-! ### Console records -/

theorem consoleBaud (r : Rec) (s : State) : Safe s (s.consoleBaud r).state := by
  unfold State.consoleBaud
  dsimp only
  split
  · exact refl s
  · exact (abandonMeasurement s).trans (elsewhere rfl)

theorem claimForced (s : State) : Safe s s.claimForced.state := (changeOwner (some s.caller) .forced s.flushFifo).after rfl

theorem claim (force : Bool) (s : State) : Safe s (s.claim force).state := by
  unfold State.claim
  split
  · split
    · exact claimForced s
    · exact changeOwner ..
  · split
    · exact elsewhere rfl
    split
    · exact claimForced s
    · exact refl s

theorem consoleRelease (r : Rec) (s : State) : Safe s (s.consoleRelease r).state := by
  unfold State.consoleRelease
  split
  · exact refl s
  split
  · exact changeOwner ..
  · exact refl s

theorem consoleType (r : Rec) (s : State) : Safe s (s.consoleType r).state := by
  unfold State.consoleType
  split
  · exact (txNext _).after rfl
  · exact refl s

theorem consoleBreak (r : Rec) (s : State) : Safe s (s.consoleBreak r).state := by
  unfold State.consoleBreak
  split
  · exact (txNext _).after rfl
  · exact refl s

theorem consoleArm (r : Rec) (s : State) : Safe s (s.consoleArm r).state := by
  unfold State.consoleArm
  split
  · exact refl s
  · exact elsewhere rfl

theorem watchAt (created : Bool) (w : Fin 4) (r : Rec) (s : State) : Safe s (s.watchAt created w r).state := (settleOffer _).after rfl

theorem consoleWatch (r : Rec) (s : State) : Safe s (s.consoleWatch r).state := by
  unfold State.consoleWatch
  split
  · exact refl s
  split
  · exact watchAt ..
  split
  · exact refl s
  · exact watchAt ..

theorem consoleUnwatch (r : Rec) (s : State) : Safe s (s.consoleUnwatch r).state := by
  unfold State.consoleUnwatch
  split
  · exact refl s
  · exact removeWatcher ..

/-! ### Power records -/

theorem powerRequest (r : Rec) (s : State) : Safe s (s.powerRequest r).state := by
  unfold State.powerRequest
  split
  · exact refl s
  · rename_i k _
    have presented := present (s.operatorRequest r k) s
    dsimp only
    split <;> rename_i eq <;> rw [eq] at presented <;> exact presented

theorem cancelRunning (r : Rec) (s : State) : Safe s (s.cancelRunning r).state := by
  unfold State.cancelRunning
  split
  · exact refl s
  · exact finishScript ..

theorem cancelQueued (r : Rec) (s : State) : Safe s (s.cancelQueued r).state := by
  unfold State.cancelQueued
  split
  · exact refl s
  split
  · exact refl s
  · rename_i k _
    have kept : Safe s (s.onScript fun e => { e with
        queue := e.queue.filter fun q => q.script != k
        cnt := { e.cnt with cancelled := e.cnt.cancelled + BitVec.ofNat 32 (s.script.queue.countP fun q => q.script == k) } }) :=
      onScript fun ordered => List.Pairwise.filter _ ordered
    exact kept

theorem timeSet (r : Rec) (s : State) : Safe s (s.timeSet r).state := by
  unfold State.timeSet
  dsimp only
  split
  · exact refl s
  · exact elsewhere rfl

/-! ### Statistics and the image -/

theorem clearGroup (s : State) (g : Group) : Safe s (s.clearGroup g) := by
  unfold State.clearGroup
  cases g with
  | media =>
    dsimp only
    exact of_cells (.onMedia s rfl ⟨rfl, rfl, fun _ => rfl, fun _ => rfl, rfl, rfl⟩) fun h => h.onMediaSame rfl (.refl _)
  | _ => exact elsewhere (by simp only [State.work, State.onCnt, State.onMeters, State.onPool, State.onAgent, State.onLine,
      State.onHist, State.onPower, State.onScript, State.onPorts])

theorem statsRead (clear : Bool) (r : Rec) (s : State) : Safe s (s.statsRead clear r).state := by
  unfold State.statsRead
  split
  · exact refl s
  · cases clear
    · exact refl s
    · exact clearGroup ..

theorem tableRead (r : Rec) (s : State) : Safe s (s.tableRead r).state := by
  unfold State.tableRead
  split
  · exact refl s
  split
  · exact refl s
  split
  · exact refl s
  split
  · exact refl s
  · exact refl s

theorem mediaStatus (r : Rec) (s : State) : Safe s (s.mediaStatus r).state := by
  unfold State.mediaStatus
  split
  · exact refl s
  · exact refl s

theorem storeImage (r : Rec) (s : State) : Safe s (s.storeImage r).state := by
  unfold State.storeImage
  split
  · exact refl s
  dsimp only
  split
  · exact refl s
  · exact elsewhere rfl

theorem storeComplete (agreed : Bool) (s : State) : Safe s (s.storeComplete agreed) := by
  unfold State.storeComplete
  split
  · exact refl s
  · exact (raiseNotice ..).after rfl

theorem epochAnchorAdvance (s : State) : Safe s s.epochAnchorAdvance := by
  unfold State.epochAnchorAdvance
  split
  · exact refl s
  split
  · exact elsewhere rfl
  · exact refl s

/-! ### RESTART (R55, R175) -/

theorem judgeRestart (force : Bool) (s : State) : Safe s (s.judgeRestart force).state := by
  unfold State.judgeRestart
  split
  · exact refl s
  · exact refl s

theorem acceptRestart (force : Bool) (s : State) : Safe s (s.acceptRestart force) := (advance _).after rfl

theorem perform (s : State) (r : Rec) {h : Rec → State → Answer} (safe : ∀ r t, Safe t (h r t).state) :
    Safe s (s.popRecord.perform r h).state := by
  unfold State.perform
  split
  · exact elsewhere rfl
  · exact (safe r _).after rfl

theorem runRestart (s : State) (c : Instr) (force : Bool) : Safe s (s.runRestart c force) := by
  unfold State.runRestart
  split
  · exact refl s
  · rename_i r _
    have packed := (perform s r (h := fun _ t => t.judgeRestart force) fun _ t => judgeRestart force t).trans
      (pack _ ⟨r.type, r.tag, (s.popRecord.perform r fun _ t => t.judgeRestart force).status,
        (s.popRecord.perform r fun _ t => t.judgeRestart force).body⟩)
    dsimp only
    split
    · exact packed.trans (acceptRestart ..)
    · exact packed.trans (advance _)

/-! ### The image applied (R171, R172) -/

theorem applyRecord {r : ImageRecord} (applied : s.applyRecord r = some t) : Safe s t := by
  unfold State.applyRecord at applied
  split at applied
  · exact nomatch applied
  split at applied
  · split at applied
    · rename_i s1 written
      obtain rfl := Option.some.inj applied
      exact SafeWrite.entry _ _ _ s _ written
    · exact nomatch applied
  · exact nomatch applied

theorem count {l : Load} {n : Nat} {o : Option State} (safe : ∀ u, o = some u → Safe l.state u) : Safe l.state (l.count n o).state := by
  cases o with
  | none => exact refl _
  | some u => exact safe u rfl

theorem loadStep (all : List ImageRecord) (l : Load) (r : ImageRecord) : Safe l.state (l.step all r).state := by
  unfold Load.step
  split
  · split
    · exact refl _
    · refine count (l := { l with domainsMet := true }) fun u made => ?_
      obtain ⟨d, -, rfl⟩ := Option.map_eq_some_iff.mp made
      exact elsewhere rfl
  split
  · exact refl _
  · exact count fun u => applyRecord

theorem loadSteps (all rs : List ImageRecord) (l : Load) : Safe l.state (rs.foldl (Load.step all) l).state := by
  induction rs generalizing l with
  | nil => exact refl _
  | cons r rs ih => exact (loadStep all l r).trans (ih _)

theorem loadTables (ack : EepromAck) (s : State) : Safe s (s.loadTables ack) := by
  unfold State.loadTables
  split
  · have applied : Safe s s.applyImage.state := by
      unfold State.applyImage
      exact loadSteps _ _ ⟨0, _, false, s⟩
    exact applied.trans (elsewhere rfl)
  · exact elsewhere rfl

theorem beginSensing (s : State) (k : Fin 4) : Safe s (s.beginSensing k) := by
  unfold State.beginSensing
  dsimp only
  split
  · exact establish ..
  · exact elsewhere rfl

theorem takePhy (p : Port) (s : State) : Safe s (s.takePhy p) := by
  unfold State.takePhy
  split
  · exact refl s
  · exact elsewhere rfl

end Safe

end Sys2Proof.Machine
end

section
/-! The sum of R22 and the order of the request queue over every step: the commands of the media engine, power-on, the restart, and
the one case split over the commands. -/

namespace Sys2Proof.Machine

/-! ### Power-on and the clearing of a restart (R170, R176) -/

namespace Safe

variable {s t : State}

/-- A state with the working parts of reset is safe, whatever state was before; the generations of the transfer table stay. -/
theorem fresh {table : Vector TransferEntry 16} (media : t.media = { State.reset.media with table := table })
    (unused : ∀ e : Fin 16, (table[e]).use = none) (work : t.work = { State.reset.work with media := t.media }) : Safe s t := by
  obtain ⟨requests, -, sched, agentOut, mediaOut, inbox, closed, free⟩ := Work.mk.inj work
  refine ⟨fun _ => ?_, fun _ => ?_, fun _ => ?_⟩
  · unfold RequestsInOrder
    rw [requests]
    exact List.Pairwise.nil
  · refine reset_cacheSound.same ?_
    rw [media]
    exact ⟨rfl, rfl, fun e => by rw [reset_table]; exact congrArg _ (unused e), fun _ => rfl, rfl, rfl⟩
  · refine (reset_cellsSound.but.same free ?_ (by rw [media]) agentOut mediaOut closed).sound
    simp only [State.frameCells, State.txCells, inboxCells, mediaInboxCells, sched, agentOut, mediaOut, inbox, media,
      State.work]

theorem powerOn (phase : Phase) (straps : Straps) (pins : Pins) (eeprom : Eeprom) (pending : List Instr) (s : State) :
    Safe s (State.powerOn phase straps pins eeprom pending) :=
  fresh rfl (fun _ => by simp) rfl

theorem setPhase (s : State) (p : Phase) : Safe s (s.setPhase p) := elsewhere rfl

theorem onLoader (s : State) (f : Loader → Loader) : Safe s (s.onLoader f) := elsewhere rfl

theorem restarted (s : State) : Safe s (s.onAgent fun a => { a with state := .idle, restartForce := false, restartGone := false }) :=
  elsewhere rfl

theorem restartBegin (s : State) : Safe s s.restartBegin := by
  by_cases due : s.phase = .running ∧ s.agent.state = .restartPending ∧ s.agent.restartGone = true
  · obtain ⟨running, pending, gone⟩ := due
    rw [restartBegin_of_due running pending gone]
    generalize StartRecord.mk .restart s.agent.restartForce s.media.dirtyCount s.script.running.isSome (s.loader.store != .idle) = start
    obtain ⟨-, -, -, pool, -, sched, agentOut, mediaOut, -⟩ := cleared_tables start s.restartScript
    refine fresh (cleared_media start s.restartScript) (fun e => ?_) ?_
    · simp
    · rw [State.work, cleared_script, pool, sched, agentOut, mediaOut, cleared_agent]
      rfl
  · rw [restartBegin_of_not due]
    exact refl s

/-- A record command, when its handler is run: what comes before and after is safe. -/
theorem runRecord_cases (s : State) (c : Instr) (h : Rec → State → Answer) : Safe s (s.runRecord c h) ∨
    ∃ r u, Safe s u ∧ Safe (h r u).state (s.runRecord c h) := by
  unfold State.runRecord
  split
  · exact .inl (refl s)
  · rename_i r _
    dsimp only
    cases refused : s.popRecord.refusedBefore r with
    | some st =>
      have performed : s.popRecord.perform r h = ⟨st, r.refusalBody, s.popRecord⟩ := by rw [State.perform, refused]
      rw [performed]
      exact .inl (((pack ..).trans (advance _)).after rfl)
    | none =>
      have performed : s.popRecord.perform r h = h r s.popRecord := by rw [State.perform, refused]
      rw [performed]
      exact .inr ⟨r, s.popRecord, elsewhere rfl, (pack ..).trans (advance _)⟩

end Safe

/-! ### What every command keeps but for the cache -/

/-- The request queue stays in order, and the cells add up. -/
structure Orderly (s t : State) : Prop where
  requests : RequestsInOrder s → RequestsInOrder t
  cells : CellsSound s → CellsSound t

theorem Safe.orderly {s t : State} (safe : Safe s t) : Orderly s t := ⟨safe.requests, safe.cells⟩

namespace Orderly

variable {s t u : State}

theorem refl (s : State) : Orderly s s := ⟨id, id⟩

theorem trans (a : Orderly s t) (b : Orderly t u) : Orderly s u := ⟨b.requests ∘ a.requests, b.cells ∘ a.cells⟩

theorem after {s' : State} (b : Orderly s' t) (same : s'.work = s.work) : Orderly s t := (Safe.elsewhere same).orderly.trans b

theorem before {t' : State} (a : Orderly s t') (same : t.work = t'.work) : Orderly s t := a.trans (Safe.elsewhere same).orderly

/-- With the cache, a command is safe. -/
theorem safe (orderly : Orderly s t) (cache : CacheSound s.media → CacheSound t.media) : Safe s t :=
  ⟨orderly.requests, cache, orderly.cells⟩

theorem runRecord (s : State) (c : Instr) {h : Rec → State → Answer} (orderly : ∀ r t, Orderly t (h r t).state) :
    Orderly s (s.runRecord c h) := by
  obtain safe | ⟨r, u, before, after⟩ := Safe.runRecord_cases s c h
  · exact safe.orderly
  · exact (before.orderly.trans (orderly r u)).trans after.orderly

end Orderly

theorem Holds.orderly {s t : State} (holds : Holds s t) : Orderly s t where
  requests ordered := by
    unfold RequestsInOrder
    rw [holds.script]
    exact ordered
  cells sound := (holds.cells sound.but).sound

/-! ### The commands of the media engine (R105, R128) -/

namespace Orderly

variable {s : State}

/-- A media frame is handled, and leaves with its cells. -/
theorem takeMedia (s : State) (c : Instr) {f : MediaIn → State → State} (holds : ∀ m, Holds s (f m s)) : Orderly s (s.takeMedia c f) := by
  unfold State.takeMedia
  split
  · exact refl s
  · rename_i m rest inbox
    split
    · refine ⟨fun ordered => ?_, fun sound => ?_⟩
      · unfold RequestsInOrder
        rw [(Aside.returnCells ..).script]
        exact (holds m).orderly.requests ordered
      · have handled := (holds m).cells sound.but
        have left := (handled.onMediaInbox (f := fun x => { x with inbox := x.inbox.drop 1 }) rfl (-m.frame.cells) (by
          simp only [mediaInboxCells, (holds m).inbox, inbox, List.drop_succ_cons, List.drop_zero, List.map_cons, List.sum_cons]
          push_cast
          omega)).returnCells m.frame.cells
        exact (left.congr (by omega)).sound
    · exact refl s

theorem takeRequest (s : State) (c : Instr) {f : BlkRequest → State → State} (holds : ∀ r, Holds s (f r s)) :
    Orderly s (s.takeRequest c f) := by
  refine takeMedia s c fun m => ?_
  split
  · exact .onBlk ..
  · exact holds _

theorem takeAnswer (s : State) (c : Instr) (k : TransferKind) {f : Fin 16 → Transfer → List Byte → State → State}
    (holds : ∀ e t p, Holds s (f e t p s)) : Orderly s (s.takeAnswer c k f) := by
  refine takeMedia s c fun m => ?_
  split
  · exact Holds.onXfer ..
  · exact holds ..

end Orderly

theorem Holds.leave (g : Fin 4) (s : State) :
    Holds s (if s.media.regionDirty g = 0 then s.becomeDetached g else s.enterRegion g .detaching) := by
  split
  · exact becomeDetached ..
  · exact enterRegion ..

theorem Holds.detachRegion (g : Fin 4) (discard : Bool) (s : State) : Holds s (s.detachRegion g discard) := by
  have left : Holds s (((s.endHeldWhere (fun h => h.unit == g) .noUnit).cancelFetches g (· != .flush)).onMedia fun m => { m with
      waitingInquiries := m.waitingInquiries.filter (· != g) }) := ((endHeldWhere ..).trans (cancelFetches ..)).trans apart
  unfold State.detachRegion
  refine trans ?_ (leave ..)
  split
  · exact left.trans (discardDirty ..)
  · exact left

namespace Orderly

variable {s : State}

/-! ### Media records and attaches (R97, R98, R100, R103) -/

theorem mediaAttach (r : Rec) (s : State) : Orderly s (s.mediaAttach r).state := by
  unfold State.mediaAttach
  split
  · exact refl s
  split
  · exact (Holds.beginAttach ..).orderly
  · exact refl s

theorem detach (discard : Bool) (r : Rec) (s : State) : Orderly s (s.detach discard r).state := by
  unfold State.detach
  split
  · exact refl s
  dsimp only
  split
  · exact refl s
  · exact (Holds.detachRegion ..).orderly

theorem mediaResume (r : Rec) (s : State) : Orderly s (s.mediaResume r).state := by
  unfold State.mediaResume
  split
  · exact refl s
  split
  · exact ((Holds.enterRegion ..).trans (Holds.runFlushes _)).orderly
  · exact refl s

theorem autoAttachAll (s : State) : Orderly s s.autoAttachAll := by
  refine (Holds.foldl (fun t g => ?_) ..).orderly
  unfold State.autoAttach
  split
  · exact Holds.beginAttach ..
  · exact Holds.refl t

/-! ### The loader (R170 to R172, R177) -/

theorem completeStart (s : State) : Orderly s s.completeStart := by
  have driven : Safe s (s.onPower PowerUnit.driveIdle) := Safe.elsewhere rfl
  have sensed := driven.trans (Safe.foldl Safe.beginSensing (List.finRange 4) _)
  have linked := (sensed.trans (Safe.takePhy .u _)).trans (Safe.takePhy .s _)
  unfold State.completeStart
  dsimp only
  exact ((((linked.trans (Safe.onLine ..)).trans (Safe.setPhase ..)).orderly.trans (autoAttachAll _)).trans (Safe.onLoader ..).orderly)

theorem loaderDone (ack : EepromAck) (s : State) : Orderly s (s.loaderDone ack) := by
  unfold State.loaderDone
  split
  · exact (Safe.loadTables ack s).orderly.trans (completeStart _)
  · exact refl s

theorem restartReloadDone (ack : EepromAck) (s : State) : Orderly s (s.restartReloadDone ack) := by
  unfold State.restartReloadDone
  split
  · dsimp only
    exact ((((Safe.loadTables ack s).trans (Safe.addMark ..)).trans (Safe.setPhase ..)).orderly.trans (autoAttachAll _)).trans
      (Safe.restarted _).orderly
  · exact refl s

end Orderly

end Sys2Proof.Machine
end

section
/-! The one case split over the commands, for the sum of R22, the order of the request queue and, but for the commands that serve
the media engine, the cache. -/

namespace Sys2Proof.Machine

/-! ### The commands that serve the media engine, but for the cache -/

namespace Safe

theorem transferIssue (s : State) : Safe s s.transferIssue := by
  refine of_cells ?_ (Holds.transferIssue s).cells
  have issued : Aside s (s.onMedia Media.issued) := .onMedia s rfl ⟨rfl, rfl, fun _ => rfl, fun _ => rfl, rfl, rfl⟩
  unfold State.transferIssue
  split
  · exact .refl s
  split
  · exact issued
  split
  · exact .refl s
  split
  · rename_i placed
    exact issued.trans (.placeOut placed)
  split
  · exact .refl s
  · exact (Aside.onMedia s rfl ⟨rfl, rfl, fun _ => rfl, fun _ => rfl, rfl, rfl⟩).trans (.onXfer ..)

theorem heldDeadline (k : Nat) (s : State) : Safe s (s.heldDeadline k) := by
  unfold State.heldDeadline
  split
  · exact refl s
  split
  · exact ((Serves.onBlk (u := none) s _).trans (Serves.endHeld ..)).safe
  · exact refl s

theorem stepPause (s : State) : Safe s s.stepPause := actThenNext s _ fun _ t => refl t

theorem stepReleaseS (s : State) : Safe s s.stepReleaseS := actThenNext s _ fun _ _ => elsewhere rfl

theorem stepMark (s : State) : Safe s s.stepMark := actThenNext s _ fun _ _ => addMark ..

theorem stepNotify (s : State) : Safe s s.stepNotify := actThenNext s _ fun _ _ => raiseNotice ..

theorem stepFail (s : State) : Safe s s.stepFail := act s _ fun _ _ => finishScript ..

theorem stepDrive (s : State) : Safe s s.stepDrive := act s _ presentDrive

theorem stepBootOpen (s : State) : Safe s s.stepBootOpen := actThenNext s _ fun _ _ => elsewhere rfl

theorem stepBootClose (s : State) : Safe s s.stepBootClose := actThenNext s _ fun _ _ => closeWindow ..

theorem ctsDeassert (s : State) : Safe s s.ctsDeassert := elsewhere rfl

theorem consoleBaudAuto (r : Rec) (s : State) : Safe s (s.consoleBaudAuto r).state := elsewhere rfl

theorem consoleMark (r : Rec) (s : State) : Safe s (s.consoleMark r).state := addMark ..

theorem consoleMarks (r : Rec) (s : State) : Safe s (s.consoleMarks r).state := refl s

theorem consoleFetch (r : Rec) (s : State) : Safe s (s.consoleFetch r).state := refl s

end Safe

namespace Orderly

theorem blkRead (s : State) : Orderly s s.blkRead := takeRequest s _ fun r => Holds.judged r s fun g => Holds.readRequest r g s

theorem blkWrite (s : State) : Orderly s s.blkWrite := takeRequest s _ fun r => Holds.judged r s fun g => Holds.writeRequest r g s

theorem blkInquire (s : State) : Orderly s s.blkInquire := takeRequest s _ fun r => Holds.judged r s fun g => Holds.inquireRequest r g s

theorem blkSync (s : State) : Orderly s s.blkSync := takeRequest s _ fun r => Holds.judged r s fun g => Holds.syncRequest r g s

theorem blkMalformed (s : State) : Orderly s s.blkMalformed := takeRequest s _ fun _ => Holds.answer ..

theorem imgInfo (s : State) : Orderly s s.imgInfo := takeAnswer s _ _ fun e t p => Holds.inquiryAnswered e t p s

theorem imgData (s : State) : Orderly s s.imgData := takeAnswer s _ _ fun e t p => Holds.dataAnswered e t p s

theorem imgWriteAck (s : State) : Orderly s s.imgWriteAck := takeAnswer s _ _ fun e t p => Holds.ackAnswered e t p s

theorem imgMalformedAnswer (s : State) : Orderly s s.imgMalformedAnswer := takeMedia s _ fun _ => Holds.onXfer ..

theorem resourceRescan (s : State) : Orderly s s.resourceRescan := (Holds.resourceRescan s).orderly

theorem transferDeadline (e : Fin 16) (s : State) : Orderly s (s.transferDeadline e) := (Holds.transferDeadline e s).orderly

end Orderly

/-! ### Every command -/

/-- The commands that change regions, transfers or lines of the cache. -/
def servesMedia : Instr → Bool
  | .loaderDone _ => true
  | .restartReloadDone _ => true
  | .mediaAttach => true
  | .mediaDetach => true
  | .mediaDetachDiscard => true
  | .mediaResume => true
  | .blkRead => true
  | .blkWrite => true
  | .blkInquire => true
  | .blkSync => true
  | .blkMalformed => true
  | .imgInfo => true
  | .imgData => true
  | .imgWriteAck => true
  | .imgMalformedAnswer => true
  | .resourceRescan => true
  | .transferDeadline _ => true
  | _ => false

/-- What a command keeps: the cache too, unless it serves the media engine. -/
structure Kept (media : Bool) (s t : State) : Prop where
  orderly : Orderly s t
  cache : media = false → CacheSound s.media → CacheSound t.media

theorem Safe.kept {b : Bool} {s t : State} (safe : Safe s t) : Kept b s t := ⟨safe.orderly, fun _ => safe.cache⟩

theorem Orderly.kept {s t : State} (orderly : Orderly s t) : Kept true s t := ⟨orderly, nofun⟩

theorem exec_kept (c : Instr) (s : State) : ∃ t, exec c s = .next t ∧ Kept (servesMedia c) s t := by
  cases c with
  | powerOn straps => exact ⟨_, rfl, (Safe.powerOn ..).kept⟩
  | loaderDone ack => exact ⟨_, rfl, (Orderly.loaderDone ack s).kept⟩
  | linkUp p speed => exact ⟨_, rfl, (Safe.linkUp p speed s).kept⟩
  | linkDown p => exact ⟨_, rfl, (Safe.linkDown p s).kept⟩
  | frameArrival p bytes fcsGood => exact ⟨_, rfl, (Safe.frameArrival p bytes fcsGood s).kept⟩
  | transmissionComplete p => exact ⟨_, rfl, (Safe.transmissionComplete p s).kept⟩
  | shaperWaitExpiry sh => exact ⟨_, rfl, (Safe.shaperWaitExpiry sh s).kept⟩
  | shaperBlockedRetry sh => exact ⟨_, rfl, (Safe.shaperBlockedRetry sh s).kept⟩
  | agentTakeFrame => exact ⟨_, rfl, (Safe.agentTakeFrame s).kept⟩
  | outQueueRetry => exact ⟨_, rfl, (Safe.outQueueRetry s).kept⟩
  | identify => exact ⟨_, rfl, (Safe.runRecord s _ fun _ t => .refl t).kept⟩
  | tableRead => exact ⟨_, rfl, (Safe.runRecord s _ Safe.tableRead).kept⟩
  | tableWriteUnknown => exact ⟨_, rfl, (Safe.runRecord s _ fun _ t => .refl t).kept⟩
  | tableWriteDomain => exact ⟨_, rfl, (Safe.runRecord s _ (Safe.tableWrite _)).kept⟩
  | tableWriteMgmtDomain => exact ⟨_, rfl, (Safe.runRecord s _ (Safe.tableWrite _)).kept⟩
  | tableWriteSteering => exact ⟨_, rfl, (Safe.runRecord s _ (Safe.tableWrite _)).kept⟩
  | tableWritePcpMap => exact ⟨_, rfl, (Safe.runRecord s _ (Safe.tableWrite _)).kept⟩
  | tableWritePort => exact ⟨_, rfl, (Safe.runRecord s _ (Safe.tableWrite _)).kept⟩
  | tableWriteMeter => exact ⟨_, rfl, (Safe.runRecord s _ (Safe.tableWrite _)).kept⟩
  | tableWriteMeterSettings => exact ⟨_, rfl, (Safe.runRecord s _ (Safe.tableWrite _)).kept⟩
  | tableWriteQueue => exact ⟨_, rfl, (Safe.runRecord s _ (Safe.tableWrite _)).kept⟩
  | tableWritePool => exact ⟨_, rfl, (Safe.runRecord s _ (Safe.tableWrite _)).kept⟩
  | tableWriteOperator => exact ⟨_, rfl, (Safe.runRecord s _ (Safe.tableWrite _)).kept⟩
  | tableWriteConsoleLine => exact ⟨_, rfl, (Safe.runRecord s _ (Safe.tableWrite _)).kept⟩
  | tableWriteConsoleHistory => exact ⟨_, rfl, (Safe.runRecord s _ (Safe.tableWrite _)).kept⟩
  | tableWritePattern => exact ⟨_, rfl, (Safe.runRecord s _ (Safe.tableWrite _)).kept⟩
  | tableWriteRegion => exact ⟨_, rfl, (Safe.runRecord s _ (Safe.tableWrite _)).kept⟩
  | tableWriteMediaParams => exact ⟨_, rfl, (Safe.runRecord s _ (Safe.tableWrite _)).kept⟩
  | tableWriteLine => exact ⟨_, rfl, (Safe.runRecord s _ (Safe.tableWrite _)).kept⟩
  | tableWriteSense => exact ⟨_, rfl, (Safe.runRecord s _ (Safe.tableWrite _)).kept⟩
  | tableWriteSenseTrigger => exact ⟨_, rfl, (Safe.runRecord s _ (Safe.tableWrite _)).kept⟩
  | tableWriteScriptDir => exact ⟨_, rfl, (Safe.runRecord s _ (Safe.tableWrite _)).kept⟩
  | tableWriteScriptStep => exact ⟨_, rfl, (Safe.runRecord s _ (Safe.tableWrite _)).kept⟩
  | recordUnknownType => exact ⟨_, rfl, (Safe.runRecord s _ fun _ t => .refl t).kept⟩
  | consoleBaud => exact ⟨_, rfl, (Safe.runRecord s _ Safe.consoleBaud).kept⟩
  | consoleBaudAuto => exact ⟨_, rfl, (Safe.runRecord s _ Safe.consoleBaudAuto).kept⟩
  | consoleClaim => exact ⟨_, rfl, (Safe.runRecord s _ fun _ t => Safe.claim _ t).kept⟩
  | consoleClaimForce => exact ⟨_, rfl, (Safe.runRecord s _ fun _ t => Safe.claim _ t).kept⟩
  | consoleRelease => exact ⟨_, rfl, (Safe.runRecord s _ Safe.consoleRelease).kept⟩
  | consoleType => exact ⟨_, rfl, (Safe.runRecord s _ Safe.consoleType).kept⟩
  | consoleBreak => exact ⟨_, rfl, (Safe.runRecord s _ Safe.consoleBreak).kept⟩
  | consoleMark => exact ⟨_, rfl, (Safe.runRecord s _ Safe.consoleMark).kept⟩
  | consoleMarks => exact ⟨_, rfl, (Safe.runRecord s _ Safe.consoleMarks).kept⟩
  | consoleArm => exact ⟨_, rfl, (Safe.runRecord s _ Safe.consoleArm).kept⟩
  | consoleWatch => exact ⟨_, rfl, (Safe.runRecord s _ Safe.consoleWatch).kept⟩
  | consoleUnwatch => exact ⟨_, rfl, (Safe.runRecord s _ Safe.consoleUnwatch).kept⟩
  | consoleFetch => exact ⟨_, rfl, (Safe.runRecord s _ Safe.consoleFetch).kept⟩
  | mediaAttach => exact ⟨_, rfl, (Orderly.runRecord s _ Orderly.mediaAttach).kept⟩
  | mediaDetach => exact ⟨_, rfl, (Orderly.runRecord s _ (Orderly.detach _)).kept⟩
  | mediaDetachDiscard => exact ⟨_, rfl, (Orderly.runRecord s _ (Orderly.detach _)).kept⟩
  | mediaResume => exact ⟨_, rfl, (Orderly.runRecord s _ Orderly.mediaResume).kept⟩
  | mediaStatus => exact ⟨_, rfl, (Safe.runRecord s _ Safe.mediaStatus).kept⟩
  | powerRequest => exact ⟨_, rfl, (Safe.runRecord s _ Safe.powerRequest).kept⟩
  | powerCancelRunning => exact ⟨_, rfl, (Safe.runRecord s _ Safe.cancelRunning).kept⟩
  | powerCancelQueued => exact ⟨_, rfl, (Safe.runRecord s _ Safe.cancelQueued).kept⟩
  | powerStatus => exact ⟨_, rfl, (Safe.runRecord s _ fun _ t => .refl t).kept⟩
  | lineStatus => exact ⟨_, rfl, (Safe.runRecord s _ fun _ t => .refl t).kept⟩
  | timeSet => exact ⟨_, rfl, (Safe.runRecord s _ Safe.timeSet).kept⟩
  | statsRead => exact ⟨_, rfl, (Safe.runRecord s _ (Safe.statsRead _)).kept⟩
  | statsReadClear => exact ⟨_, rfl, (Safe.runRecord s _ (Safe.statsRead _)).kept⟩
  | store => exact ⟨_, rfl, (Safe.runRecord s _ Safe.storeImage).kept⟩
  | storeComplete agreed => exact ⟨_, rfl, (Safe.storeComplete agreed s).kept⟩
  | restart => exact ⟨_, rfl, (Safe.runRestart s _ _).kept⟩
  | restartForce => exact ⟨_, rfl, (Safe.runRestart s _ _).kept⟩
  | restartBegin => exact ⟨_, rfl, (Safe.restartBegin s).kept⟩
  | restartReloadDone ack => exact ⟨_, rfl, (Orderly.restartReloadDone ack s).kept⟩
  | rxCharacter samples rose => exact ⟨_, rfl, (Safe.rxCharacter samples rose s).kept⟩
  | breakDetected => exact ⟨_, rfl, (Safe.breakDetected s).kept⟩
  | breakInEnd => exact ⟨_, rfl, (Safe.breakInEnd s).kept⟩
  | autobaudInterval cycles => exact ⟨_, rfl, (Safe.autobaudInterval cycles s).kept⟩
  | autobaudOverflow => exact ⟨_, rfl, (Safe.autobaudOverflow s).kept⟩
  | autobaudTimeout => exact ⟨_, rfl, (Safe.autobaudTimeout s).kept⟩
  | txCharacterDone => exact ⟨_, rfl, (Safe.txCharacterDone s).kept⟩
  | breakOutEnd => exact ⟨_, rfl, (Safe.breakOutEnd s).kept⟩
  | breakGapEnd => exact ⟨_, rfl, (Safe.breakGapEnd s).kept⟩
  | ctsAssert => exact ⟨_, rfl, (Safe.ctsAssert s).kept⟩
  | consoleIdleExpiry => exact ⟨_, rfl, (Safe.releaseIfIdle s).kept⟩
  | pushDelayExpiry w => exact ⟨_, rfl, (Safe.pushDelayExpiry w s).kept⟩
  | epochAnchorAdvance => exact ⟨_, rfl, (Safe.epochAnchorAdvance s).kept⟩
  | blkRead => exact ⟨_, rfl, (Orderly.blkRead s).kept⟩
  | blkWrite => exact ⟨_, rfl, (Orderly.blkWrite s).kept⟩
  | blkInquire => exact ⟨_, rfl, (Orderly.blkInquire s).kept⟩
  | blkSync => exact ⟨_, rfl, (Orderly.blkSync s).kept⟩
  | blkMalformed => exact ⟨_, rfl, (Orderly.blkMalformed s).kept⟩
  | imgInfo => exact ⟨_, rfl, (Orderly.imgInfo s).kept⟩
  | imgData => exact ⟨_, rfl, (Orderly.imgData s).kept⟩
  | imgWriteAck => exact ⟨_, rfl, (Orderly.imgWriteAck s).kept⟩
  | imgMalformedAnswer => exact ⟨_, rfl, (Orderly.imgMalformedAnswer s).kept⟩
  | transferIssue => exact ⟨_, rfl, (Safe.transferIssue s).kept⟩
  | transferDeadline e => exact ⟨_, rfl, (Orderly.transferDeadline e s).kept⟩
  | resourceRescan => exact ⟨_, rfl, (Orderly.resourceRescan s).kept⟩
  | heldDeadline k => exact ⟨_, rfl, (Safe.heldDeadline k s).kept⟩
  | scriptDelayExpiry => exact ⟨_, rfl, (Safe.scriptDelayExpiry s).kept⟩
  | stepPause => exact ⟨_, rfl, (Safe.stepPause s).kept⟩
  | stepBootOpen => exact ⟨_, rfl, (Safe.stepBootOpen s).kept⟩
  | stepBootClose => exact ⟨_, rfl, (Safe.stepBootClose s).kept⟩
  | stepHoldS => exact ⟨_, rfl, (Safe.stepHoldS s).kept⟩
  | stepReleaseS => exact ⟨_, rfl, (Safe.stepReleaseS s).kept⟩
  | stepMark => exact ⟨_, rfl, (Safe.stepMark s).kept⟩
  | stepNotify => exact ⟨_, rfl, (Safe.stepNotify s).kept⟩
  | stepFail => exact ⟨_, rfl, (Safe.stepFail s).kept⟩
  | stepDrive => exact ⟨_, rfl, (Safe.stepDrive s).kept⟩
  | stepCall => exact ⟨_, rfl, (Safe.stepCall s).kept⟩
  | stepEnd => exact ⟨_, rfl, (Safe.stepEnd s).kept⟩
  | awaitTimeout => exact ⟨_, rfl, (Safe.awaitTimeout s).kept⟩
  | guardWaitExpiry => exact ⟨_, rfl, (Safe.guardWaitExpiry s).kept⟩
  | bootWindowExpiry => exact ⟨_, rfl, (Safe.bootWindowExpiry s).kept⟩
  | senseRawChange k level => exact ⟨_, rfl, (Safe.senseRawChange k level s).kept⟩
  | senseChangeDue k => exact ⟨_, rfl, (Safe.senseChangeDue k s).kept⟩
  | senseEstablishmentDue k => exact ⟨_, rfl, (Safe.senseEstablishmentDue k s).kept⟩
  | rxdFallingEdge => exact ⟨_, rfl, (Safe.rxdFallingEdge s).kept⟩
  | falseStart => exact ⟨_, rfl, (Safe.falseStart s).kept⟩
  | ctsDeassert => exact ⟨_, rfl, (Safe.ctsDeassert s).kept⟩
  | powerLoss => exact ⟨_, rfl, (Safe.powerOn ..).kept⟩

theorem orderly_of_exec {c : Instr} {s t : State} (ran : exec c s = .next t) : Orderly s t := by
  obtain ⟨u, same, kept⟩ := exec_kept c s
  rw [ran] at same
  cases same
  exact kept.orderly

theorem Safe.tick (s : State) : Safe s s.tick := by
  unfold State.tick
  split
  · exact refl s
  · refine Safe.trans (t := s.onClock fun c => { c with now := c.now + 1 }) (elsewhere rfl) ?_
    unfold State.startSampled
    split
    · split
      · exact elsewhere rfl
      · exact refl _
    · exact refl _

/-- Settles O5: the tick and every command keep the capacities, and leave every cell in one place. -/
theorem stepKeepsCapacities : Obligations.StepKeepsCapacities :=
  ⟨fun _ _ => step_keeps (fun _ _ h => { h with }) (fun s => (Keeps.tick s).sound.caps) fun _ _ _ h ran => (sound_of_exec ran).caps h,
    fun _ _ => step_keeps (fun _ _ h => { h with }) (fun s => (Safe.tick s).cells) fun _ _ _ h ran => (orderly_of_exec ran).cells h⟩

/-- Settles O8: the tick and every command keep PORT_S held with a script, and the request queue by priority. -/
theorem stepKeepsHoldWithScript : Obligations.StepKeepsHoldWithScript :=
  ⟨fun _ _ => step_keeps (fun _ _ h => h) (fun s => (Keeps.tick s).sound.hold) fun _ _ _ h ran => (sound_of_exec ran).hold h,
    fun _ _ => step_keeps (fun _ _ h => h) (fun s => (Safe.tick s).requests) fun _ _ _ h ran => (orderly_of_exec ran).requests h⟩

end Sys2Proof.Machine
end

section
/-! Transfer entries taken and freed, lines changed in place, and regions that change state, in the sector cache (R97, R116, R118,
R121, R133). -/

namespace Sys2Proof.Machine

section
variable {u : Option (Fin 4)} {m m' : Media} {e : Fin 16}

/-! ### The entry of a line -/

/-- No line is covered by the entry. -/
def Media.Uncovered (m : Media) (e : Fin 16) : Prop := ∀ l ∈ m.lines, l.coveredBy e = false

theorem CacheBut.covered (but : CacheBut u m) {l : CacheLine} (member : l ∈ m.lines) (covered : l.coveredBy e = true) :
    ∃ t, (m.table[e]).use = some t ∧ t.Covers l ∧ (t.kind = .fetch ∧ l.cond = .filling e ∨ t.kind = .flush ∧ l.cond ≠ .filling e) := by
  rcases coveredBy_iff.mp covered with filling | flushing
  · obtain ⟨t, use, kind, covers, -⟩ := (but.carried l member).filling e filling
    exact ⟨t, use, covers, .inl ⟨kind, filling⟩⟩
  · obtain ⟨t, use, kind, covers⟩ := (but.carried l member).flushing e flushing
    exact ⟨t, use, covers, .inr ⟨kind, by rcases flushing with h | h <;> rw [h] <;> nofun⟩⟩

theorem CacheBut.uncovered_of (but : CacheBut u m)
    (other : ∀ t, (m.table[e]).use = some t → t.kind ≠ .fetch ∧ t.kind ≠ .flush) : m.Uncovered e := fun l member => by
  refine Classical.byContradiction fun covered => ?_
  obtain ⟨t, use, -, ⟨kind, -⟩ | ⟨kind, -⟩⟩ := but.covered member (by simpa using covered)
  · exact (other t use).1 kind
  · exact (other t use).2 kind

theorem CacheBut.uncovered_of_free (but : CacheBut u m) (free : (m.table[e]).use = none) : m.Uncovered e :=
  but.uncovered_of fun _ use => nomatch free.symm.trans use

/-! ### Entries freed -/

/-- Entries that cover no line end. -/
theorem CacheBut.freeUncovered (but : CacheBut u m) (lines : m'.lines = m.lines) (order : m'.dirtyOrder = m.dirtyOrder)
    (regions : m'.regions = m.regions) (held : m'.held = m.held) (waiting : m'.waitingInquiries.Sublist m.waitingInquiries)
    (table : ∀ e : Fin 16, (m'.table[e]).use = (m.table[e]).use ∨ (m'.table[e]).use = none ∧ m.Uncovered e) : CacheBut u m' := by
  refine but.shrink (.of_eq lines) (sublist_of_eq order) (fun g x => ?_) (fun l member => ?_)
    (.of_undated fun e => (table e).symm.imp (·.1) fun same => by rw [same]) (fun g => by rw [regions])
    (fun h member => ⟨h, held ▸ member, rfl⟩) waiting
  · rw [order, lines]
    exact but.dirtyListed g x
  · rw [lines] at member
    refine carries_of_same (but.carried l member) fun e covered => ?_
    rcases table e with same | ⟨-, uncovered⟩
    · rw [same]
    · exact nomatch (uncovered l member).symm.trans covered

theorem CacheBut.freeEntry {s : State} (but : CacheBut u s.media) (uncovered : s.media.Uncovered e) :
    CacheBut u (s.freeEntry e).media := by
  refine but.freeUncovered rfl rfl rfl rfl (.refl _) fun d => ?_
  show ((s.media.table.set e _)[d]).use = _ ∨ _
  rw [getElem_set_if]
  split
  · rename_i same
    subst same
    exact .inr ⟨by show ((s.media.table.set e _)[e]).use = none; rw [getElem_set_if, if_pos rfl], uncovered⟩
  · exact .inl rfl

/-! ### Entries taken -/

theorem countP_le_of_others {p q : Fin 16 → Bool} (e : Fin 16) (others : ∀ d, d ≠ e → q d = true → p d = true) :
    (List.finRange 16).countP q ≤ (List.finRange 16).countP p + if q e = true then 1 else 0 := by
  by_cases here : q e = true
  · rw [if_pos here]
    have sub : (List.finRange 16).filter q ⊆ e :: (List.finRange 16).filter p := fun d member => by
      obtain ⟨within, is⟩ := List.mem_filter.mp member
      rcases Decidable.em (d = e) with rfl | other
      · exact List.mem_cons_self
      · exact List.mem_cons_of_mem e (List.mem_filter.mpr ⟨within, others d other is⟩)
    rw [List.countP_eq_length_filter, List.countP_eq_length_filter]
    exact List.Nodup.length_le_of_subset ((List.nodup_finRange 16).filter q) sub
  · rw [if_neg here]
    refine List.countP_mono_left fun d _ is => others d (fun same => here (same ▸ is)) is

/-- A table with one more transfer. -/
theorem table_use_set {table : Vector TransferEntry 16} {gen : Byte} {t : Transfer} (e d : Fin 16) :
    ((table.set e ⟨gen, some t⟩)[d]).use = if e = d then some t else (table[d]).use := by
  rw [getElem_set_if]
  split <;> rfl

theorem inUse_le_of_set {t : Transfer} {gen : Byte} (table : m'.table = m.table.set e ⟨gen, some t⟩) (k : TransferKind) :
    m'.inUse k ≤ m.inUse k + if t.kind = k then 1 else 0 := by
  rw [inUse_eq, inUse_eq, table]
  refine Nat.le_trans (countP_le_of_others e fun d other is => ?_) (Nat.add_le_add_left ?_ _)
  · rwa [table_use_set, if_neg (Ne.symm other)] at is
  · rw [table_use_set, if_pos rfl]
    simp

theorem entriesOf_le_of_set {t : Transfer} {gen : Byte} (table : m'.table = m.table.set e ⟨gen, some t⟩) (g : Fin 4) (k : TransferKind) :
    (m'.entriesOf g (· == k)).length ≤ (m.entriesOf g (· == k)).length + if t.region = g ∧ t.kind = k then 1 else 0 := by
  rw [entriesOf_eq, entriesOf_eq, ← List.countP_eq_length_filter, ← List.countP_eq_length_filter, table]
  refine Nat.le_trans (countP_le_of_others e fun d other is => ?_) (Nat.add_le_add_left ?_ _)
  · rwa [table_use_set, if_neg (Ne.symm other)] at is
  · rw [table_use_set, if_pos rfl]
    simp

/-- A free entry takes a transfer. -/
theorem CacheBut.pledge {t : Transfer} {gen : Byte} (but : CacheBut u m) (free : (m.table[e]).use = none)
    (table : m'.table = m.table.set e ⟨gen, some t⟩) (lines : m'.lines = m.lines) (order : m'.dirtyOrder = m.dirtyOrder)
    (regions : m'.regions = m.regions) (held : m'.held = m.held) (fetches : t.kind = .fetch → m.inUse .fetch < 12)
    (inquiries : ∀ g, (m.entriesOf g (· == .inquire)).length + (if t.region = g ∧ t.kind = .inquire then 1 else 0) +
      m'.waitingInquiries.count g ≤ if (m.regions[g]).state = .attaching then 1 else 0) : CacheBut u m' where
  lines := by
    unfold OneLineEach
    rw [lines]
    exact but.lines
  dirtyOnce := order ▸ but.dirtyOnce
  dirtyListed g x := by
    rw [order, lines]
    exact but.dirtyListed g x
  dirtyLimit := by
    unfold Media.dirtyCount
    rw [lines]
    exact but.dirtyLimit
  carried l member := by
    rw [lines] at member
    refine carries_of_same (but.carried l member) fun d covered => ?_
    have other : e ≠ d := fun same => nomatch (but.uncovered_of_free (same ▸ free) l member).symm.trans covered
    rw [table, table_use_set, if_neg other]
  lineRegions l member := by
    rw [regions]
    exact but.lineRegions l (lines ▸ member)
  held h member := by
    rw [regions]
    exact but.held h (held ▸ member)
  fetches := by
    have bound := inUse_le_of_set (m := m) table .fetch
    have before := but.fetches
    split at bound
    · rename_i kind
      have := fetches kind
      omega
    · omega
  inquiries g := by
    rw [regions]
    exact Nat.le_trans (Nat.add_le_add_right (entriesOf_le_of_set table g .inquire) _) (inquiries g)

/-- A FETCH or a FLUSH takes a free entry (R121). -/
theorem CacheBut.allocate {s : State} {k : TransferKind} {g : Fin 4} {first count : Nat} (but : CacheBut u s.media)
    (free : (s.media.table[e]).use = none) (other : k ≠ .inquire) (fetches : k = .fetch → s.media.inUse .fetch < 12) :
    CacheBut u (s.allocate k g first count e).media := by
  refine but.pledge (t := ⟨k, g, first, count, [], 1, none⟩) free rfl rfl rfl rfl rfl fetches fun h => ?_
  rw [if_neg fun both => other both.2]
  exact but.inquiries h

/-! ### Lines changed in place -/

/-- Lines take other states, and transfers answers, where the dirty order follows. -/
theorem CacheBut.relabel {f : CacheLine → CacheLine} (but : CacheBut u m) (lines : m'.lines = m.lines.map f)
    (keys : ∀ l, (f l).region = l.region ∧ (f l).sector = l.sector)
    (dirty : ∀ l ∈ m.lines, (f l).cond.isDirty = true → l.cond.isDirty = true) (once : m'.dirtyOrder.Nodup)
    (listed : ∀ g x, (g, x) ∈ m'.dirtyOrder ↔ ∃ l ∈ m.lines, l.region = g ∧ l.sector = x ∧ (f l).cond = .dirty)
    (carried : ∀ l ∈ m.lines, m'.Carries (f l)) (fewer : FewerUses m m') (regions : m'.regions = m.regions)
    (held : m'.held = m.held) (waiting : m'.waitingInquiries = m.waitingInquiries) : CacheBut u m' where
  lines := by
    unfold OneLineEach
    rw [lines, map_keys keys]
    exact but.lines
  dirtyOnce := once
  dirtyListed g x := by
    rw [listed, lines]
    constructor
    · rintro ⟨l, member, region, sector, cond⟩
      exact ⟨f l, List.mem_map_of_mem member, (keys l).1.trans region, (keys l).2.trans sector, cond⟩
    · rintro ⟨k, member, region, sector, cond⟩
      obtain ⟨l, there, rfl⟩ := List.mem_map.mp member
      exact ⟨l, there, (keys l).1.symm.trans region, (keys l).2.symm.trans sector, cond⟩
  dirtyLimit := by
    refine Nat.le_trans ?_ but.dirtyLimit
    unfold Media.dirtyCount
    rw [lines, List.countP_map]
    exact List.countP_mono_left fun l member => dirty l member
  carried k member := by
    rw [lines] at member
    obtain ⟨l, there, rfl⟩ := List.mem_map.mp member
    exact carried l there
  lineRegions k member := by
    rw [lines] at member
    obtain ⟨l, there, rfl⟩ := List.mem_map.mp member
    have allowed : ∀ r, r = l.region → (m.regions[r]).state ≠ .detached ∧ (m.regions[r]).state ≠ .attaching := by
      rintro _ rfl
      exact but.lineRegions l there
    rw [regions]
    exact allowed _ (keys l).1
  held h member := by
    rw [regions]
    exact but.held h (held ▸ member)
  fetches := Nat.le_trans (inUse_le_of_fewer fewer _) but.fetches
  inquiries g := by
    rw [regions]
    refine Nat.le_trans ?_ (but.inquiries g)
    unfold Media.inquiriesOf
    rw [waiting]
    exact Nat.add_le_add_right (entriesOf_le_of_fewer fewer g _) _

/-! ### Regions -/

/-- A region changes state. -/
theorem CacheBut.restate {v : Option (Fin 4)} {g : Fin 4} {st : RegionState} (but : CacheBut u m) (lines : m'.lines = m.lines)
    (order : m'.dirtyOrder = m.dirtyOrder) (table : m'.table = m.table) (held : m'.held = m.held)
    (waiting : m'.waitingInquiries = m.waitingInquiries)
    (states : ∀ d : Fin 4, (m'.regions[d]).state = if d = g then st else (m.regions[d]).state)
    (empty : st = .detached ∨ st = .attaching → ∀ l ∈ m.lines, l.region ≠ g)
    (holders : ∀ h ∈ m.held, some h.unit = v ∨ (if h.unit = g then st else (m.regions[h.unit]).state) = .attached)
    (inquiries : m.inquiriesOf g ≤ if st = .attaching then 1 else 0) : CacheBut v m' where
  lines := by
    unfold OneLineEach
    rw [lines]
    exact but.lines
  dirtyOnce := order ▸ but.dirtyOnce
  dirtyListed g x := by
    rw [order, lines]
    exact but.dirtyListed g x
  dirtyLimit := by
    unfold Media.dirtyCount
    rw [lines]
    exact but.dirtyLimit
  carried l member := by
    rw [lines] at member
    exact carries_of_same (but.carried l member) fun d _ => by rw [table]
  lineRegions l member := by
    rw [lines] at member
    rw [states]
    split
    · rename_i here
      exact ⟨fun out => empty (.inl out) l member here, fun out => empty (.inr out) l member here⟩
    · exact but.lineRegions l member
  held h member := by
    rw [states]
    exact holders h (held ▸ member)
  fetches := by
    rw [inUse_eq, table, ← inUse_eq]
    exact but.fetches
  inquiries d := by
    have same : m'.inquiriesOf d = m.inquiriesOf d := by
      unfold Media.inquiriesOf
      rw [waiting, entriesOf_eq, entriesOf_eq, table]
    rw [same, states]
    split
    · rename_i here
      rw [here]
      exact inquiries
    · exact but.inquiries d

end

end Sys2Proof.Machine
end

section
/-! A line had, and a fill ensured, in the sector cache (R25, R118, R119). -/

namespace Sys2Proof.Machine

/-! ### A line is had (R25) -/

theorem obtainLine_media (s : State) : s.obtainLine.2.media = s.media ∨ ∃ l ∈ s.media.lines, l.cond = .clean ∧
    s.obtainLine.2.media = { s.media with lines := s.media.lines.filter fun x => !x.isFor l.region l.sector } := by
  unfold State.obtainLine
  split
  · exact .inl rfl
  split
  · rename_i l found
    obtain ⟨member, clean⟩ := evictee_clean found
    exact .inr ⟨l, member, clean, rfl⟩
  · exact .inl rfl

section
variable {u : Option (Fin 4)} {m : Media} {s : State} {g : Fin 4} {e : Fin 16} {x k : Nat}

theorem CacheBut.evict (but : CacheBut u m) {l : CacheLine} (member : l ∈ m.lines) (clean : l.cond = .clean) :
    CacheBut u { m with lines := m.lines.filter fun x => !x.isFor l.region l.sector } :=
  CacheBut.dropClean (s := State.reset.onMedia fun _ => m) but member clean

/-! ### A FETCH to be (R119) -/

/-- The table with a FETCH of the sectors from `x` on. -/
def Media.withFetch (m : Media) (e : Fin 16) (g : Fin 4) (x k : Nat) : Media :=
  { m with table := m.table.set e ⟨(m.table[e]).gen + 1, some ⟨.fetch, g, x, k, [], 1, none⟩⟩ }

theorem withFetch_use (e d : Fin 16) : ((m.withFetch e g x k).table[d]).use =
    if e = d then some ⟨.fetch, g, x, k, [], 1, none⟩ else (m.table[d]).use := table_use_set e d

theorem CacheBut.withFetch (but : CacheBut u m) (free : (m.table[e]).use = none) (few : m.inUse .fetch < 12) :
    CacheBut u (m.withFetch e g x 0) := by
  refine but.pledge (t := ⟨.fetch, g, x, 0, [], 1, none⟩) free rfl rfl rfl rfl rfl (fun _ => few) fun h => ?_
  rw [if_neg fun both => nomatch both.2]
  exact but.inquiries h

/-- A FETCH of no sector covers no line. -/
theorem CacheBut.withoutFetch (but : CacheBut u (m.withFetch e g x 0)) (free : (m.table[e]).use = none) : CacheBut u m := by
  refine but.freeUncovered rfl rfl rfl rfl (.refl _) fun d => ?_
  rw [withFetch_use]
  split
  · rename_i same
    subst same
    refine .inr ⟨free, fun l member => ?_⟩
    refine Classical.byContradiction fun covered => ?_
    obtain ⟨t, use, ⟨-, first, last⟩, -⟩ := but.covered member (by simpa using covered)
    rw [withFetch_use, if_pos rfl] at use
    obtain rfl := Option.some.inj use
    dsimp only at first last
    omega
  · exact .inl rfl

/-- The next sector's line enters, FILLING. -/
theorem CacheBut.enterFilling (but : CacheBut u (m.withFetch e g x k)) (missing : ∀ l ∈ m.lines, l.isFor g (x + k) = false)
    (serving : (m.regions[g]).state ≠ .detached ∧ (m.regions[g]).state ≠ .attaching) :
    CacheBut u (Media.withFetch { m with lines := m.lines ++ [⟨g, x + k, .filling e, []⟩] } e g x (k + 1)) where
  lines := by
    show ((m.lines ++ [_]).map fun l : CacheLine => (l.region, l.sector)).Nodup
    rw [List.map_append, List.map_singleton, List.nodup_append]
    refine ⟨but.lines, List.pairwise_singleton _ _, fun a old b new same => ?_⟩
    obtain ⟨l, member, rfl⟩ := List.mem_map.mp old
    obtain rfl := List.mem_singleton.mp new
    obtain ⟨region, sector⟩ := Prod.mk.inj same
    exact nomatch (missing l member).symm.trans (isFor_iff.mpr ⟨region, sector⟩)
  dirtyOnce := but.dirtyOnce
  dirtyListed h y := by
    refine (but.dirtyListed h y).trans ⟨fun ⟨l, member, is⟩ => ⟨l, List.mem_append_left _ member, is⟩, fun ⟨l, member, is⟩ => ?_⟩
    rcases List.mem_append.mp member with old | new
    · exact ⟨l, old, is⟩
    · obtain rfl := List.mem_singleton.mp new
      exact nomatch is.2.2
  dirtyLimit := by
    show (m.lines ++ [_]).countP _ ≤ 256
    rw [List.countP_append, List.countP_singleton]
    exact but.dirtyLimit
  carried l member := by
    rcases List.mem_append.mp member with old | new
    · refine ⟨fun d filling => ?_, fun d flushing => ?_⟩
      · obtain ⟨t, use, kind, covers, fresh⟩ := (but.carried l old).filling d filling
        rw [withFetch_use] at use ⊢
        by_cases same : e = d
        · rw [if_pos same] at use ⊢
          obtain rfl := Option.some.inj use
          obtain ⟨region, first, last⟩ := covers
          exact ⟨_, rfl, rfl, ⟨region, first, Nat.lt_succ_of_lt last⟩, fresh⟩
        · rw [if_neg same] at use ⊢
          exact ⟨t, use, kind, covers, fresh⟩
      · obtain ⟨t, use, kind, covers⟩ := (but.carried l old).flushing d flushing
        rw [withFetch_use] at use ⊢
        by_cases same : e = d
        · rw [if_pos same] at use
          obtain rfl := Option.some.inj use
          exact nomatch kind
        · rw [if_neg same] at use ⊢
          exact ⟨t, use, kind, covers⟩
    · obtain rfl := List.mem_singleton.mp new
      refine ⟨fun d filling => ?_, fun d flushing => by rcases flushing with h | h <;> exact nomatch h⟩
      obtain rfl := LineCond.filling.inj filling
      refine ⟨⟨.fetch, g, x, k + 1, [], 1, none⟩, by rw [withFetch_use, if_pos rfl], rfl, ⟨rfl, ?_, ?_⟩, List.not_mem_nil⟩
      · dsimp only
        omega
      · dsimp only
        omega
  lineRegions l member := by
    rcases List.mem_append.mp member with old | new
    · exact but.lineRegions l old
    · obtain rfl := List.mem_singleton.mp new
      exact serving
  held := but.held
  fetches := by
    refine Nat.le_trans (Nat.le_of_eq ?_) but.fetches
    rw [inUse_eq, inUse_eq]
    refine List.countP_congr fun d _ => ?_
    rw [withFetch_use, withFetch_use]
    split <;> exact .rfl
  inquiries h := by
    refine Nat.le_trans (Nat.add_le_add_right (Nat.le_of_eq ?_) _) (but.inquiries h)
    rw [entriesOf_eq, entriesOf_eq]
    refine congrArg List.length (List.filter_congr fun d _ => ?_)
    rw [withFetch_use, withFetch_use]
    split <;> rfl

/-! ### The lines of a fill (R119) -/

/-- What a fill leaves of the media engine but for the lines. -/
theorem fillLines_media (g : Fin 4) (e : Fin 16) (xs : List Nat) (s : State) :
    ∃ ls, (s.fillLines g e xs).2.media = { s.media with lines := ls } := by
  induction xs generalizing s with
  | nil => exact ⟨_, rfl⟩
  | cons x xs ih =>
    have obtained : ∃ ls, s.obtainLine.2.media = { s.media with lines := ls } := by
      rcases obtainLine_media s with same | ⟨l, -, -, same⟩
      · exact ⟨s.media.lines, same⟩
      · exact ⟨_, same⟩
    unfold State.fillLines
    cases granted : s.obtainLine with
    | mk had t =>
      rw [granted] at obtained
      obtain ⟨ls, media⟩ := obtained
      cases had with
      | false => exact ⟨ls, media⟩
      | true =>
        obtain ⟨ls', media'⟩ := ih (t.addLine ⟨g, x, .filling e, []⟩)
        refine ⟨ls', media'.trans ?_⟩
        show ({ t.media with lines := ls' } : Media) = _
        rw [media]

theorem CacheBut.fillLines (n : Nat) (but : CacheBut u (s.media.withFetch e g x k))
    (serving : (s.media.regions[g]).state ≠ .detached ∧ (s.media.regions[g]).state ≠ .attaching)
    (missing : ∀ y ∈ List.range' (x + k) n, s.Missing g y) :
    CacheBut u ((s.fillLines g e (List.range' (x + k) n)).2.media.withFetch e g x
      (k + (s.fillLines g e (List.range' (x + k) n)).1.length)) := by
  induction n generalizing s k with
  | zero => exact but
  | succ n ih =>
    rw [List.range'_succ] at missing ⊢
    have had : CacheBut u (s.obtainLine.2.media.withFetch e g x k) := by
      rcases obtainLine_media s with same | ⟨l, member, clean, same⟩
      · rw [same]
        exact but
      · rw [same]
        exact but.evict member clean
    have states : s.obtainLine.2.media.regions = s.media.regions := by
      rcases obtainLine_media s with same | ⟨l, -, -, same⟩ <;> rw [same]
    have here : s.obtainLine.2.Missing g (x + k) := fun l member =>
      missing _ List.mem_cons_self l ((obtainLine_lines s).subset member)
    have still : ∀ y ∈ List.range' (x + k + 1) n, (s.obtainLine.2.addLine ⟨g, x + k, .filling e, []⟩).Missing g y := fun y member =>
      missing_enter (missing y (List.mem_cons_of_mem _ member)) (by
        have := (List.mem_range'_1.mp member).1
        omega)
    rw [← states] at serving
    unfold State.fillLines
    cases granted : s.obtainLine with
    | mk got t =>
      rw [granted] at had serving here still
      cases got with
      | false => exact had
      | true =>
        have filled := ih (s := t.addLine ⟨g, x + k, .filling e, []⟩) (k := k + 1) (had.enterFilling here serving) serving still
        dsimp only
        rw [List.length_cons, Nat.add_comm (List.length _) 1, ← Nat.add_assoc]
        exact filled

theorem runFrom_eq_range' (m : Media) (g : Fin 4) (limit fuel x : Nat) : ∃ n, m.runFrom g x limit fuel = List.range' x n := by
  induction fuel generalizing x with
  | zero => exact ⟨0, rfl⟩
  | succ fuel ih =>
    unfold Media.runFrom
    split
    · obtain ⟨n, run⟩ := ih (x + 1)
      exact ⟨n + 1, by rw [run, List.range'_succ]⟩
    · exact ⟨0, rfl⟩

/-! ### A fill ensured (R118) -/

theorem ensureFill_media (g : Fin 4) (x : Nat) (s : State) : ∃ ls tb iss xfer, (s.ensureFill g x).2.media = { s.media with
    lines := ls, table := tb, issue := iss, xfer := xfer } := by
  unfold State.ensureFill
  split
  · exact ⟨_, _, _, _, rfl⟩
  dsimp only
  split
  · exact ⟨_, _, _, _, rfl⟩
  split
  · exact ⟨_, _, _, _, rfl⟩
  · rename_i e _ _
    obtain ⟨ls, filled⟩ := fillLines_media g e (s.media.runFrom g x (runEnd (s.media.regions[g]).cfg.prefetch (s.media.regions[g]).sectors x)
      (s.media.regions[g]).cfg.prefetch) s
    generalize s.fillLines g e _ = r at filled
    split
    · refine ⟨ls, s.media.table, s.media.issue, ?_, ?_⟩
      rotate_left
      · show ({ r.2.media with xfer := _ } : Media) = _
        rw [filled]
    · refine ⟨ls, ?_, ?_, ?_, ?_⟩
      rotate_left 3
      · show ({ r.2.media with table := _, issue := _, xfer := _ } : Media) = _
        rw [filled]

theorem CacheBut.ensureFill (but : CacheBut u s.media)
    (serving : (s.media.regions[g]).state ≠ .detached ∧ (s.media.regions[g]).state ≠ .attaching) :
    CacheBut u (s.ensureFill g x).2.media := by
  have deferred : ∀ {t : State}, CacheBut u t.media → CacheBut u t.deferFill.media := fun {t} but => but.same (Aside.onXfer t _).cache
  unfold State.ensureFill
  split
  · exact but
  dsimp only
  split
  · exact deferred but
  rename_i e entry
  split
  · exact deferred but
  · rename_i few
    obtain ⟨free, -⟩ := freeEntry_eq_some_iff.mp entry
    have missing := (Holds.runFrom_missing (m := s.media) (g := g)
      (limit := runEnd (s.media.regions[g]).cfg.prefetch (s.media.regions[g]).sectors x) (s.media.regions[g]).cfg.prefetch x).2
    obtain ⟨n, run⟩ := runFrom_eq_range' s.media g (runEnd (s.media.regions[g]).cfg.prefetch (s.media.regions[g]).sectors x)
      (s.media.regions[g]).cfg.prefetch x
    rw [run] at missing ⊢
    have filled := CacheBut.fillLines (k := 0) (x := x) n (but.withFetch (e := e) (g := g) free (by simpa [Config.fetchLimit] using few)) serving fun y member =>
      missing_of_findLine (by rw [(missing y member).2]; exact Bool.false_ne_true)
    obtain ⟨ls, media⟩ := fillLines_media g e (List.range' x n) s
    rw [Nat.zero_add, Nat.add_zero] at filled
    generalize s.fillLines g e (List.range' x n) = r at filled media
    have stillFree : (r.2.media.table[e]).use = none := by rw [media]; exact free
    split
    · rename_i empty
      rw [empty] at filled
      exact deferred (filled.withoutFetch stillFree)
    · exact filled.same ⟨rfl, rfl, fun _ => rfl, fun _ => rfl, rfl, rfl⟩

end

end Sys2Proof.Machine
end

section
/-! Write-back and the ends of FLUSHes in the sector cache (R116, R125, R131, R133). -/

namespace Sys2Proof.Machine

section
variable {u : Option (Fin 4)} {m : Media} {s t : State} {g : Fin 4} {e : Fin 16} {x : Nat}

theorem mem_of_findLine {l : CacheLine} (found : m.findLine g x = some l) : l ∈ m.lines ∧ l.region = g ∧ l.sector = x :=
  ⟨List.mem_of_find?_eq_some found, isFor_iff.mp (List.find?_some found)⟩

theorem not_mem_of_findLine_none (none : m.findLine g x = none) {l : CacheLine} (member : l ∈ m.lines) : ¬ (l.region = g ∧ l.sector = x) :=
  fun both => List.find?_eq_none.mp none l member (isFor_iff.mpr both)

/-! ### One write-back (R133) -/

/-- The lines of a write-back. -/
def toFlush (e : Fin 16) (g : Fin 4) (xs : List Nat) (l : CacheLine) : CacheLine :=
  if l.region = g ∧ l.sector ∈ xs then { l with cond := .flushing e } else l

theorem toFlush_keys (e : Fin 16) (g : Fin 4) (xs : List Nat) (l : CacheLine) :
    (toFlush e g xs l).region = l.region ∧ (toFlush e g xs l).sector = l.sector := by
  unfold toFlush
  split <;> exact ⟨rfl, rfl⟩

/-- A write-back takes one or two consecutive DIRTY lines. -/
theorem startFlush_takes (listed : m.Listed) (first : (g, x) ∈ m.dirtyOrder) (same : s.media = m) : ∃ xs : List Nat,
    (∀ y ∈ xs, (x ≤ y ∧ y < x + xs.length) ∧ ∃ l ∈ m.lines, l.region = g ∧ l.sector = y ∧ l.cond = .dirty) ∧
    ∃ blk, (s.startFlush e g x).media = { m with
      lines := m.lines.map (toFlush e g xs)
      dirtyOrder := m.dirtyOrder.filter fun d => !(d.1 == g && xs.contains d.2)
      table := m.table.set e ⟨(m.table[e]).gen + 1, some ⟨.flush, g, x, xs.length, [], 1, none⟩⟩
      issue := m.issue ++ [e], xfer := blk } := by
  subst same
  have head := (listed g x).mp first
  by_cases two : ∃ l, s.media.findLine g (x + 1) = some l ∧ l.cond = .dirty
  · obtain ⟨l, next, dirty⟩ := two
    refine ⟨[x, x + 1], fun y member => ?_, _, by rw [startFlush_two next dirty]; rfl⟩
    rcases List.mem_cons.mp member with rfl | member
    · exact ⟨⟨Nat.le_refl _, by simp⟩, head⟩
    · obtain rfl := List.mem_singleton.mp member
      obtain ⟨there, region, sector⟩ := mem_of_findLine next
      exact ⟨⟨by omega, by simp⟩, l, there, region, sector, dirty⟩
  · refine ⟨[x], fun y member => ?_, _, by
      rw [startFlush_one fun l next dirty => two ⟨l, next, dirty⟩]
      rfl⟩
    obtain rfl := List.mem_singleton.mp member
    exact ⟨⟨Nat.le_refl _, by simp⟩, head⟩

theorem CacheBut.startFlush (but : CacheBut u s.media) (free : (s.media.table[e]).use = none) (first : (g, x) ∈ s.media.dirtyOrder) :
    CacheBut u (s.startFlush e g x).media := by
  obtain ⟨xs, taken, xfer, media⟩ := startFlush_takes (e := e) but.dirtyListed first rfl
  have allocated := but.allocate (k := .flush) (g := g) (first := x) (count := xs.length) free nofun nofun
  have hit : ∀ l ∈ s.media.lines, l.region = g ∧ l.sector ∈ xs → l.cond = .dirty := fun l member ⟨region, sector⟩ => by
    obtain ⟨-, k, there, region', sector', dirty⟩ := taken l.sector sector
    rw [line_unique but.lines member there (region.trans region'.symm) sector'.symm]
    exact dirty
  rw [media]
  refine allocated.relabel (f := toFlush e g xs) rfl (toFlush_keys e g xs) (fun l member dirty => ?_) (but.dirtyOnce.filter _)
    (fun h y => ?_) (fun l member => ?_) (.of_undated fun _ => .inr rfl) rfl rfl rfl
  · by_cases taken : l.region = g ∧ l.sector ∈ xs
    · rw [hit l member taken]
      rfl
    · rwa [toFlush, if_neg taken] at dirty
  · rw [List.mem_filter, but.dirtyListed h y]
    constructor
    · rintro ⟨⟨l, member, region, sector, dirty⟩, out⟩
      refine ⟨l, member, region, sector, ?_⟩
      rw [toFlush, if_neg]
      · exact dirty
      · rintro ⟨region', sector'⟩
        simp [← region, ← sector, region', sector'] at out
    · rintro ⟨l, member, region, sector, dirty⟩
      by_cases taken : l.region = g ∧ l.sector ∈ xs
      · rw [toFlush, if_pos taken] at dirty
        exact nomatch dirty
      · rw [toFlush, if_neg taken] at dirty
        refine ⟨⟨l, member, region, sector, dirty⟩, ?_⟩
        rw [region, sector] at taken
        refine Classical.byContradiction fun kept => ?_
        exact taken (by simpa using kept)
  · by_cases hits : l.region = g ∧ l.sector ∈ xs
    · rw [toFlush, if_pos hits]
      refine ⟨nofun, fun d flushing => ?_⟩
      obtain rfl : e = d := by
        rcases flushing with h | h
        · exact LineCond.flushing.inj h
        · exact nomatch h
      obtain ⟨⟨least, most⟩, -⟩ := taken l.sector hits.2
      exact ⟨_, by rw [table_use_set, if_pos rfl], rfl, hits.1.symm, least, most⟩
    · rw [toFlush, if_neg hits]
      exact carries_of_same (allocated.carried l member) fun _ _ => rfl

/-- An entry in use that covers no line. -/
def Media.Idle (m : Media) (e : Fin 16) : Prop := (m.table[e]).use ≠ none ∧ m.Uncovered e

/-- A write-back on a free entry leaves the others. -/
theorem Idle.startFlush {d : Fin 16} (idle : s.media.Idle d) (listed : s.media.Listed) (free : (s.media.table[e]).use = none)
    (first : (g, x) ∈ s.media.dirtyOrder) : (s.startFlush e g x).media.Idle d := by
  obtain ⟨used, uncovered⟩ := idle
  obtain ⟨xs, -, xfer, media⟩ := startFlush_takes (e := e) listed first rfl
  have other : e ≠ d := fun same => used (same ▸ free)
  rw [media]
  refine ⟨?_, fun k member => ?_⟩
  · show ((s.media.table.set e _)[d]).use ≠ none
    rw [table_use_set, if_neg other]
    exact used
  · obtain ⟨l, there, rfl⟩ := List.mem_map.mp member
    unfold toFlush
    split
    · simp [CacheLine.coveredBy, other]
    · exact uncovered l there

theorem flushN_cases (s : State) (n : Nat) : s.flushN (n + 1) = s ∨ ∃ e g x, (s.media.table[e]).use = none ∧ (g, x) ∈ s.media.dirtyOrder ∧
    s.flushN (n + 1) = (s.startFlush e g x).flushN n := by
  rw [State.flushN]
  split
  · exact .inl rfl
  split
  · rename_i e g x entry first
    exact .inr ⟨e, g, x, (freeEntry_eq_some_iff.mp entry).1, List.mem_of_find?_eq_some first, rfl⟩
  · exact .inl rfl

theorem CacheBut.flushN (n : Nat) (but : CacheBut u s.media) : CacheBut u (s.flushN n).media := by
  induction n generalizing s with
  | zero => exact but
  | succ n ih =>
    obtain same | ⟨e, g, x, free, first, same⟩ := flushN_cases s n
    · rw [same]
      exact but
    · rw [same]
      exact ih (but.startFlush free first)

theorem Idle.flushN {d : Fin 16} (n : Nat) (but : CacheBut u s.media) (idle : s.media.Idle d) : (s.flushN n).media.Idle d := by
  induction n generalizing s with
  | zero => exact idle
  | succ n ih =>
    obtain same | ⟨e, g, x, free, first, same⟩ := flushN_cases s n
    · rw [same]
      exact idle
    · rw [same]
      exact ih (but.startFlush free first) (Idle.startFlush idle but.dirtyListed free first)

theorem CacheBut.runJoined (b : Bool) (but : CacheBut u s.media) : CacheBut u (s.runJoined b).media := by
  cases b
  · exact but
  · exact but.flushN 16

theorem Idle.runJoined {d : Fin 16} (b : Bool) (but : CacheBut u s.media) (idle : s.media.Idle d) : (s.runJoined b).media.Idle d := by
  cases b
  · exact idle
  · exact Idle.flushN 16 but idle

/-! ### The lines of a FLUSH that ends (R125, R131) -/

/-- The entry is a FLUSH. -/
def Media.IsFlush (m : Media) (e : Fin 16) : Prop := ∃ t, (m.table[e]).use = some t ∧ t.kind = .flush

theorem CacheBut.flushes (but : CacheBut u m) (flush : m.IsFlush e) {l : CacheLine} (member : l ∈ m.lines) (covered : l.coveredBy e = true) :
    l.cond = .flushing e ∨ l.cond = .redirtied e := by
  obtain ⟨t, use, kind⟩ := flush
  refine (coveredBy_iff.mp covered).resolve_left fun filling => ?_
  obtain ⟨t', use', kind', -⟩ := (but.carried l member).filling e filling
  obtain rfl := Option.some.inj (use.symm.trans use')
  exact nomatch kind.symm.trans kind'

/-- A line that a FLUSH covers is let go. -/
structure Releases (u : Option (Fin 4)) (e : Fin 16) (y : Fin 4 × Nat) (s t : State) : Prop where
  cache : CacheBut u t.media
  table : t.media.table = s.media.table
  lines : ∀ l ∈ t.media.lines, l.coveredBy e = true → l ∈ s.media.lines ∧ (l.region, l.sector) ≠ y

theorem Releases.refl (but : CacheBut u s.media) (none : ∀ l ∈ s.media.lines, l.coveredBy e = true → (l.region, l.sector) ≠ (g, x)) :
    Releases u e (g, x) s s := ⟨but, rfl, fun l member covered => ⟨member, none l member covered⟩⟩

/-- Every line that the FLUSH covers is let go, when each is among the sectors met. -/
theorem releases_foldl {f : State → Fin 4 × Nat → State}
    (step : ∀ s y, CacheBut u s.media → s.media.IsFlush e → Releases u e y s (f s y)) (ys : List (Fin 4 × Nat))
    (but : CacheBut u s.media) (flush : s.media.IsFlush e)
    (met : ∀ l ∈ s.media.lines, l.coveredBy e = true → (l.region, l.sector) ∈ ys) :
    CacheBut u (ys.foldl f s).media ∧ (ys.foldl f s).media.Uncovered e ∧ (ys.foldl f s).media.table = s.media.table := by
  induction ys generalizing s with
  | nil =>
    refine ⟨but, fun l member => ?_, rfl⟩
    refine Classical.byContradiction fun covered => ?_
    exact nomatch met l member (by simpa using covered)
  | cons y ys ih =>
    obtain ⟨cache, table, lines⟩ := step s y but flush
    have flush' : (f s y).media.IsFlush e := by
      unfold Media.IsFlush
      rw [table]
      exact flush
    obtain ⟨cache', uncovered, table'⟩ := ih cache flush' fun l member covered => by
      obtain ⟨there, other⟩ := lines l member covered
      exact (List.mem_cons.mp (met l there covered)).resolve_left other
    exact ⟨cache', uncovered, table'.trans table⟩

/-- The line of a sector takes a state. -/
def recond (g : Fin 4) (x : Nat) (c : LineCond) (l : CacheLine) : CacheLine := if l.isFor g x then { l with cond := c } else l

theorem recond_keys (g : Fin 4) (x : Nat) (c : LineCond) (l : CacheLine) :
    (recond g x c l).region = l.region ∧ (recond g x c l).sector = l.sector := by
  unfold recond
  split <;> exact ⟨rfl, rfl⟩

theorem recond_covered {c : LineCond} (uncovered : CacheLine.coveredBy e ⟨g, x, c, []⟩ = false) {ls : List CacheLine} {k : CacheLine}
    (member : k ∈ ls.map (recond g x c)) (covered : k.coveredBy e = true) : k ∈ ls ∧ (k.region, k.sector) ≠ (g, x) := by
  obtain ⟨l, there, rfl⟩ := List.mem_map.mp member
  unfold recond at covered ⊢
  split at covered
  · exact nomatch uncovered.symm.trans covered
  · rename_i other
    rw [if_neg other]
    exact ⟨there, fun same => other (isFor_iff.mpr (Prod.mk.inj same))⟩

theorem returnDirty_releases (but : CacheBut u s.media) (flush : s.media.IsFlush e) (y : Fin 4 × Nat) :
    Releases u e y s (s.returnDirty e y) := by
  obtain ⟨g, x⟩ := y
  cases found : s.media.findLine g x with
  | none =>
    rw [returnDirty_of_none found]
    exact .refl but fun l member _ same => not_mem_of_findLine_none found member (Prod.mk.inj same)
  | some l =>
    obtain ⟨there, region, sector⟩ := mem_of_findLine found
    by_cases covered : l.coveredBy e = true
    · rw [returnDirty_of_covered found covered]
      have before := but.flushes flush there covered
      have unlisted : (g, x) ∉ s.media.dirtyOrder := fun listed => by
        obtain ⟨k, member, region', sector', dirty⟩ := (but.dirtyListed g x).mp listed
        rw [line_unique but.lines member there (region'.trans region.symm) (sector'.trans sector.symm)] at dirty
        rcases before with h | h <;> exact nomatch h.symm.trans dirty
      refine ⟨but.relabel (f := recond g x .dirty) rfl (recond_keys g x _) (fun k member dirty => ?_)
        (List.nodup_append.mpr ⟨but.dirtyOnce, List.pairwise_singleton _ _, fun a old b new same => ?_⟩) (fun h y => ?_) (fun k member => ?_)
        (.of_undated fun _ => .inr rfl) rfl rfl rfl, rfl, fun k member => recond_covered rfl member⟩
      · unfold recond at dirty
        split at dirty
        · rename_i here
          obtain ⟨region', sector'⟩ := isFor_iff.mp here
          rw [line_unique but.lines member there (region'.trans region.symm) (sector'.trans sector.symm)]
          rcases before with h | h <;> rw [h] <;> rfl
        · exact dirty
      · obtain rfl := List.mem_singleton.mp new
        exact unlisted (same ▸ old)
      · show (h, y) ∈ s.media.dirtyOrder ++ [(g, x)] ↔ _
        rw [List.mem_append, but.dirtyListed h y, List.mem_singleton]
        constructor
        · rintro (⟨k, member, region', sector', dirty⟩ | same)
          · refine ⟨k, member, region', sector', ?_⟩
            unfold recond
            split
            · rfl
            · exact dirty
          · obtain ⟨rfl, rfl⟩ := Prod.mk.inj same
            exact ⟨l, there, region, sector, by rw [recond, if_pos (isFor_iff.mpr ⟨region, sector⟩)]⟩
        · rintro ⟨k, member, rfl, rfl, dirty⟩
          unfold recond at dirty
          split at dirty
          · rename_i here
            exact .inr (Prod.ext (isFor_iff.mp here).1 (isFor_iff.mp here).2)
          · exact .inl ⟨k, member, rfl, rfl, dirty⟩
      · unfold recond
        split
        · exact ⟨nofun, fun d flushing => by rcases flushing with h | h <;> exact nomatch h⟩
        · exact carries_of_same (but.carried k member) fun _ _ => rfl
    · have same : s.returnDirty e (g, x) = s := by
        rw [State.returnDirty, found]
        exact if_neg covered
      rw [same]
      exact .refl but fun k member covered' same => covered (by
        obtain ⟨region', sector'⟩ := Prod.mk.inj same
        rwa [← line_unique but.lines member there (region'.trans region.symm) (sector'.trans sector.symm)])

theorem acknowledge_releases (but : CacheBut u s.media) (flush : s.media.IsFlush e) (y : Fin 4 × Nat) :
    Releases u e y s (s.acknowledge e y) := by
  obtain ⟨g, x⟩ := y
  cases found : s.media.findLine g x with
  | none =>
    rw [acknowledge_of_none found]
    exact .refl but fun l member _ same => not_mem_of_findLine_none found member (Prod.mk.inj same)
  | some l =>
    obtain ⟨there, region, sector⟩ := mem_of_findLine found
    by_cases flushing : l.cond = .flushing e
    · rw [acknowledge_of_flushing found flushing]
      have mine : ∀ k ∈ s.media.lines, k.isFor g x = true → k = l := fun k member here =>
        line_unique but.lines member there ((isFor_iff.mp here).1.trans region.symm) ((isFor_iff.mp here).2.trans sector.symm)
      have cleaned : CacheBut u (s.onLineOf g x fun l => { l with cond := .clean }).media := by
        refine but.relabel (f := recond g x .clean) rfl (recond_keys g x _) (fun k member dirty => ?_) but.dirtyOnce (fun h y => ?_)
          (fun k member => ?_) (.of_undated fun _ => .inr rfl) rfl rfl rfl
        · unfold recond at dirty
          split at dirty
          · exact nomatch dirty
          · exact dirty
        · refine (but.dirtyListed h y).trans (exists_congr fun k => and_congr_right fun member => and_congr_right fun _ =>
            and_congr_right fun _ => ?_)
          unfold recond
          split
          · rename_i here
            rw [mine k member here, flushing]
            exact ⟨nofun, nofun⟩
          · exact .rfl
        · unfold recond
          split
          · exact ⟨nofun, fun d flushing => by rcases flushing with h | h <;> exact nomatch h⟩
          · exact carries_of_same (but.carried k member) fun _ _ => rfl
      obtain ⟨ls, r, media, sub⟩ := trimN_media (s := s.onLineOf g x fun l => { l with cond := .clean })
        (s.onLineOf g x fun l => { l with cond := .clean }).media.lines.length
      refine ⟨(Serves.trimExcess _).cache cleaned, ?_, fun k member => ?_⟩
      · show ((State.trimN _ _).media).table = _
        rw [media]
        rfl
      · have member : k ∈ (State.trimN (s.onLineOf g x fun l => { l with cond := .clean }).media.lines.length
          (s.onLineOf g x fun l => { l with cond := .clean })).media.lines := member
        rw [media] at member
        exact recond_covered (c := .clean) rfl (sub.subset member)
    · by_cases redirtied : l.cond = .redirtied e
      · rw [acknowledge_of_redirtied found redirtied]
        exact returnDirty_releases but flush (g, x)
      · rw [acknowledge_of_other found flushing redirtied]
        exact .refl but fun k member covered same => by
          obtain ⟨region', sector'⟩ := Prod.mk.inj same
          have eq := line_unique but.lines member there (region'.trans region.symm) (sector'.trans sector.symm)
          rcases but.flushes flush member covered with h | h
          · exact flushing (eq ▸ h)
          · exact redirtied (eq ▸ h)

/-- The lines that a FLUSH covers are of its sectors. -/
theorem CacheBut.met (but : CacheBut u m) {t : Transfer} (use : (m.table[e]).use = some t) (l : CacheLine) (member : l ∈ m.lines)
    (covered : l.coveredBy e = true) : (l.region, l.sector) ∈ (sectorsOf t.first t.count).map (t.region, ·) := by
  obtain ⟨t', use', ⟨region, least, most⟩, -⟩ := but.covered member covered
  obtain rfl := Option.some.inj (use.symm.trans use')
  refine List.mem_map.mpr ⟨l.sector, List.mem_map.mpr ⟨l.sector - t.first, List.mem_range.mpr (by omega), by omega⟩, ?_⟩
  rw [region]

end

end Sys2Proof.Machine
end

section
/-! Regions that attach, fail and detach, in the sector cache (R97 to R102, R120, R126, R132). -/

namespace Sys2Proof.Machine

section
variable {u v : Option (Fin 4)} {m : Media} {s : State} {g : Fin 4} {e : Fin 16} {st : RegionState}

/-! ### What a region's state says -/

theorem CacheBut.noInquiries (but : CacheBut u m) (other : (m.regions[g]).state ≠ .attaching) : m.inquiriesOf g = 0 := by
  have bound := but.inquiries g
  rw [if_neg other] at bound
  exact Nat.le_zero.mp bound

theorem CacheBut.nobody (but : CacheBut none m) (other : (m.regions[g]).state ≠ .attached) (h : Held) (member : h ∈ m.held) :
    h.unit ≠ g := fun same => by
  subst same
  exact other ((but.held h member).resolve_left nofun)

theorem CacheBut.noLines (but : CacheBut u m) (out : (m.regions[g]).state = .detached ∨ (m.regions[g]).state = .attaching)
    (l : CacheLine) (member : l ∈ m.lines) : l.region ≠ g := fun same => by
  subst same
  obtain ⟨detached, attaching⟩ := but.lineRegions l member
  exact out.elim detached attaching

theorem getElem_regions_set (regions : Vector Region 4) (g d : Fin 4) (r : Region) :
    ((regions.set g r)[d]).state = if d = g then r.state else (regions[d]).state := by
  rw [getElem_set_if]
  by_cases same : g = d
  · rw [if_pos same, if_pos same.symm]
  · rw [if_neg same, if_neg (Ne.symm same)]

/-- A region's counts, content and last error. -/
theorem CacheBut.onRegion (but : CacheBut u s.media) {f : Region → Region} (state : (f (s.media.regions[g])).state = (s.media.regions[g]).state) :
    CacheBut u (s.onRegion g f).media := by
  refine but.same ⟨rfl, rfl, fun _ => rfl, fun d => ?_, rfl, rfl⟩
  show ((s.media.regions.set g _)[d]).state = _
  rw [getElem_regions_set]
  split
  · rename_i same
    rw [state, same]
  · rfl

theorem CacheBut.setState (but : CacheBut u s.media) {f : Region → Region} (state : (f (s.media.regions[g])).state = st)
    (empty : st = .detached ∨ st = .attaching → ∀ l ∈ s.media.lines, l.region ≠ g)
    (holders : ∀ h ∈ s.media.held, some h.unit = v ∨ (if h.unit = g then st else (s.media.regions[h.unit]).state) = .attached)
    (inquiries : s.media.inquiriesOf g ≤ if st = .attaching then 1 else 0) : CacheBut v (s.onRegion g f).media :=
  but.restate rfl rfl rfl rfl rfl (fun d => by
    show ((s.media.regions.set g _)[d]).state = _
    rw [getElem_regions_set, state]) empty holders inquiries

/-- A region enters a state (R97). -/
theorem CacheBut.enterRegion (but : CacheBut u s.media) (empty : st = .detached ∨ st = .attaching → ∀ l ∈ s.media.lines, l.region ≠ g)
    (holders : ∀ h ∈ s.media.held, some h.unit = v ∨ (if h.unit = g then st else (s.media.regions[h.unit]).state) = .attached)
    (inquiries : s.media.inquiriesOf g ≤ if st = .attaching then 1 else 0) : CacheBut v (s.enterRegion g st).media :=
  (but.setState (f := fun r => { r with state := st, failures := if st = .attached ∨ st = .detached then 0 else r.failures }) rfl empty
    holders inquiries).same (Aside.raiseNotice ..).cache

theorem CacheBut.holders (but : CacheBut none m) (free : st = .attached ∨ ∀ h ∈ m.held, h.unit ≠ g) (h : Held) (member : h ∈ m.held) :
    some h.unit = none ∨ (if h.unit = g then st else (m.regions[h.unit]).state) = .attached := by
  refine .inr ?_
  split
  · rename_i same
    exact free.resolve_right fun nobody => nobody h member same
  · exact (but.held h member).resolve_left nofun

/-! ### Entries counted -/

/-- An entry freed is one fewer. -/
theorem entriesOf_freeEntry {t : Transfer} {k : TransferKind → Bool} (use : (s.media.table[e]).use = some t)
    (here : (t.region == g && k t.kind) = true) :
    ((s.freeEntry e).media.entriesOf g k).length + 1 ≤ (s.media.entriesOf g k).length := by
  have free : ∀ d : Fin 16, ((s.freeEntry e).media.table[d]).use = if e = d then none else (s.media.table[d]).use := fun d => by
    show ((s.media.table.set e _)[d]).use = _
    rw [getElem_set_if]
    split <;> rfl
  have sub : e :: (s.freeEntry e).media.entriesOf g k ⊆ s.media.entriesOf g k := fun d member => by
    rcases List.mem_cons.mp member with rfl | member
    · rw [mem_entriesOf, use]
      exact here
    · rw [mem_entriesOf, free] at member
      split at member
      · exact nomatch member
      · exact mem_entriesOf.mpr member
  have once : (e :: (s.freeEntry e).media.entriesOf g k).Nodup := by
    refine List.nodup_cons.mpr ⟨fun member => ?_, ?_⟩
    · rw [mem_entriesOf, free, if_pos rfl] at member
      exact nomatch member
    · rw [entriesOf_eq]
      exact (List.nodup_finRange 16).filter _
  exact once.length_le_of_subset sub

/-- The inquiries that wait are others. -/
theorem CacheBut.rewait (but : CacheBut u m) {waiting : List (Fin 4)} (counts : ∀ d : Fin 4,
    (m.entriesOf d (· == .inquire)).length + waiting.count d ≤ if (m.regions[d]).state = .attaching then 1 else 0) :
    CacheBut u { m with waitingInquiries := waiting } :=
  { but with
    carried := fun l member => ⟨(but.carried l member).filling, (but.carried l member).flushing⟩
    inquiries := counts }

theorem enterRegion_fewer (s : State) (g : Fin 4) (st : RegionState) : FewerUses s.media (s.enterRegion g st).media :=
  .of_undated fun e => .inr ((Aside.raiseNotice (s.onRegion g fun r => { r with
    state := st, failures := if st = .attached ∨ st = .detached then 0 else r.failures }) _).cache.uses e)

/-! ### Attaches (R98, R99, R120) -/

/-- The inquiry of a region that is ATTACHING takes a free entry. -/
theorem CacheBut.inquire (but : CacheBut u s.media) (free : (s.media.table[e]).use = none)
    (waiting : List (Fin 4)) (counts : ∀ d, waiting.count d + (if g = d then 1 else 0) + (s.media.entriesOf d (· == .inquire)).length ≤
      if (s.media.regions[d]).state = .attaching then 1 else 0) :
    CacheBut u ((s.onMedia fun m => { m with waitingInquiries := waiting }).allocate .inquire g 0 0 e).media := by
  refine but.pledge (t := ⟨.inquire, g, 0, 0, [], 1, none⟩) free rfl rfl rfl rfl rfl nofun fun d => ?_
  refine Nat.le_trans (Nat.le_of_eq ?_) (counts d)
  show _ + (if g = d ∧ TransferKind.inquire = .inquire then 1 else 0) + waiting.count d = _
  simp only [and_true]
  omega

theorem CacheBut.takeInquiries (n : Nat) (but : CacheBut u s.media) : CacheBut u (s.takeInquiries n).media := by
  induction n generalizing s with
  | zero => exact but
  | succ n ih =>
    unfold State.takeInquiries
    split
    · rename_i g rest e waiting entry
      refine ih ?_
      have counts : ∀ d, s.media.waitingInquiries.count d = rest.count d + if g = d then 1 else 0 := fun d => by
        rw [waiting, List.count_cons]
        simp only [beq_iff_eq]
      have attaching : (s.media.regions[g]).state = .attaching := by
        refine Classical.byContradiction fun other => ?_
        have none := but.noInquiries other
        have count := counts g
        rw [if_pos rfl] at count
        unfold Media.inquiriesOf at none
        omega
      refine but.inquire (freeEntry_eq_some_iff.mp entry).1 rest fun d => ?_
      have bound := but.inquiries d
      unfold Media.inquiriesOf at bound
      rw [counts] at bound
      omega
    · exact but

theorem CacheBut.beginAttach (but : CacheBut none s.media) (detached : (s.media.regions[g]).state = .detached) :
    CacheBut none (s.beginAttach g).media := by
  have none := but.noInquiries (g := g) (by rw [detached]; nofun)
  have entered : CacheBut Option.none (s.enterRegion g .attaching).media :=
    but.enterRegion (fun _ => but.noLines (.inl detached)) (but.holders (.inr (but.nobody (by rw [detached]; nofun))))
      (by rw [none]; exact Nat.zero_le _)
  obtain ⟨-, -, waiting, -⟩ := enterRegion_media s g .attaching
  have state := enterRegion_state s g .attaching
  have counts : ∀ d, (s.enterRegion g .attaching).media.waitingInquiries.count d + (if g = d then 1 else 0) +
      ((s.enterRegion g .attaching).media.entriesOf d (· == .inquire)).length ≤
      if ((s.enterRegion g .attaching).media.regions[d]).state = .attaching then 1 else 0 := fun d => by
    by_cases same : g = d
    · subst same
      have entries := entriesOf_le_of_fewer (enterRegion_fewer s g .attaching) g (· == .inquire)
      rw [if_pos state, if_pos rfl, waiting]
      unfold Media.inquiriesOf at none
      omega
    · rw [if_neg same]
      have bound := entered.inquiries d
      unfold Media.inquiriesOf at bound
      omega
  unfold State.beginAttach
  dsimp only
  split
  · rename_i e nobody entry
    exact entered.inquire (freeEntry_eq_some_iff.mp entry).1 (s.enterRegion g .attaching).media.waitingInquiries counts
  · refine entered.rewait fun d => ?_
    rw [List.count_append, List.count_singleton]
    refine Nat.le_trans (Nat.le_of_eq ?_) (counts d)
    simp only [beq_iff_eq]
    omega

/-- An attach ends, its inquiry gone. -/
theorem CacheBut.endAttach (but : CacheBut none s.media) (attaching : (s.media.regions[g]).state = .attaching)
    (none : s.media.inquiriesOf g = 0) (st : RegionState) : CacheBut Option.none (s.enterRegion g st).media :=
  but.enterRegion (fun _ => but.noLines (.inr attaching)) (but.holders (.inr (but.nobody (by rw [attaching]; nofun))))
    (by rw [none]; exact Nat.zero_le _)

/-- The inquiry of a region is the only one, and the region is ATTACHING (R98). -/
theorem CacheBut.endInquiry {t : Transfer} (but : CacheBut none s.media) (use : (s.media.table[e]).use = some t) (kind : t.kind = .inquire)
    (region : t.region = g) : CacheBut none (s.freeEntry e).media ∧ ((s.freeEntry e).media.regions[g]).state = .attaching ∧
    (s.freeEntry e).media.inquiriesOf g = 0 := by
  subst region
  have fewer := entriesOf_freeEntry (k := (· == .inquire)) (g := t.region) use (by simp [kind])
  have waiting : (s.freeEntry e).media.waitingInquiries = s.media.waitingInquiries := rfl
  have bound := but.inquiries t.region
  have attaching : (s.media.regions[t.region]).state = .attaching := by
    refine Classical.byContradiction fun other => ?_
    rw [if_neg other] at bound
    unfold Media.inquiriesOf at bound
    omega
  refine ⟨but.freeEntry (but.uncovered_of fun t' use' => ?_), attaching, ?_⟩
  · obtain rfl := Option.some.inj (use.symm.trans use')
    rw [kind]
    exact ⟨nofun, nofun⟩
  · rw [if_pos attaching] at bound
    unfold Media.inquiriesOf at bound ⊢
    rw [waiting]
    omega

/-! ### A region left (R97, R100 to R102) -/

theorem CacheBut.becomeDetached (but : CacheBut none s.media) (nobody : ∀ h ∈ s.media.held, h.unit ≠ g)
    (none : s.media.inquiriesOf g = 0) : CacheBut Option.none (s.becomeDetached g).media := by
  have freed := but.freeLines fun l => l.region == g
  obtain ⟨n, media⟩ := freeLines_media s fun l => l.region == g
  unfold State.becomeDetached
  refine freed.enterRegion (fun _ l member => ?_) (freed.holders (.inr fun h member => ?_)) ?_
  · rw [media] at member
    simpa using (List.mem_filter.mp member).2
  · rw [media] at member
    exact nobody h member
  · rw [media]
    exact Nat.le_trans (Nat.le_of_eq none) (Nat.zero_le _)

/-- The DIRTY lines of a region go, and the FLUSHes that covered them end. -/
theorem discardDirty_cache (s : State) (g : Fin 4) : ∃ iss w n blk, (s.discardDirty g).media = { s.media with
    lines := s.media.lines.filter fun l => !(l.region == g && l.cond.isDirty)
    dirtyOrder := s.media.dirtyOrder.filter fun d =>
      !(s.media.lines.filter fun l => l.region == g && l.cond.isDirty).any (CacheLine.isFor d.1 d.2)
    table := freedTable (s.media.entriesOf g (· == .flush)) s.media.table
    issue := iss, issueWaiting := w, rescans := n, blk := blk } := by
  obtain ⟨iss, w, r, freed⟩ := freeEntries_media (s.media.entriesOf g (· == .flush)) s
  unfold State.discardDirty
  dsimp only
  generalize (s.media.entriesOf g (· == .flush)).foldl (fun t e => t.freeEntry e) s = t at freed ⊢
  obtain ⟨n, media⟩ := freeLines_media t fun l => l.region == g && l.cond.isDirty
  refine ⟨iss, w, n, ?_, ?_⟩
  rotate_left
  · show ({ (t.freeLines fun l => l.region == g && l.cond.isDirty).media with blk := _ } : Media) = _
    rw [media, freed]

theorem CacheBut.discardDirty (but : CacheBut u s.media) (g : Fin 4) : CacheBut u (s.discardDirty g).media := by
  obtain ⟨iss, w, n, blk, media⟩ := discardDirty_cache s g
  have dropped := but.dropLines (fun l => l.region == g && l.cond.isDirty) (m' := { s.media with
    lines := s.media.lines.filter fun l => !(l.region == g && l.cond.isDirty)
    dirtyOrder := s.media.dirtyOrder.filter fun d =>
      !(s.media.lines.filter fun l => l.region == g && l.cond.isDirty).any (CacheLine.isFor d.1 d.2) }) rfl rfl rfl rfl rfl rfl
  rw [media]
  refine dropped.freeUncovered rfl rfl rfl rfl (.refl _) fun e => ?_
  show ((freedTable _ s.media.table)[e]).use = _ ∨ ((freedTable _ s.media.table)[e]).use = none ∧ _
  rw [freedTable_getElem]
  split
  · rename_i flush
    refine .inr ⟨rfl, fun l member => ?_⟩
    refine Classical.byContradiction fun covered => ?_
    obtain ⟨t, use, ⟨region, -⟩, filling | ⟨kind, notFilling⟩⟩ := dropped.covered member (by simpa using covered)
    all_goals
      rw [mem_entriesOf, show (s.media.table[e]).use = some t from use] at flush
      simp only [Option.any_some, Bool.and_eq_true, beq_iff_eq] at flush
    · exact nomatch flush.2.symm.trans filling.1
    · have dirty : l.cond.isDirty = true := isDirty_iff.mpr (.inr ⟨e, (coveredBy_iff.mp (by simpa using covered)).resolve_left notFilling⟩)
      have out := (List.mem_filter.mp member).2
      simp [dirty, ← region, flush.1] at out
  · exact .inl rfl

/-- Transfers other than FLUSHes end, and the lines they were filling go. -/
theorem CacheBut.cancel (es : List (Fin 16)) (but : CacheBut u s.media)
    (kinds : ∀ e ∈ es, ∀ t, (s.media.table[e]).use = some t → t.kind ≠ .flush) :
    CacheBut u (es.foldl (fun t e => (t.freeLines fun l => l.cond == .filling e).freeEntry e) s).media := by
  induction es generalizing s with
  | nil => exact but
  | cons e es ih =>
    obtain ⟨n, media⟩ := freeLines_media s fun l => l.cond == .filling e
    have freed := but.freeLines fun l => l.cond == .filling e
    have table : (s.freeLines fun l => l.cond == .filling e).media.table = s.media.table := by rw [media]
    refine ih (freed.freeEntry fun l member => ?_) fun d member t use => ?_
    · refine Classical.byContradiction fun covered => ?_
      obtain ⟨t, use, -, ⟨-, filling⟩ | ⟨kind, -⟩⟩ := freed.covered member (by simpa using covered)
      · rw [media] at member
        simpa [filling] using (List.mem_filter.mp member).2
      · rw [table] at use
        exact kinds e List.mem_cons_self t use kind
    · refine kinds d (List.mem_cons_of_mem e member) t ?_
      have use : (((s.freeLines fun l => l.cond == .filling e).media.table.set e
        { (s.freeLines fun l => l.cond == .filling e).media.table[e] with use := none })[d]).use = some t := use
      rw [getElem_set_if, table] at use
      split at use
      · exact nomatch use
      · exact use

theorem CacheBut.cancelFetches {k : TransferKind → Bool} (but : CacheBut u s.media) (g : Fin 4) (notFlush : k .flush = false) :
    CacheBut u (s.cancelFetches g k).media := by
  refine but.cancel _ fun e member t use flush => ?_
  rw [mem_entriesOf, use] at member
  simp [flush, notFlush] at member

theorem cancelFetches_media (s : State) (g : Fin 4) (k : TransferKind → Bool) :
    (s.cancelFetches g k).media.held = s.media.held ∧ (s.cancelFetches g k).media.regions = s.media.regions ∧
    (s.cancelFetches g k).media.waitingInquiries = s.media.waitingInquiries ∧
    (s.cancelFetches g k).media.table = freedTable (s.media.entriesOf g k) s.media.table := by
  obtain ⟨ord, iss, w, r, media⟩ := cancelEntries_media (s.media.entriesOf g k) s
  unfold State.cancelFetches
  rw [media]
  exact ⟨rfl, rfl, rfl, rfl⟩

/-- The held requests of a FAULTED region end, and its FETCHes (R102). -/
theorem CacheBut.endFault (faulted : CacheBut (some g) s.media) (state : (s.media.regions[g]).state = .faulted) :
    CacheBut none (((s.endHeldWhere (fun h => h.unit == g) .mediaError).cancelFetches g (· == .fetch)).enterRegion g .faulted).media := by
  have ended := (Serves.endHeldWhere (u := some g) s (fun h => h.unit == g) .mediaError).cache faulted
  obtain ⟨ls, r, blk, media, -⟩ := endHeldWhere_media (st := .mediaError) nofun (fun h => h.unit == g) s
  have cancelled := ended.cancelFetches g (k := (· == .fetch)) rfl
  obtain ⟨held, regions, -, -⟩ := cancelFetches_media (s.endHeldWhere (fun h => h.unit == g) .mediaError) g (· == .fetch)
  refine cancelled.enterRegion (fun out => by rcases out with out | out <;> exact nomatch out) (fun h member => ?_)
    (Nat.le_of_eq (cancelled.noInquiries ?_))
  · have other : h.unit ≠ g := by
      rw [held, media] at member
      simpa using (List.mem_filter.mp member).2
    rw [if_neg other]
    exact .inr ((cancelled.held h member).resolve_left fun same => other (Option.some.inj same))
  · rw [regions, media, state]
    exact nofun

/-- A region is FAULTED by its failures (R102). -/
theorem CacheBut.faultRegion (but : CacheBut none s.media) (attached : (s.media.regions[g]).state = .attached) :
    CacheBut none (s.faultRegion g).media := by
  have faulted : CacheBut (some g) (s.onRegion g fun r => { r with state := .faulted }).media := by
    refine but.setState rfl (fun out => by rcases out with out | out <;> exact nomatch out) (fun h member => ?_)
      (Nat.le_of_eq (but.noInquiries (by rw [attached]; exact nofun)))
    by_cases same : h.unit = g
    · exact .inl (congrArg some same)
    · rw [if_neg same]
      exact .inr ((but.held h member).resolve_left nofun)
  refine faulted.endFault ?_
  show ((s.media.regions.set g _)[g]).state = _
  rw [getElem_regions_set, if_pos rfl]

theorem CacheBut.countFailure (but : CacheBut none s.media) (g : Fin 4) : CacheBut none (s.countFailure g).media := by
  have counted : CacheBut none (s.onRegion g fun r => { r with failures := r.failures + 1 }).media := but.onRegion rfl
  have states : ((s.onRegion g fun r => { r with failures := r.failures + 1 }).media.regions[g]).state = (s.media.regions[g]).state := by
    show ((s.media.regions.set g _)[g]).state = _
    rw [getElem_regions_set, if_pos rfl]
  by_cases attached : (s.media.regions[g]).state = .attached
  · rw [countFailure_of_attached attached]
    split
    · exact counted.faultRegion (states.trans attached)
    · exact counted
  by_cases detaching : (s.media.regions[g]).state = .detaching
  · rw [countFailure_of_detaching detaching]
    split
    · obtain ⟨iss, w, n, blk, media⟩ := discardDirty_cache (s.onRegion g fun r => { r with failures := r.failures + 1 }) g
      have discarded := counted.discardDirty g
      have state : ((((s.onRegion g fun r => { r with failures := r.failures + 1 }).discardDirty g).media.regions[g]).state) = .detaching := by
        rw [media]
        exact states.trans detaching
      exact discarded.becomeDetached (discarded.nobody (by rw [state]; nofun)) (discarded.noInquiries (by rw [state]; nofun))
    · exact counted
  · rw [countFailure_of_other attached detaching]
    exact but

theorem CacheBut.countCompletion (but : CacheBut u s.media) (g : Fin 4) : CacheBut u (s.countCompletion g).media := but.onRegion rfl

/-- The region has no DIRTY line left (R101, R131). -/
theorem CacheBut.settleRegion (but : CacheBut none s.media) (g : Fin 4) : CacheBut none (s.settleRegion g).media := by
  have ended := (Serves.endHeldWhere (u := none) s (fun h => h.op == .sync && h.unit == g) .ok).cache but
  unfold State.settleRegion
  split
  · dsimp only
    split
    · rename_i detaching
      exact ended.becomeDetached (ended.nobody (by rw [detaching]; nofun)) (ended.noInquiries (by rw [detaching]; nofun))
    · exact ended
  · exact but

/-! ### A detach (R100, R101) -/

theorem CacheBut.detachRegion (but : CacheBut none s.media) (g : Fin 4) (discard : Bool) : CacheBut none (s.detachRegion g discard).media := by
  obtain ⟨ls, r, blk, answered, -⟩ := unitAnswered_media s g
  have ended : CacheBut none (s.unitAnswered g).media := (Serves.endHeldWhere (u := none) s (fun h => h.unit == g) .noUnit).cache but
  have cancelled := ended.cancelFetches g (k := (· != .flush)) rfl
  obtain ⟨held, -, -, -⟩ := cancelFetches_media (s.unitAnswered g) g (· != .flush)
  have emptied : CacheBut none (s.unitCancelled g).media := by
    refine cancelled.rewait fun d => Nat.le_trans (Nat.add_le_add_left ?_ _) (cancelled.inquiries d)
    exact List.filter_sublist.count_le d
  have nobody : ∀ h ∈ (s.unitCancelled g).media.held, h.unit ≠ g := fun h member => by
    have member : h ∈ ((s.unitAnswered g).cancelFetches g (· != .flush)).media.held := member
    rw [held, answered] at member
    simpa using (List.mem_filter.mp member).2
  have none : (s.unitCancelled g).media.inquiriesOf g = 0 := by
    have entries : (s.unitCancelled g).media.entriesOf g (· == .inquire) = [] := by
      rw [List.eq_nil_iff_forall_not_mem]
      intro e member
      rw [mem_entriesOf, unitCancelled_table] at member
      split at member
      · exact nomatch member
      · rename_i kept
        obtain ⟨t, use, here⟩ := any_iff.mp member
        simp only [Bool.and_eq_true, beq_iff_eq] at here
        rw [show (s.media.table[e]).use = some t from use] at kept
        simp [here.1, here.2] at kept
    have gone : (s.unitCancelled g).media.waitingInquiries.count g = 0 := by
      rw [List.count_eq_zero]
      intro member
      have member : g ∈ ((s.unitAnswered g).cancelFetches g (· != .flush)).media.waitingInquiries.filter (· != g) := member
      simpa using (List.mem_filter.mp member).2
    unfold Media.inquiriesOf
    rw [entries, gone]
    rfl
  rw [detachRegion_eq]
  have left : CacheBut Option.none (s.unitEmptied g discard).media ∧ (∀ h ∈ (s.unitEmptied g discard).media.held, h.unit ≠ g) ∧
      (s.unitEmptied g discard).media.inquiriesOf g = 0 := by
    cases discard
    · exact ⟨emptied, nobody, none⟩
    · obtain ⟨iss, w, n, blk, media⟩ := discardDirty_cache (s.unitCancelled g) g
      refine ⟨emptied.discardDirty g, ?_, Nat.le_zero.mp (Nat.le_trans ?_ (Nat.le_of_eq none))⟩
      · show ∀ h ∈ ((s.unitCancelled g).discardDirty g).media.held, h.unit ≠ g
        rw [media]
        exact nobody
      · show ((s.unitCancelled g).discardDirty g).media.inquiriesOf g ≤ _
        rw [media]
        refine Nat.add_le_add_right (entriesOf_le_of_fewer (.of_undated fun e => ?_) g _) _
        show ((freedTable _ (s.unitCancelled g).media.table)[e]).use = Option.none ∨ _
        rw [freedTable_getElem]
        split
        · exact .inl rfl
        · exact .inr rfl
  obtain ⟨emptied, nobody, none⟩ := left
  split
  · exact emptied.becomeDetached nobody none
  · exact emptied.enterRegion (fun out => by rcases out with out | out <;> exact nomatch out) (emptied.holders (.inr nobody)) (Nat.le_of_eq none)

end

end Sys2Proof.Machine
end

section
/-! Transfers that end, and the answers of image servers, in the sector cache (R99, R124, R125, R128 to R131). -/

namespace Sys2Proof.Machine

section
variable {u : Option (Fin 4)} {m m' : Media} {s : State} {g : Fin 4} {e : Fin 16} {t t' : Transfer}

/-! ### A transfer meets an answer -/

theorem carries_setTransfer {gen : Byte} {l : CacheLine} (carries : m.Carries l) (table : m'.table = m.table.set e ⟨gen, some t'⟩)
    (use : (m.table[e]).use = some t) (same : t.Same t') (fresh : l.cond = .filling e → l.sector ∉ t'.received) : m'.Carries l := by
  refine ⟨fun d filling => ?_, fun d flushing => ?_⟩
  · obtain ⟨a, use', kind, covers, fresh'⟩ := carries.filling d filling
    rw [table, table_use_set]
    split
    · rename_i here
      subst here
      obtain rfl := Option.some.inj (use.symm.trans use')
      exact ⟨t', rfl, same.kind.trans kind, same.covers covers, fresh filling⟩
    · exact ⟨a, use', kind, covers, fresh'⟩
  · obtain ⟨a, use', kind, covers⟩ := carries.flushing d flushing
    rw [table, table_use_set]
    split
    · rename_i here
      subst here
      obtain rfl := Option.some.inj (use.symm.trans use')
      exact ⟨t', rfl, same.kind.trans kind, same.covers covers⟩
    · exact ⟨a, use', kind, covers⟩

theorem fewer_setTransfer {gen : Byte} (table : m'.table = m.table.set e ⟨gen, some t'⟩) (use : (m.table[e]).use = some t)
    (same : t.Same t') : FewerUses m m' := fun d a use' => by
  rw [table, table_use_set] at use'
  split at use'
  · rename_i here
    subst here
    obtain rfl := Option.some.inj use'
    exact ⟨t, use, same⟩
  · exact ⟨a, use', .refl a⟩

theorem setTransfer_use (s : State) (e : Fin 16) (t : Transfer) : ((s.setTransfer e t).media.table[e]).use = some t := by
  show ((s.media.table.set e ⟨_, some t⟩)[e]).use = _
  rw [table_use_set, if_pos rfl]

theorem CacheBut.setTransfer (but : CacheBut u s.media) (use : (s.media.table[e]).use = some t) (same : t.Same t')
    (fresh : ∀ l ∈ s.media.lines, l.cond = .filling e → l.sector ∉ t'.received) : CacheBut u (s.setTransfer e t').media :=
  but.shrink (.of_eq rfl) (.refl _) but.dirtyListed (fun l member => carries_setTransfer (but.carried l member) rfl use same (fresh l member))
    (fewer_setTransfer rfl use same) (fun _ => rfl) (fun h member => ⟨h, member, rfl⟩) (.refl _)

theorem CacheBut.fresh (but : CacheBut u m) (use : (m.table[e]).use = some t) (l : CacheLine) (member : l ∈ m.lines)
    (filling : l.cond = .filling e) : l.sector ∉ t.received := by
  obtain ⟨a, use', -, -, fresh⟩ := (but.carried l member).filling e filling
  obtain rfl := Option.some.inj (use.symm.trans use')
  exact fresh

/-! ### Failures (R125) -/

theorem endHeld_table (s : State) (h : Held) (st : BlkStatus) : (s.endHeld st h).media.table = s.media.table := by
  unfold State.endHeld
  dsimp only
  generalize ended : (if st == .ok then (s.onMedia fun m => { m with held := m.held.erase h }).touch h.unit
    (if h.op = .read then sectorsOf h.first h.count else []) else s.onMedia fun m => { m with held := m.held.erase h }) = a
  have table : a.media.table = s.media.table := by
    rw [← ended]
    split <;> rfl
  obtain ⟨blk, replied⟩ := blkReply_media a h.domain h.mac (blkReplyBytes blkRequestType h.unit.val h.op.code h.count h.tag h.first st
    (if st == .ok then s.media.readData h.unit (if h.op = .read then sectorsOf h.first h.count else []) else [])) st
  obtain ⟨ls, r, trimmed, -⟩ := trimN_media (s := a.blkReply h.mac h.domain (blkReplyBytes blkRequestType h.unit.val h.op.code h.count h.tag
    h.first st (if st == .ok then s.media.readData h.unit (if h.op = .read then sectorsOf h.first h.count else []) else [])) st)
    (a.blkReply h.mac h.domain (blkReplyBytes blkRequestType h.unit.val h.op.code h.count h.tag
    h.first st (if st == .ok then s.media.readData h.unit (if h.op = .read then sectorsOf h.first h.count else []) else [])) st).media.lines.length
  unfold State.trimExcess
  rw [trimmed, replied]
  exact table

theorem endHeldWhere_table (s : State) (p : Held → Bool) (st : BlkStatus) : (s.endHeldWhere p st).media.table = s.media.table := by
  unfold State.endHeldWhere
  generalize s.media.held.filter p = hs
  induction hs generalizing s with
  | nil => rfl
  | cons h hs ih => exact (ih _).trans (endHeld_table s h st)

theorem CacheBut.failFetch (but : CacheBut none s.media) (use : (s.media.table[e]).use = some t') (kind : t'.kind = .fetch) (t : Transfer) :
    CacheBut none (s.failFetch e t).media := by
  have freed := but.freeLines fun l => l.cond == .filling e
  obtain ⟨n, media⟩ := freeLines_media s fun l => l.cond == .filling e
  have uncovered : (s.freeLines fun l => l.cond == .filling e).media.Uncovered e := fun l member => by
    refine Classical.byContradiction fun covered => ?_
    obtain ⟨a, use', -, ⟨-, filling⟩ | ⟨flush, -⟩⟩ := freed.covered member (by simpa using covered)
    · rw [media] at member
      simpa [filling] using (List.mem_filter.mp member).2
    · rw [media] at use'
      obtain rfl := Option.some.inj (use.symm.trans use')
      exact nomatch kind.symm.trans flush
  unfold State.failFetch
  dsimp only
  generalize s.freeLines (fun l => l.cond == .filling e) = a at freed uncovered
  generalize (fun h : Held => h.op == .read && h.unit == t.region && h.awaiting.any
    ((s.media.lines.filter fun l => l.cond == .filling e).map fun l => l.sector).contains) = p
  obtain ⟨ls, r, blk, media, sub, -⟩ := endHeldWhere_media (st := .mediaError) nofun p a
  have ended := (Serves.endHeldWhere (u := none) a p .mediaError).cache freed
  have erred : CacheBut none ((a.endHeldWhere p .mediaError).setError t.region .fetchFailed t.missing.head?).media := ended.onRegion rfl
  refine CacheBut.countFailure (CacheBut.freeEntry (erred.same (Aside.onXfer ..).cache) fun l member => ?_) _
  have member : l ∈ (a.endHeldWhere p .mediaError).media.lines := member
  rw [media] at member
  exact uncovered l (sub.subset member)

theorem CacheBut.failFlush (but : CacheBut none s.media) (use : (s.media.table[e]).use = some t') (kind : t'.kind = .flush)
    (same : t.Same t') : CacheBut none (s.failFlush e t).media := by
  have met := but.met use
  rw [same.first, same.count, same.region] at met
  obtain ⟨returned, uncovered, table⟩ := releases_foldl (fun s y but flush => returnDirty_releases but flush y)
    ((sectorsOf t.first t.count).map (t.region, ·)) but ⟨t', use, kind⟩ met
  have idle : (((sectorsOf t.first t.count).map (t.region, ·)).foldl (State.returnDirty e) s).media.Idle e :=
    ⟨by rw [table, use]; nofun, uncovered⟩
  unfold State.failFlush
  dsimp only
  generalize ((sectorsOf t.first t.count).map (t.region, ·)).foldl (State.returnDirty e) s = a at returned idle
  generalize (s.media.lines.any (CacheLine.coveredBy e) && decide ((s.media.regions[t.region]).failures + 1 < Config.failureLimit)) = b
  have erred : CacheBut none ((a.runJoined b).setError t.region .flushFailed (some t.first)).media := (returned.runJoined b).onRegion rfl
  have out : (a.runJoined b).media.Uncovered e := (Idle.runJoined b returned idle).2
  exact CacheBut.countFailure (CacheBut.freeEntry (erred.same (Aside.onXfer ..).cache) out) _

theorem CacheBut.failAttach (but : CacheBut none s.media) (attaching : (s.media.regions[g]).state = .attaching)
    (none : s.media.inquiriesOf g = 0) (code : ErrorCode) : CacheBut Option.none (s.failAttach g code).media := by
  have erred : CacheBut Option.none (s.setError g code Option.none).media := but.onRegion rfl
  refine erred.endAttach ?_ none .detached
  show ((s.media.regions.set g _)[g]).state = _
  rw [getElem_regions_set, if_pos rfl, attaching]

theorem CacheBut.failTransfer (but : CacheBut none s.media) (use : (s.media.table[e]).use = some t') (same : t.Same t') :
    CacheBut none (s.failTransfer e t).media := by
  unfold State.failTransfer
  split
  · rename_i kind
    exact but.failFetch use (same.kind.trans kind) t
  · rename_i kind
    exact but.failFlush use (same.kind.trans kind) same
  · rename_i kind
    obtain ⟨freed, attaching, none⟩ := but.endInquiry use (same.kind.trans kind) same.region
    exact freed.failAttach attaching none _

theorem CacheBut.judgeAttempt (but : CacheBut none s.media) (use : (s.media.table[e]).use = some t) :
    CacheBut none (s.judgeAttempt e t).media := by
  by_cases more : t.attempts ≤ s.media.retryCount
  · rw [judgeAttempt_of_more more]
    have set := but.setTransfer (t' := { t with deadline := none, attempts := t.attempts + 1 }) use ⟨rfl, rfl, rfl, rfl⟩
      fun l member filling => but.fresh use l member filling
    exact set.same ⟨rfl, rfl, fun _ => rfl, fun _ => rfl, rfl, rfl⟩
  · rw [judgeAttempt_of_last (Nat.lt_of_not_le more)]
    have set := but.setTransfer (t' := { t with deadline := none }) use ⟨rfl, rfl, rfl, rfl⟩
      fun l member filling => but.fresh use l member filling
    exact set.failTransfer (setTransfer_use ..) ⟨rfl, rfl, rfl, rfl⟩

theorem CacheBut.transferDeadline (but : CacheBut none s.media) (e : Fin 16) : CacheBut none (s.transferDeadline e).media := by
  unfold State.transferDeadline
  split
  · exact but
  rename_i t use
  split
  · exact but
  split
  · exact CacheBut.judgeAttempt (but.same (Aside.onXfer ..).cache) use
  · exact but

/-! ### Answers (R128 to R131) -/

theorem CacheBut.refusal (but : CacheBut none s.media) (use : (s.media.table[e]).use = some t) : CacheBut none (s.refusal e t).media :=
  CacheBut.judgeAttempt (but.same (Aside.onXfer ..).cache) use

theorem CacheBut.inquiryAnswered (but : CacheBut none s.media) (use : (s.media.table[e]).use = some t) (kind : t.kind = .inquire)
    (p : List Byte) : CacheBut none (s.inquiryAnswered e t p).media := by
  obtain ⟨freed, attaching, none⟩ := but.endInquiry use kind rfl
  unfold State.inquiryAnswered
  dsimp only
  split
  · exact freed.failAttach attaching none _
  split
  · exact freed.failAttach attaching none _
  · have told : CacheBut Option.none ((s.freeEntry e).onRegion t.region fun r => { r with sectors := fieldAt 9 4 p, writable := flagAt 8 p }).media :=
      freed.onRegion rfl
    refine told.endAttach ?_ none .attached
    show (((s.freeEntry e).media.regions.set t.region _)[t.region]).state = _
    rw [getElem_regions_set, if_pos rfl, attaching]

/-- The sector's line takes the data. -/
def filled (g : Fin 4) (x : Nat) (data : List Byte) (l : CacheLine) : CacheLine :=
  if l.isFor g x then { l with cond := .clean, data := data } else l

theorem CacheBut.fillSector {x : Nat} {data : List Byte} {l : CacheLine} (but : CacheBut u s.media) (use : (s.media.table[e]).use = some t)
    (found : s.media.findLine t.region x = some l) (filling : l.cond = .filling e) :
    CacheBut u ((s.setTransfer e { t with received := t.received ++ [x] }).onLineOf t.region x fun l =>
      { l with cond := .clean, data := data }).media := by
  obtain ⟨there, region, sector⟩ := mem_of_findLine found
  have mine : ∀ k ∈ s.media.lines, k.isFor t.region x = true → k = l := fun k member here =>
    line_unique but.lines member there ((isFor_iff.mp here).1.trans region.symm) ((isFor_iff.mp here).2.trans sector.symm)
  refine but.relabel (f := filled t.region x data) rfl (fun k => ?_) (fun k member dirty => ?_) but.dirtyOnce (fun h y => ?_)
    (fun k member => ?_) (fewer_setTransfer rfl use ⟨rfl, rfl, rfl, rfl⟩) rfl rfl rfl
  · unfold filled
    split <;> exact ⟨rfl, rfl⟩
  · unfold filled at dirty
    split at dirty
    · exact nomatch dirty
    · exact dirty
  · refine (but.dirtyListed h y).trans (exists_congr fun k => and_congr_right fun member => and_congr_right fun _ =>
      and_congr_right fun _ => ?_)
    unfold filled
    split
    · rename_i here
      rw [mine k member here, filling]
      exact ⟨nofun, nofun⟩
    · exact .rfl
  · unfold filled
    split
    · exact ⟨nofun, fun d flushing => by rcases flushing with h | h <;> exact nomatch h⟩
    · rename_i other
      refine carries_setTransfer (but.carried k member) rfl use ⟨rfl, rfl, rfl, rfl⟩ fun filling' => ?_
      rw [List.mem_append, List.mem_singleton, not_or]
      refine ⟨but.fresh use k member filling', fun same => other (isFor_iff.mpr ⟨?_, same⟩)⟩
      obtain ⟨a, use', -, ⟨region', -⟩, -⟩ := (but.carried k member).filling e filling'
      obtain rfl := Option.some.inj (use.symm.trans use')
      exact region'.symm

/-- A FETCH stays while its sectors are taken. -/
def Media.IsFetch (m : Media) (e : Fin 16) : Prop := ∃ t, (m.table[e]).use = some t ∧ t.kind = .fetch

theorem CacheBut.takeSector (but : CacheBut u s.media) (fetch : s.media.IsFetch e) (x : Nat × List Byte) :
    CacheBut u (s.takeSector e x).media ∧ (s.takeSector e x).media.IsFetch e := by
  obtain ⟨t, use, kind⟩ := fetch
  have counted : ∀ f, CacheBut u (s.onXfer f).media ∧ (s.onXfer f).media.IsFetch e := fun f =>
    ⟨but.same (Aside.onXfer s f).cache, t, use, kind⟩
  have marked : (∀ l ∈ s.media.lines, l.cond = .filling e → l.sector ≠ x.1) → ∀ f,
      CacheBut u ((s.setTransfer e { t with received := t.received ++ [x.1] }).onXfer f).media ∧
      ((s.setTransfer e { t with received := t.received ++ [x.1] }).onXfer f).media.IsFetch e := fun others f => by
    have set := but.setTransfer (t' := { t with received := t.received ++ [x.1] }) use ⟨rfl, rfl, rfl, rfl⟩ fun l member filling => by
      rw [List.mem_append, List.mem_singleton, not_or]
      exact ⟨but.fresh use l member filling, others l member filling⟩
    exact ⟨set.same (Aside.onXfer _ f).cache, _, setTransfer_use .., kind⟩
  have region : ∀ l ∈ s.media.lines, l.cond = .filling e → l.region = t.region := fun l member filling => by
    obtain ⟨a, use', -, ⟨region, -⟩, -⟩ := (but.carried l member).filling e filling
    obtain rfl := Option.some.inj (use.symm.trans use')
    exact region.symm
  unfold State.takeSector
  rw [use]
  dsimp only
  split
  · exact counted _
  split
  · exact counted _
  split
  · rename_i none
    exact marked (fun l member filling same => not_mem_of_findLine_none none member ⟨region l member filling, same⟩) _
  · rename_i l found
    split
    · rename_i filling
      have filled := but.fillSector (data := x.2) use found filling
      refine ⟨(Serves.trimExcess _).cache ((Serves.sectorArrived ..).cache filled), { t with received := t.received ++ [x.1] }, ?_, kind⟩
      · obtain ⟨ls, r, trimmed, -⟩ := trimN_media (s := ((s.setTransfer e { t with received := t.received ++ [x.1] }).onLineOf t.region x.1
          fun l => { l with cond := .clean, data := x.2 }).sectorArrived t.region x.1) (((s.setTransfer e { t with
          received := t.received ++ [x.1] }).onLineOf t.region x.1 fun l => { l with cond := .clean, data := x.2 }).sectorArrived
          t.region x.1).media.lines.length
        unfold State.trimExcess
        rw [trimmed]
        dsimp only
        unfold State.sectorArrived
        rw [endHeldWhere_table]
        exact setTransfer_use ..
    · rename_i other
      refine marked (fun k member filling same => other ?_) _
      obtain ⟨there, region', sector⟩ := mem_of_findLine found
      rwa [← line_unique but.lines member there ((region k member filling).trans region'.symm) (same.trans sector.symm)]

theorem CacheBut.completeFetch (but : CacheBut none s.media) (fetch : s.media.IsFetch e) : CacheBut none (s.completeFetch e).media := by
  obtain ⟨t, use, kind⟩ := fetch
  unfold State.completeFetch
  rw [use]
  dsimp only
  split
  · rename_i all
    have freed : CacheBut none (s.freeEntry e).media := but.freeEntry fun l member => by
      refine Classical.byContradiction fun covered => ?_
      obtain ⟨a, use', ⟨-, least, most⟩, ⟨-, filling⟩ | ⟨flush, -⟩⟩ := but.covered member (by simpa using covered)
      · obtain rfl := Option.some.inj (use.symm.trans use')
        exact but.fresh use l member filling (missing_nil_iff.mp (List.isEmpty_iff.mp all) l.sector least most)
      · obtain rfl := Option.some.inj (use.symm.trans use')
        exact nomatch kind.symm.trans flush
    exact CacheBut.countCompletion (freed.same (Aside.onXfer ..).cache) _
  · exact but

theorem CacheBut.dataAnswered (but : CacheBut none s.media) (use : (s.media.table[e]).use = some t) (kind : t.kind = .fetch) (p : List Byte) :
    CacheBut none (s.dataAnswered e t p).media := by
  have taken : ∀ (xs : List (Nat × List Byte)) (a : State), CacheBut none a.media → a.media.IsFetch e →
      CacheBut none (xs.foldl (State.takeSector e) a).media ∧ (xs.foldl (State.takeSector e) a).media.IsFetch e := fun xs => by
    induction xs with
    | nil => exact fun a but fetch => ⟨but, fetch⟩
    | cons x xs ih =>
      intro a but fetch
      obtain ⟨but, fetch⟩ := but.takeSector fetch x
      exact ih _ but fetch
  unfold State.dataAnswered
  split
  · exact but.refusal use
  · obtain ⟨but, fetch⟩ := taken (imgSectors (fieldAt 8 1 p) (p.drop 9)) s but ⟨t, use, kind⟩
    exact but.completeFetch fetch

theorem CacheBut.ackAnswered (but : CacheBut none s.media) (use : (s.media.table[e]).use = some t) (kind : t.kind = .flush) (p : List Byte) :
    CacheBut none (s.ackAnswered e t p).media := by
  obtain ⟨released, uncovered, table⟩ := releases_foldl (fun s y but flush => acknowledge_releases but flush y)
    ((sectorsOf t.first t.count).map (t.region, ·)) but ⟨t, use, kind⟩ (but.met use)
  have idle : (((sectorsOf t.first t.count).map (t.region, ·)).foldl (State.acknowledge e) s).media.Idle e :=
    ⟨by rw [table, use]; nofun, uncovered⟩
  unfold State.ackAnswered
  split
  · exact but.refusal use
  · dsimp only
    generalize ((sectorsOf t.first t.count).map (t.region, ·)).foldl (State.acknowledge e) s = a at released idle
    generalize (s.media.lines.any fun l => l.cond == .redirtied e) = b
    have out : (a.runJoined b).media.Uncovered e := (Idle.runJoined b released idle).2
    have freed := CacheBut.freeEntry (released.runJoined b) out
    exact CacheBut.settleRegion (CacheBut.countCompletion (freed.same (Aside.onXfer ..).cache) _) _

end

end Sys2Proof.Machine
end

section
/-! A WRITE in the sector cache: the lines had for it, and its sectors stored (R109, R115, R116). -/

namespace Sys2Proof.Machine

/-! ### Lines and sectors -/

/-- A line is of a region and one of the sectors. -/
def among (g : Fin 4) (xs : List Nat) (l : CacheLine) : Bool := l.region == g && xs.contains l.sector

theorem among_iff {g : Fin 4} {xs : List Nat} {l : CacheLine} : among g xs l = true ↔ l.region = g ∧ l.sector ∈ xs := by
  simp [among]

theorem not_among_iff {g : Fin 4} {xs : List Nat} {l : CacheLine} : (!among g xs l) = true ↔ ¬ (l.region = g ∧ l.sector ∈ xs) := by
  rw [Bool.not_eq_true', ← Bool.not_eq_true, among_iff]

theorem filter_not_nil (g : Fin 4) (ls : List CacheLine) : ls.filter (fun l => !among g [] l) = ls :=
  List.filter_eq_self.mpr fun _ _ => not_among_iff.mpr fun both => nomatch both.2

/-- One of each sector, so one of this one. -/
theorem filter_isFor {ls : List CacheLine} (once : (ls.map fun l => (l.region, l.sector)).Nodup) {l : CacheLine} (member : l ∈ ls)
    {g : Fin 4} {x : Nat} (here : l.isFor g x = true) : ls.filter (CacheLine.isFor g x) = [l] := by
  refine List.perm_singleton.mp ((List.perm_ext_iff_of_nodup ((nodup_of_nodup_map once).filter _) (List.pairwise_singleton _ l)).mpr fun k => ?_)
  rw [List.mem_filter, List.mem_singleton]
  constructor
  · rintro ⟨there, here'⟩
    obtain ⟨region, sector⟩ := isFor_iff.mp here
    obtain ⟨region', sector'⟩ := isFor_iff.mp here'
    exact eq_of_nodup_map once there member (Prod.ext (region'.trans region.symm) (sector'.trans sector.symm))
  · rintro rfl
    exact ⟨member, here⟩

/-! ### Lines had (R109) -/

/-- What lines had for some sectors leave of the lines that were. -/
structure Obtained (g : Fin 4) (before after : List CacheLine) (got : List Nat) : Prop where
  old : (after.filter fun l => !among g got l).Sublist before
  kept : ∀ l ∈ before, l.cond ≠ .clean → l ∈ after
  new : ∀ l ∈ after, l.region = g → l.sector ∈ got → l.cond = .dirty
  once : (after.map fun l => (l.region, l.sector)).Nodup
  fresh : ∀ x ∈ got, ∀ l ∈ before, l.isFor g x = true → l.cond = .clean

section
variable {u : Option (Fin 4)} {m : Media} {s t : State} {g : Fin 4} {x : Nat} {joins : List Nat}

theorem obtainLine_obtained (once : OneLineEach s.media) : ∃ ls, s.obtainLine.2.media = { s.media with lines := ls } ∧
    ls.Sublist s.media.lines ∧ (∀ l ∈ s.media.lines, l.cond ≠ .clean → l ∈ ls) := by
  rcases obtainLine_media s with same | ⟨l, member, clean, same⟩
  · exact ⟨s.media.lines, same, .refl _, fun _ there _ => there⟩
  · refine ⟨_, same, List.filter_sublist, fun k there dirty => List.mem_filter.mpr ⟨there, ?_⟩⟩
    rw [Bool.not_eq_true', ← Bool.not_eq_true, isFor_iff]
    rintro ⟨region, sector⟩
    exact dirty (line_unique once there member region sector ▸ clean)

theorem writeLines_obtained (g : Fin 4) (xs : List Nat) (once : OneLineEach s.media) : ∃ ls,
    (s.writeLines g xs).2.media = { s.media with lines := ls } ∧ Obtained g s.media.lines ls (s.writeLines g xs).1.2 ∧
    (s.writeLines g xs).1.2 ⊆ xs := by
  induction xs generalizing s with
  | nil => exact ⟨s.media.lines, rfl, ⟨sublist_of_eq (by rw [State.writeLines, filter_not_nil]), fun _ there _ => there, nofun, once, nofun⟩, fun _ => id⟩
  | cons x xs ih =>
    by_cases found : (s.media.findLine g x).isSome = true
    · obtain ⟨ls, media, obtained, sub⟩ := ih once
      rw [State.writeLines, if_pos found]
      exact ⟨ls, media, obtained, fun y member => List.mem_cons_of_mem x (sub member)⟩
    · have missing := missing_of_findLine found
      obtain ⟨ls, media, sub, kept⟩ := obtainLine_obtained once
      have onceLeft : (ls.map fun l => (l.region, l.sector)).Nodup := (sub.map _).nodup once
      rw [State.writeLines, if_neg found]
      cases granted : s.obtainLine with
      | mk had t =>
        rw [granted] at media
        cases had with
        | false =>
          refine ⟨ls, media, ⟨?_, kept, nofun, onceLeft, nofun⟩, nofun⟩
          rw [filter_not_nil]
          exact sub
        | true =>
          have lines : (t.addLine ⟨g, x, .dirty, []⟩).media.lines = ls ++ [⟨g, x, .dirty, []⟩] := by
            show t.media.lines ++ _ = _
            rw [media]
          have onceAdded : OneLineEach (t.addLine ⟨g, x, .dirty, []⟩).media := by
            unfold OneLineEach
            rw [lines, List.map_append, List.map_singleton, List.nodup_append]
            refine ⟨onceLeft, List.pairwise_singleton _ _, fun a old b new same => ?_⟩
            obtain ⟨l, member, rfl⟩ := List.mem_map.mp old
            obtain rfl := List.mem_singleton.mp new
            obtain ⟨region, sector⟩ := Prod.mk.inj same
            exact nomatch (missing l (sub.subset member)).symm.trans (isFor_iff.mpr ⟨region, sector⟩)
          obtain ⟨ls', media', obtained, sub'⟩ := ih onceAdded
          have others : ∀ l ∈ ls, l.isFor g x = false := fun l member => missing l (sub.subset member)
          dsimp only
          generalize (t.addLine ⟨g, x, .dirty, []⟩).writeLines g xs = r at media' obtained sub'
          rw [lines] at obtained
          refine ⟨ls', ?_, ⟨?_, fun l there dirty => ?_, fun l there region sector => ?_, obtained.once, fun y member l there here => ?_⟩,
            List.cons_subset_cons x sub'⟩
          · rw [media']
            show ({ t.media with lines := ls' } : Media) = _
            rw [media]
          · have split : (ls'.filter fun l => !among g (x :: r.1.2) l) = (ls'.filter fun l => !among g r.1.2 l).filter fun l => !l.isFor g x := by
              rw [List.filter_filter]
              refine List.filter_congr fun l _ => Bool.eq_iff_iff.mpr ?_
              rw [Bool.and_eq_true, not_among_iff, not_among_iff, Bool.not_eq_true', ← Bool.not_eq_true, isFor_iff, List.mem_cons]
              rw [← not_or, ← and_or_left]
            have without : ((ls ++ [(⟨g, x, .dirty, []⟩ : CacheLine)]).filter fun l => !CacheLine.isFor g x l) = ls := by
              rw [List.filter_append, List.filter_eq_self.mpr fun l member => by rw [others l member]; rfl,
                List.filter_eq_nil_iff.mpr fun l member => ?_, List.append_nil]
              obtain rfl := List.mem_singleton.mp member
              simp [CacheLine.isFor]
            rw [split]
            exact ((obtained.old.filter _).trans (sublist_of_eq without)).trans sub
          · exact obtained.kept l (List.mem_append_left _ (kept l there dirty)) dirty
          · rcases List.mem_cons.mp sector with here | later
            · have added := obtained.kept ⟨g, x, .dirty, []⟩ (List.mem_append_right ls List.mem_cons_self) nofun
              rw [eq_of_nodup_map obtained.once there added (Prod.ext region here)]
            · exact obtained.new l there region later
          · rcases List.mem_cons.mp member with rfl | later
            · exact nomatch (missing l there).symm.trans here
            · refine Classical.byContradiction fun dirty => ?_
              exact dirty (obtained.fresh y later l (List.mem_append_left _ (kept l there dirty)) here)

/-- Lines had in vain are freed. -/
theorem CacheBut.giveBack {xs : List Nat} (but : CacheBut u s.media) :
    CacheBut u ((s.writeLines g xs).2.freeLines fun l => l.region == g && (s.writeLines g xs).1.2.contains l.sector).media := by
  obtain ⟨ls, media, obtained, -⟩ := writeLines_obtained g xs but.lines
  generalize s.writeLines g xs = r at media obtained
  obtain ⟨n, freed⟩ := freeLines_media r.2 fun l => l.region == g && r.1.2.contains l.sector
  have kept : ∀ l ∈ s.media.lines, l.cond = .dirty → l ∈ ls ∧ ¬ (l.region = g ∧ l.sector ∈ r.1.2) := fun l member dirty =>
    ⟨obtained.kept l member (by rw [dirty]; nofun), fun ⟨region, sector⟩ => by
      have clean := obtained.fresh l.sector sector l member (isFor_iff.mpr ⟨region, rfl⟩)
      exact nomatch dirty.symm.trans clean⟩
  rw [freed, media]
  refine but.shrink (.of_sublist obtained.old) List.filter_sublist (fun h y => ?_)
    (fun l member => carries_of_same (but.carried l (obtained.old.subset member)) fun _ _ => rfl) (.of_undated fun _ => .inr rfl)
    (fun _ => rfl) (fun h member => ⟨h, member, rfl⟩) (.refl _)
  rw [List.mem_filter, but.dirtyListed h y]
  constructor
  · rintro ⟨⟨l, member, region, sector, dirty⟩, -⟩
    obtain ⟨there, out⟩ := kept l member dirty
    exact ⟨l, List.mem_filter.mpr ⟨there, not_among_iff.mpr out⟩, region, sector, dirty⟩
  · rintro ⟨l, member, region, sector, dirty⟩
    refine ⟨⟨l, obtained.old.subset member, region, sector, dirty⟩, ?_⟩
    obtain ⟨there, out⟩ := List.mem_filter.mp member
    rw [Bool.not_eq_true', List.any_eq_false]
    intro k gone isFor
    obtain ⟨there', took⟩ := List.mem_filter.mp gone
    obtain ⟨region', sector'⟩ := isFor_iff.mp isFor
    have same := eq_of_nodup_map obtained.once there' there (Prod.ext (region'.trans region.symm) (sector'.trans sector.symm))
    rw [same] at took
    simp only [took, Bool.not_true, Bool.false_eq_true] at out

/-! ### Every sector has its line (R109) -/

/-- A line of the sector that no eviction takes. -/
def State.Solid (s : State) (g : Fin 4) (x : Nat) : Prop := ∃ l ∈ s.media.lines, l.isFor g x = true ∧ l.cond ≠ .clean

/-- A line of the sector. -/
def State.Present (s : State) (g : Fin 4) (x : Nat) : Prop := ∃ l ∈ s.media.lines, l.isFor g x = true

theorem present_iff : s.Present g x ↔ (s.media.findLine g x).isSome = true := by
  rw [Media.findLine, List.find?_isSome]
  exact ⟨fun ⟨l, member, here⟩ => ⟨l, member, here⟩, fun ⟨l, member, here⟩ => ⟨l, member, here⟩⟩

theorem State.Solid.present (solid : s.Solid g x) : s.Present g x := by
  obtain ⟨l, member, here, -⟩ := solid
  exact ⟨l, member, here⟩

/-- Where all lines are had, the first sector has its line, and lines that are not CLEAN stay. -/
theorem writeLines_first {xs got : List Nat} (once : OneLineEach s.media) (all : s.writeLines g (x :: xs) = ((true, got), t)) :
    ∃ s' got', s'.writeLines g xs = ((true, got'), t) ∧ OneLineEach s'.media ∧
      (s.Present g x ∧ s' = s ∨ s'.Solid g x ∧ ¬ s.Present g x) ∧ ∀ y, s.Solid g y → s'.Solid g y := by
  by_cases found : (s.media.findLine g x).isSome = true
  · rw [State.writeLines, if_pos found] at all
    exact ⟨s, got, all, once, .inl ⟨present_iff.mpr found, rfl⟩, fun _ => id⟩
  · obtain ⟨ls, media, sub, kept⟩ := obtainLine_obtained once
    have missing := missing_of_findLine found
    rw [State.writeLines, if_neg found] at all
    cases granted : s.obtainLine with
    | mk had a =>
      rw [granted] at all media
      cases had with
      | false => exact nomatch (Prod.mk.inj (Prod.mk.inj all).1).1
      | true =>
        obtain ⟨ok, same⟩ := Prod.mk.inj all
        obtain ⟨ok, -⟩ := Prod.mk.inj ok
        have lines : (a.addLine ⟨g, x, .dirty, []⟩).media.lines = ls ++ [⟨g, x, .dirty, []⟩] := by
          show a.media.lines ++ _ = _
          rw [media]
        refine ⟨a.addLine ⟨g, x, .dirty, []⟩, ((a.addLine ⟨g, x, .dirty, []⟩).writeLines g xs).1.2,
          Prod.ext (Prod.ext ok rfl) same, ?_, .inr ⟨⟨⟨g, x, .dirty, []⟩, ?_, ?_, ?_⟩, fun present => found (present_iff.mp present)⟩, fun y => ?_⟩
        · unfold OneLineEach
          rw [lines, List.map_append, List.map_singleton, List.nodup_append]
          refine ⟨(sub.map _).nodup once, List.pairwise_singleton _ _, fun a old b new same => ?_⟩
          obtain ⟨l, member, rfl⟩ := List.mem_map.mp old
          obtain rfl := List.mem_singleton.mp new
          obtain ⟨region, sector⟩ := Prod.mk.inj same
          exact nomatch (missing l (sub.subset member)).symm.trans (isFor_iff.mpr ⟨region, sector⟩)
        · rw [lines]
          exact List.mem_append_right ls List.mem_cons_self
        · exact isFor_iff.mpr ⟨rfl, rfl⟩
        · exact nofun
        · rintro ⟨l, member, here, dirty⟩
          refine ⟨l, ?_, here, dirty⟩
          rw [lines]
          exact List.mem_append_left _ (kept l member dirty)

/-- A second look finds each of two sectors' lines (R109, notes/assumptions/20.md). -/
theorem writeLines_present {r : BlkRequest} {got : List Nat} (count : r.count = 1 ∨ r.count = 2) (once : OneLineEach s.media)
    (all : s.writeLines g (sectorsOf r.first r.count ++ sectorsOf r.first r.count) = ((true, got), t)) :
    ∀ x ∈ sectorsOf r.first r.count, t.Present g x := by
  have nothing : ∀ {s' : State} {got'}, s'.writeLines g [] = ((true, got'), t) → t = s' := fun all => (Prod.mk.inj all).2.symm
  rcases count with one | two
  · have sectors : sectorsOf r.first r.count = [r.first] := by rw [one]; rfl
    rw [sectors] at all ⊢
    intro x member
    obtain rfl := List.mem_singleton.mp member
    obtain ⟨s1, got1, all, once, -, -⟩ := writeLines_first once all
    obtain ⟨s2, got2, all, -, here, -⟩ := writeLines_first once all
    rw [nothing all]
    rcases here with ⟨present, same⟩ | ⟨solid, -⟩
    · exact same ▸ present
    · exact solid.present
  · have sectors : sectorsOf r.first r.count = [r.first, r.first + 1] := by rw [two]; rfl
    rw [sectors] at all ⊢
    obtain ⟨s1, got1, all, once, -, -⟩ := writeLines_first once all
    obtain ⟨s2, got2, all, once, second, -⟩ := writeLines_first once all
    obtain ⟨s3, got3, all, once, first, solid3⟩ := writeLines_first once all
    obtain ⟨s4, got4, all, -, last, solid4⟩ := writeLines_first once all
    rw [nothing all]
    have present2 : s2.Present g (r.first + 1) := by
      rcases second with ⟨present, same⟩ | ⟨solid, -⟩
      · exact same ▸ present
      · exact solid.present
    intro x member
    rcases List.mem_cons.mp member with rfl | member
    · rcases first with ⟨present, same⟩ | ⟨solid, -⟩
      · rcases last with ⟨-, same'⟩ | ⟨-, absent⟩
        · rw [same', same]
          exact present
        · exact (absent (same ▸ present2)).elim
      · exact (solid4 _ solid).present
    · obtain rfl := List.mem_singleton.mp member
      rcases last with ⟨present, same⟩ | ⟨solid, -⟩
      · exact same ▸ present
      · exact solid.present

end

end Sys2Proof.Machine
end

section
/-! The sectors of a WRITE stored in the sector cache (R109, R115, R116, R133). -/

namespace Sys2Proof.Machine

section
variable {u : Option (Fin 4)} {m m' : Media} {s t : State} {g : Fin 4} {x : Nat} {joins : List Nat}

/-- The line of a written sector. -/
def stored (data : List Byte) (l : CacheLine) : CacheLine := { l with data := data, cond := l.cond.written }

/-- The line of a written sector among the lines. -/
def restored (g : Fin 4) (x : Nat) (data : List Byte) (l : CacheLine) : CacheLine := if l.isFor g x then stored data l else l

theorem restored_keys (g : Fin 4) (x : Nat) (data : List Byte) (l : CacheLine) :
    (restored g x data l).region = l.region ∧ (restored g x data l).sector = l.sector := by
  unfold restored
  split <;> exact ⟨rfl, rfl⟩

theorem map_restored_of_others {data : List Byte} {ls : List CacheLine} (others : ∀ l ∈ ls, l.isFor g x = false) :
    ls.map (restored g x data) = ls := by
  refine (List.map_congr_left fun l member => ?_).trans (List.map_id ls)
  rw [restored, others l member]
  rfl

/-- The line written stands at the recent end. -/
theorem storeSector_eq (s : State) (g : Fin 4) (joins : List Nat) (x : Nat) (data : List Byte) :
    s.storeSector g joins (x, data) = s.onMedia fun m => { m with
      lines := (m.lines.filter fun l => !l.isFor g x) ++ (m.lines.filter (CacheLine.isFor g x)).map (stored data)
      dirtyOrder := if x ∈ joins then m.dirtyOrder ++ [(g, x)] else m.dirtyOrder } := by
  have isFor : ∀ l, (restored g x data l).isFor g x = l.isFor g x := fun l => by
    obtain ⟨region, sector⟩ := restored_keys g x data l
    rw [CacheLine.isFor, CacheLine.isFor, region, sector]
  have keep : (s.media.lines.filter fun l => !l.isFor g x) = (s.media.lines.map (restored g x data)).filter fun l => !l.isFor g x := by
    rw [List.filter_map, show ((fun l => !CacheLine.isFor g x l) ∘ restored g x data) = fun l => !CacheLine.isFor g x l from
      funext fun l => congrArg _ (isFor l)]
    exact (map_restored_of_others fun l member => by simpa using (List.mem_filter.mp member).2).symm
  have take : (s.media.lines.filter (CacheLine.isFor g x)).map (stored data) =
      (s.media.lines.map (restored g x data)).filter (CacheLine.isFor g x) := by
    rw [List.filter_map, show (CacheLine.isFor g x ∘ restored g x data) = CacheLine.isFor g x from funext isFor]
    exact List.map_congr_left fun l member => (if_pos (List.mem_filter.mp member).2).symm
  have lines : (s.media.lines.filter fun l => !l.isFor g x) ++ (s.media.lines.filter (CacheLine.isFor g x)).map (stored data) =
      touchLine g x (s.media.lines.map (restored g x data)) := by
    rw [keep, take]
    rfl
  unfold State.storeSector
  dsimp only
  by_cases join : x ∈ joins
  · rw [if_pos (List.contains_iff_mem.mpr join)]
    simp only [if_pos join]
    exact congrArg (fun ls => s.onMedia fun m => { m with lines := ls, dirtyOrder := m.dirtyOrder ++ [(g, x)] }) lines.symm
  · rw [if_neg fun c => join (List.contains_iff_mem.mp c)]
    simp only [if_neg join]
    exact congrArg (fun ls => s.onMedia fun m => { m with lines := ls }) lines.symm

theorem countP_snoc_le (p : CacheLine → Bool) (ls : List CacheLine) (l : CacheLine) : (ls ++ [l]).countP p ≤ ls.countP p + 1 := by
  rw [List.countP_append]
  exact Nat.add_le_add_left (List.countP_le_length ..) _

/-- A DIRTY line enters the cache, at the tail of the dirty order. -/
theorem CacheBut.addDirty {l : CacheLine} (but : CacheBut u m) (missing : ∀ k ∈ m.lines, k.isFor l.region l.sector = false)
    (serving : (m.regions[l.region]).state ≠ .detached ∧ (m.regions[l.region]).state ≠ .attaching) (few : m.dirtyCount < 256)
    (dirty : l.cond = .dirty) :
    CacheBut u { m with lines := m.lines ++ [l], dirtyOrder := m.dirtyOrder ++ [(l.region, l.sector)] } where
  lines := by
    show ((m.lines ++ [l]).map fun l => (l.region, l.sector)).Nodup
    rw [List.map_append, List.map_singleton, List.nodup_append]
    refine ⟨but.lines, List.pairwise_singleton _ _, fun a old b new same => ?_⟩
    obtain ⟨k, member, rfl⟩ := List.mem_map.mp old
    obtain rfl := List.mem_singleton.mp new
    exact nomatch (missing k member).symm.trans (isFor_iff.mpr (Prod.mk.inj same))
  dirtyOnce := by
    refine List.nodup_append.mpr ⟨but.dirtyOnce, List.pairwise_singleton _ _, fun a old b new same => ?_⟩
    obtain rfl := List.mem_singleton.mp new
    subst same
    obtain ⟨k, member, region, sector, -⟩ := (but.dirtyListed _ _).mp old
    exact nomatch (missing k member).symm.trans (isFor_iff.mpr ⟨region, sector⟩)
  dirtyListed h y := by
    show (h, y) ∈ m.dirtyOrder ++ [(l.region, l.sector)] ↔ ∃ k ∈ m.lines ++ [l], _
    rw [List.mem_append, but.dirtyListed h y, List.mem_singleton]
    constructor
    · rintro (⟨k, member, is⟩ | same)
      · exact ⟨k, List.mem_append_left _ member, is⟩
      · obtain ⟨rfl, rfl⟩ := Prod.mk.inj same
        exact ⟨l, List.mem_append_right _ List.mem_cons_self, rfl, rfl, dirty⟩
    · rintro ⟨k, member, region, sector, is⟩
      rcases List.mem_append.mp member with old | new
      · exact .inl ⟨k, old, region, sector, is⟩
      · obtain rfl := List.mem_singleton.mp new
        exact .inr (Prod.ext region.symm sector.symm)
  dirtyLimit := Nat.le_trans (countP_snoc_le ..) few
  carried k member := by
    rcases List.mem_append.mp member with old | new
    · exact carries_of_same (but.carried k old) fun _ _ => rfl
    · obtain rfl := List.mem_singleton.mp new
      refine ⟨fun d filling => ?_, fun d flushing => ?_⟩
      · exact nomatch dirty.symm.trans filling
      · rcases flushing with h | h <;> exact nomatch dirty.symm.trans h
  lineRegions k member := by
    rcases List.mem_append.mp member with old | new
    · exact but.lineRegions k old
    · obtain rfl := List.mem_singleton.mp new
      exact serving
  held := but.held
  fetches := but.fetches
  inquiries := but.inquiries

/-- Lines in another order. -/
theorem CacheBut.perm (but : CacheBut u m) {ls : List CacheLine} (perm : ls.Perm m.lines) : CacheBut u { m with lines := ls } :=
  but.shrink (.of_perm perm) (.refl _)
    (fun g x => (but.dirtyListed g x).trans (exists_congr fun _ => and_congr_left fun _ => perm.mem_iff.symm))
    (fun l member => carries_of_same (but.carried l (perm.mem_iff.mp member)) fun _ _ => rfl) (.of_undated fun _ => .inr rfl)
    (fun _ => rfl) (fun h member => ⟨h, member, rfl⟩) (.refl _)

/-! ### The sectors still to be stored -/

/-- The cache without the lines that will join the dirty order. -/
def Media.without (m : Media) (g : Fin 4) (pend : List Nat) : Media := { m with lines := m.lines.filter fun l => !among g pend l }

/-- A WRITE in the middle of its stores: `rem` are the sectors still to be stored, of which those in `joins` become DIRTY newly. -/
structure Storing (u : Option (Fin 4)) (g : Fin 4) (joins rem : List Nat) (m : Media) : Prop where
  cache : CacheBut u (m.without g (rem.filter joins.contains))
  once : OneLineEach m
  few : (m.without g (rem.filter joins.contains)).dirtyCount + (rem.filter joins.contains).length ≤ 256
  serving : (m.regions[g]).state ≠ .detached ∧ (m.regions[g]).state ≠ .attaching
  here : ∀ x ∈ rem, ∃ l ∈ m.lines, l.isFor g x = true ∧ (x ∈ joins → l.cond.written = .dirty) ∧ (x ∉ joins → l.cond.isDirty = true)

/-- A DIRTY, FLUSHING or REDIRTIED line that is written again (R109). -/
theorem CacheBut.rewrite {data : List Byte} {l : CacheLine} (but : CacheBut u m) (member : l ∈ m.lines) (dirty : l.cond.isDirty = true) :
    CacheBut u { m with lines := m.lines.map (restored l.region l.sector data) } := by
  have mine : ∀ k ∈ m.lines, k.isFor l.region l.sector = true → k = l := fun k there here =>
    line_unique but.lines there member (isFor_iff.mp here).1 (isFor_iff.mp here).2
  refine but.relabel (f := restored l.region l.sector data) rfl (restored_keys _ _ _) (fun k there isDirty => ?_) but.dirtyOnce
    (fun h y => ?_) (fun k there => ?_) (.of_undated fun _ => .inr rfl) rfl rfl rfl
  · by_cases here : k.isFor l.region l.sector = true
    · rw [mine k there here]
      exact dirty
    · rwa [restored, if_neg here] at isDirty
  · refine (but.dirtyListed h y).trans (exists_congr fun k => and_congr_right fun there => and_congr_right fun _ =>
      and_congr_right fun _ => ?_)
    by_cases here : k.isFor l.region l.sector = true
    · rw [restored, if_pos here, mine k there here]
      show _ ↔ l.cond.written = .dirty
      cases cond : l.cond with
      | filling e => rw [cond] at dirty; exact nomatch dirty
      | clean => rw [cond] at dirty; exact nomatch dirty
      | dirty => exact .rfl
      | flushing e => exact ⟨nofun, nofun⟩
      | redirtied e => exact ⟨nofun, nofun⟩
    · rw [restored, if_neg here]
  · by_cases here : k.isFor l.region l.sector = true
    · rw [restored, if_pos here, mine k there here]
      have carries := but.carried l member
      refine ⟨fun e filling => ?_, fun e flushing => ?_⟩
      · have filling : l.cond.written = .filling e := filling
        cases cond : l.cond <;> rw [cond] at filling <;> exact nomatch filling
      · refine carries.flushing e ?_
        have flushing : l.cond.written = .flushing e ∨ l.cond.written = .redirtied e := flushing
        cases cond : l.cond with
        | flushing d =>
          rw [cond] at flushing
          obtain rfl := LineCond.redirtied.inj (flushing.resolve_left nofun)
          exact .inl rfl
        | redirtied d =>
          rw [cond] at flushing
          exact .inr (flushing.resolve_left nofun)
        | _ =>
          rw [cond] at flushing
          rcases flushing with h | h <;> exact nomatch h
    · rw [restored, if_neg here]
      exact carries_of_same (but.carried k there) fun _ _ => rfl

theorem isDirty_written {c : LineCond} (dirty : c.isDirty = true) : c.written.isDirty = true := by
  cases c with
  | filling e => exact nomatch dirty
  | _ => rfl

theorem Storing.next {rem : List Nat} {data : List Byte} (storing : Storing u g joins (x :: rem) s.media) (fresh : x ∉ rem) :
    Storing u g joins rem (s.storeSector g joins (x, data)).media := by
  obtain ⟨cache, once, few, serving, here⟩ := storing
  obtain ⟨l, member, isFor, join, already⟩ := here x List.mem_cons_self
  have one := filter_isFor once member isFor
  obtain ⟨rfl, rfl⟩ := isFor_iff.mp isFor
  have perm : ((s.media.lines.filter fun k => !k.isFor l.region l.sector) ++ [l]).Perm s.media.lines := by
    rw [← one]
    exact List.perm_append_comm.trans (List.filter_append_perm _ _)
  have onceStored : (((s.media.lines.filter fun k => !k.isFor l.region l.sector) ++ [stored data l]).map fun l => (l.region, l.sector)).Nodup := by
    have keys := (perm.map fun l : CacheLine => (l.region, l.sector)).nodup_iff.mpr once
    rw [List.map_append] at keys ⊢
    exact keys
  have still : ∀ y ∈ rem, ∃ k ∈ (s.media.lines.filter fun k => !k.isFor l.region l.sector) ++ [stored data l], k.isFor l.region y = true ∧
      (y ∈ joins → k.cond.written = .dirty) ∧ (y ∉ joins → k.cond.isDirty = true) := fun y later => by
    obtain ⟨k, there, isFor', conds⟩ := here y (List.mem_cons_of_mem _ later)
    refine ⟨k, List.mem_append_left _ (List.mem_filter.mpr ⟨there, ?_⟩), isFor', conds⟩
    rw [Bool.not_eq_true', ← Bool.not_eq_true, isFor_iff]
    rintro ⟨-, same⟩
    exact fresh (same ▸ (isFor_iff.mp isFor').2 ▸ later)
  have others : ∀ pend, ∀ k ∈ s.media.lines.filter (fun k => !among l.region (l.sector :: pend) k), k.isFor l.region l.sector = false :=
    fun pend k there => by
      rw [← Bool.not_eq_true, isFor_iff]
      rintro ⟨region, sector⟩
      exact not_among_iff.mp (List.mem_filter.mp there).2 ⟨region, sector ▸ List.mem_cons_self⟩
  have split : ∀ pend, l.sector ∉ pend → ∀ k, k.region = l.region → k.sector = l.sector →
      ((s.media.lines.filter fun k => !k.isFor l.region l.sector) ++ [k]).filter (fun k => !among l.region pend k) =
        (s.media.lines.filter fun k => !among l.region (l.sector :: pend) k) ++ [k] := fun pend out k region sector => by
    rw [List.filter_append, List.filter_filter]
    congr 1
    · refine List.filter_congr fun k _ => Bool.eq_iff_iff.mpr ?_
      rw [Bool.and_eq_true, not_among_iff, not_among_iff, Bool.not_eq_true', ← Bool.not_eq_true, isFor_iff, List.mem_cons]
      rw [← not_or, ← and_or_left, or_comm]
    · refine List.filter_eq_self.mpr fun a member => ?_
      obtain rfl := List.mem_singleton.mp member
      exact not_among_iff.mpr fun both => out (sector ▸ both.2)
  have absent : l.sector ∉ rem.filter joins.contains := fun member => fresh (List.mem_filter.mp member).1
  rw [storeSector_eq, State.onMedia_media, one]
  by_cases joined : l.sector ∈ joins
  · have pend : (l.sector :: rem).filter joins.contains = l.sector :: rem.filter joins.contains :=
      List.filter_cons_of_pos (List.contains_iff_mem.mpr joined)
    rw [pend] at cache few
    have added := cache.addDirty (l := stored data l) (others _) serving
      (by rw [List.length_cons] at few; omega) (join joined)
    have lines := split _ absent (stored data l) rfl rfl
    refine ⟨?_, onceStored, ?_, serving, still⟩
    · unfold Media.without
      simp only [if_pos joined, List.map_cons, List.map_nil]
      rw [lines]
      exact added
    · have more := countP_snoc_le (fun l => l.cond.isDirty)
        (s.media.lines.filter fun k => !among l.region (l.sector :: rem.filter joins.contains) k) (stored data l)
      unfold Media.without Media.dirtyCount at few ⊢
      simp only [List.map_cons, List.map_nil]
      rw [lines]
      rw [List.length_cons] at few
      dsimp only at few more ⊢
      omega
  · have pend : (l.sector :: rem).filter joins.contains = rem.filter joins.contains :=
      List.filter_cons_of_neg fun c => joined (List.contains_iff_mem.mp c)
    rw [pend] at cache few
    have dirty := already joined
    have before := split _ absent l rfl rfl
    have after := split _ absent (stored data l) rfl rfl
    have perm' := perm.filter fun k => !among l.region (rem.filter joins.contains) k
    rw [before] at perm'
    have rewritten := (cache.perm perm').rewrite (data := data) (List.mem_append_right _ List.mem_cons_self) dirty
    refine ⟨?_, onceStored, ?_, serving, still⟩
    · unfold Media.without
      simp only [if_neg joined, List.map_cons, List.map_nil]
      rw [after]
      have lines : ((s.media.lines.filter fun k => !among l.region (l.sector :: rem.filter joins.contains) k) ++ [l]).map
          (restored l.region l.sector data) =
          (s.media.lines.filter fun k => !among l.region (l.sector :: rem.filter joins.contains) k) ++ [stored data l] := by
        rw [List.map_append, map_restored_of_others (others _), List.map_singleton, restored, if_pos isFor]
      rw [← lines]
      exact rewritten
    · refine Nat.le_trans (Nat.add_le_add_right (Nat.le_of_eq ?_) _) few
      unfold Media.without Media.dirtyCount
      simp only [List.map_cons, List.map_nil]
      rw [after, ← perm'.countP_eq, List.countP_append, List.countP_append, List.countP_singleton, List.countP_singleton]
      have stays : (stored data l).cond.isDirty = true := by
        exact isDirty_written dirty
      rw [stays, dirty]

theorem Storing.all (xs : List (Nat × List Byte)) (storing : Storing u g joins (xs.map Prod.fst) s.media) (once : (xs.map Prod.fst).Nodup) :
    CacheBut u (xs.foldl (State.storeSector g joins) s).media := by
  induction xs generalizing s with
  | nil =>
    have whole : s.media.without g [] = s.media := by
      unfold Media.without
      rw [filter_not_nil]
    exact whole ▸ storing.cache
  | cons x xs ih =>
    obtain ⟨fresh, once⟩ := List.nodup_cons.mp once
    exact ih (storing.next fresh) once

end

end Sys2Proof.Machine
end

section
/-! The commands of the media engine, its records and the loader in the sector cache (R97 to R112, R120, R128, R172). -/

namespace Sys2Proof.Machine

section
variable {u : Option (Fin 4)} {m : Media} {s t : State} {g : Fin 4} {r : BlkRequest}

/-! ### A WRITE (R109) -/

theorem newlyDirty_of_some {x : Nat} {l : CacheLine} (found : m.findLine g x = some l) : m.newlyDirty g x = !l.cond.isDirty := by
  rw [Media.newlyDirty, found]

theorem findLine_of_mem (once : OneLineEach m) {l : CacheLine} (member : l ∈ m.lines) : m.findLine l.region l.sector = some l := by
  cases found : m.findLine l.region l.sector with
  | none => exact (not_mem_of_findLine_none found member ⟨rfl, rfl⟩).elim
  | some k =>
    obtain ⟨there, region, sector⟩ := mem_of_findLine found
    rw [line_unique once there member region sector]

theorem written_of_undirty {c : LineCond} (undirty : c.isDirty = false) : c.written = .dirty := by
  cases c with
  | filling e => rfl
  | clean => rfl
  | _ => exact nomatch undirty

/-- When its lines are had, a WRITE may begin to store. -/
theorem CacheBut.beginStores {xs got : List Nat} (but : CacheBut u s.media)
    (serving : (s.media.regions[g]).state ≠ .detached ∧ (s.media.regions[g]).state ≠ .attaching)
    (few : (xs.filter fun x => s.media.newlyDirty g x).length + s.media.dirtyCount ≤ 256)
    (all : s.writeLines g (xs ++ xs) = ((true, got), t)) (present : ∀ x ∈ xs, t.Present g x) :
    Storing u g (xs.filter fun x => s.media.newlyDirty g x) xs t.media := by
  obtain ⟨ls, media, obtained, sub⟩ := writeLines_obtained g (xs ++ xs) but.lines
  rw [all] at media obtained sub
  have sub : ∀ x ∈ got, x ∈ xs := fun x member => (List.mem_append.mp (sub member)).elim id id
  have lines : t.media.lines = ls := by rw [show t.media = _ from media]
  have newly : ∀ l ∈ s.media.lines, l.region = g → s.media.newlyDirty g l.sector = !l.cond.isDirty := fun l member region => by
    subst region
    exact newlyDirty_of_some (findLine_of_mem but.lines member)
  have joins : ∀ x, x ∈ xs.filter (fun x => s.media.newlyDirty g x) ↔ x ∈ xs ∧ s.media.newlyDirty g x = true := fun x => List.mem_filter
  have gotJoins : ∀ x ∈ got, x ∈ xs.filter fun x => s.media.newlyDirty g x := fun x member => by
    refine (joins x).mpr ⟨sub x member, ?_⟩
    cases found : s.media.findLine g x with
    | none => exact newlyDirty_of_none found
    | some l =>
      obtain ⟨there, region, sector⟩ := mem_of_findLine found
      rw [newlyDirty_of_some found, obtained.fresh x member l there (isFor_iff.mpr ⟨region, sector⟩)]
      rfl
  have filter : xs.filter (xs.filter fun x => s.media.newlyDirty g x).contains = xs.filter fun x => s.media.newlyDirty g x :=
    List.filter_congr fun x member => by
      rw [Bool.eq_iff_iff, List.contains_iff_mem, joins]
      exact and_iff_right member
  have old : ∀ l ∈ ls, ¬ (l.region = g ∧ l.sector ∈ got) → l ∈ s.media.lines := fun l member out =>
    obtained.old.subset (List.mem_filter.mpr ⟨member, not_among_iff.mpr out⟩)
  have kept : (ls.filter fun l => !among g (xs.filter fun x => s.media.newlyDirty g x) l).Sublist s.media.lines := by
    refine .trans ?_ obtained.old
    rw [show (ls.filter fun l => !among g (xs.filter fun x => s.media.newlyDirty g x) l) = (ls.filter fun l => !among g got l).filter
      fun l => !among g (xs.filter fun x => s.media.newlyDirty g x) l from ?_]
    · exact List.filter_sublist
    · rw [List.filter_filter]
      refine List.filter_congr fun l _ => Bool.eq_iff_iff.mpr ?_
      rw [Bool.and_eq_true, not_among_iff, not_among_iff]
      exact ⟨fun out => ⟨out, fun both => out ⟨both.1, gotJoins _ both.2⟩⟩, And.left⟩
  refine ⟨?_, ?_, ?_, ?_, fun x member => ?_⟩
  · rw [filter]
    unfold Media.without
    rw [show t.media = _ from media]
    refine but.shrink (.of_sublist kept) (.refl _) (fun h y => ?_) (fun l member => carries_of_same (but.carried l (kept.subset member)) fun _ _ => rfl)
      (.of_undated fun _ => .inr rfl) (fun _ => rfl) (fun h member => ⟨h, member, rfl⟩) (.refl _)
    refine (but.dirtyListed h y).trans ⟨fun ⟨l, member, is⟩ => ⟨l, List.mem_filter.mpr ⟨?_, ?_⟩, is⟩, fun ⟨l, member, is⟩ =>
      ⟨l, kept.subset member, is⟩⟩
    · exact obtained.kept l member (by rw [is.2.2]; nofun)
    · refine not_among_iff.mpr fun ⟨region, sector⟩ => ?_
      have undirty := ((joins _).mp sector).2
      rw [newly l member region, is.2.2] at undirty
      exact nomatch undirty
  · unfold OneLineEach
    rw [lines]
    exact obtained.once
  · rw [filter]
    refine Nat.le_trans (Nat.add_le_add_right ?_ _) (Nat.le_trans (Nat.le_of_eq (Nat.add_comm ..)) few)
    unfold Media.without
    rw [show t.media = _ from media]
    exact kept.countP_le
  · rw [show t.media = _ from media]
    exact serving
  · obtain ⟨l, there, isFor⟩ := present x member
    obtain ⟨region, sector⟩ := isFor_iff.mp isFor
    rw [lines] at there ⊢
    refine ⟨l, there, isFor, fun join => ?_, fun already => ?_⟩
    · by_cases had : x ∈ got
      · rw [obtained.new l there region (sector ▸ had)]
        rfl
      · have before := old l there fun both => had (sector ▸ both.2)
        have undirty := ((joins x).mp join).2
        rw [← sector, newly l before region] at undirty
        exact written_of_undirty (by simpa using undirty)
    · have before := old l there fun both => already (gotJoins x (sector ▸ both.2))
      refine Classical.byContradiction fun undirty => ?_
      refine already ((joins x).mpr ⟨member, ?_⟩)
      rw [← sector, newly l before region]
      simpa using undirty

theorem sectors_fst (r : BlkRequest) : r.sectors.map Prod.fst = sectorsOf r.first r.count := by
  unfold BlkRequest.sectors sectorsOf
  rw [List.map_map]
  rfl

theorem sectorsOf_nodup (first count : Nat) : (sectorsOf first count).Nodup :=
  List.pairwise_map.mpr (List.nodup_range.imp fun other same => other (Nat.add_left_cancel same))

theorem CacheBut.writeRequest (but : CacheBut none s.media) (count : r.count = 1 ∨ r.count = 2)
    (serving : (s.media.regions[g]).state ≠ .detached ∧ (s.media.regions[g]).state ≠ .attaching) :
    CacheBut none (s.writeRequest r g).media := by
  have busy : ∀ {a : State}, CacheBut none a.media → CacheBut none (a.writeBusy r).media := fun {a} but =>
    ((Serves.onBlk a _).trans (Serves.answer ..)).cache but
  unfold State.writeRequest
  dsimp only
  split
  · exact (Serves.answer ..).cache but
  split
  · exact busy but
  · rename_i room
    split
    · rename_i got t had
      have given := but.giveBack (g := g) (xs := sectorsOf r.first r.count ++ sectorsOf r.first r.count)
      rw [had] at given
      exact busy given
    · rename_i got t had
      have storing := but.beginStores serving (by simpa [Config.dirtyLimit] using room) had (writeLines_present count but.lines had)
      rw [← sectors_fst] at storing
      have stores := storing.all r.sectors (by rw [sectors_fst]; exact sectorsOf_nodup ..)
      rw [sectors_fst] at stores
      have answered := (Serves.answer (u := none) _ r .ok []).cache stores
      exact CacheBut.runJoined _ ((Serves.foldl (u := none) (fun a x => Serves.sectorArrived g x a) _ _).cache answered)

/-! ### READs, SYNCs and the rescan (R107, R110, R111, R120) -/

/-- A request is held for an ATTACHED region. -/
theorem CacheBut.hold (but : CacheBut none m) {h : Held} (attached : (m.regions[h.unit]).state = .attached) :
    CacheBut none { m with held := m.held ++ [h] } :=
  { but with
    carried := fun l member => ⟨(but.carried l member).filling, (but.carried l member).flushing⟩
    held := fun k member => by
      rcases List.mem_append.mp member with old | new
      · exact but.held k old
      · obtain rfl := List.mem_singleton.mp new
        exact .inr attached }

theorem CacheBut.dispose (but : CacheBut none s.media) (attached : (s.media.regions[g]).state = .attached) (op : HeldOp) :
    CacheBut none (s.dispose g op r).media := by
  unfold State.dispose
  dsimp only
  split
  · exact (Serves.answer ..).cache but
  split
  · exact (Serves.onBlk ..).cache but
  split
  · exact (Serves.answer ..).cache but
  · exact (Serves.onBlk (u := none) (s.onMedia fun m => { m with held := _ }) _).cache (but.hold attached)

/-- Fills leave the regions and the held requests. -/
theorem CacheBut.fills (xs : List Nat) (but : CacheBut none s.media) (attached : (s.media.regions[g]).state = .attached) :
    CacheBut none (xs.foldl (fun t x => (t.ensureFill g x).2) s).media ∧
    ((xs.foldl (fun t x => (t.ensureFill g x).2) s).media.regions[g]).state = .attached := by
  induction xs generalizing s with
  | nil => exact ⟨but, attached⟩
  | cons x xs ih =>
    have filled := but.ensureFill (g := g) (x := x) (by rw [attached]; exact ⟨nofun, nofun⟩)
    obtain ⟨ls, tb, iss, xfer, media⟩ := ensureFill_media g x s
    exact ih filled (by rw [media]; exact attached)

theorem CacheBut.readRequest (but : CacheBut none s.media) (attached : (s.media.regions[g]).state = .attached) :
    CacheBut none (s.readRequest r g).media := by
  unfold State.readRequest
  dsimp only
  split
  · exact ((Serves.touch ..).trans (Serves.answer ..)).cache but
  · obtain ⟨filled, still⟩ := but.fills (sectorsOf r.first r.count) attached
    exact filled.dispose still .read

theorem CacheBut.syncRequest (but : CacheBut none s.media) (attached : (s.media.regions[g]).state = .attached) :
    CacheBut none (s.syncRequest r g).media := by
  unfold State.syncRequest
  split
  · exact (Serves.answer ..).cache but
  · exact but.dispose attached .sync

theorem CacheBut.rescanSector (but : CacheBut none s.media) (attached : (s.media.regions[g]).state = .attached) (x : Nat) :
    CacheBut none (s.rescanSector g x).media ∧ (s.rescanSector g x).media.regions = s.media.regions := by
  have filled := but.ensureFill (g := g) (x := x) (by rw [attached]; exact ⟨nofun, nofun⟩)
  obtain ⟨ls, tb, iss, xfer, media⟩ := ensureFill_media g x s
  have regions : (s.ensureFill g x).2.media.regions = s.media.regions := by rw [media]
  unfold State.rescanSector
  dsimp only
  split
  · exact ⟨filled.same ⟨rfl, rfl, fun _ => rfl, fun _ => rfl, rfl, rfl⟩, regions⟩
  · exact ⟨filled, regions⟩

theorem CacheBut.rescanSectors (xs : List Nat) (but : CacheBut none s.media) (attached : (s.media.regions[g]).state = .attached) :
    CacheBut none (xs.foldl (State.rescanSector g) s).media ∧ (xs.foldl (State.rescanSector g) s).media.regions = s.media.regions := by
  induction xs generalizing s with
  | nil => exact ⟨but, rfl⟩
  | cons x xs ih =>
    obtain ⟨filled, regions⟩ := but.rescanSector attached x
    obtain ⟨filled', regions'⟩ := ih filled (by rw [regions]; exact attached)
    exact ⟨filled', regions'.trans regions⟩

theorem CacheBut.rescanHeld (but : CacheBut none s.media) : CacheBut none s.rescanHeld.media := by
  have each : ∀ (hs : List Held) (a : State), CacheBut none a.media → a.media.regions = s.media.regions → (∀ h ∈ hs, h ∈ s.media.held) →
      CacheBut none (hs.foldl (fun t h => if h.op = .read then h.awaiting.foldl (State.rescanSector h.unit) t else t) a).media :=
    fun hs => by
      induction hs with
      | nil => exact fun a but _ _ => but
      | cons h hs ih =>
        intro a but' regions within
        have attached : (a.media.regions[h.unit]).state = .attached := by
          rw [regions]
          exact (but.held h (within h List.mem_cons_self)).resolve_left nofun
        have rest : ∀ k ∈ hs, k ∈ s.media.held := fun k member => within k (List.mem_cons_of_mem h member)
        rw [List.foldl_cons]
        split
        · obtain ⟨filled, regions'⟩ := but'.rescanSectors h.awaiting attached
          exact ih _ filled (regions'.trans regions) rest
        · exact ih _ but' regions rest
  unfold State.rescanHeld
  exact each _ _ (but.same ⟨rfl, rfl, fun _ => rfl, fun _ => rfl, rfl, rfl⟩) rfl fun _ => id

theorem CacheBut.resourceRescan (but : CacheBut none s.media) : CacheBut none s.resourceRescan.media := by
  unfold State.resourceRescan
  split
  · exact but
  · rename_i n _
    have begun : CacheBut none (s.onMedia fun m => { m with rescans := n }).media :=
      but.same ⟨rfl, rfl, fun _ => rfl, fun _ => rfl, rfl, rfl⟩
    exact CacheBut.flushN 16 (begun.takeInquiries _).rescanHeld

/-! ### The media inbox (R105, R106, R128) -/

theorem CacheBut.takeMedia (but : CacheBut none s.media) {c : Instr} {f : MediaIn → State → State}
    (handled : ∀ m, m.command = c → CacheBut none (f m s).media) : CacheBut none (s.takeMedia c f).media := by
  unfold State.takeMedia
  split
  · exact but
  split
  · rename_i m rest inbox command
    have left : CacheBut none ((f m s).onMedia fun x => { x with inbox := x.inbox.drop 1 }).media :=
      (handled m command).same ⟨rfl, rfl, fun _ => rfl, fun _ => rfl, rfl, rfl⟩
    exact left.same (Aside.returnCells ..).cache
  · exact but

theorem CacheBut.takeRequest (but : CacheBut none s.media) {c : Instr} {f : BlkRequest → State → State}
    (handled : ∀ m : MediaIn, m.command = c → CacheBut none (f m.request s).media) : CacheBut none (s.takeRequest c f).media := by
  refine but.takeMedia fun m command => ?_
  split
  · exact (Serves.onBlk ..).cache but
  · exact handled m command

theorem judgeUnit_attached (judged : s.judgeUnit r = .ok g) : (s.media.regions[g]).state = .attached := by
  unfold State.judgeUnit at judged
  split at judged
  · exact nomatch judged
  dsimp only at judged
  split at judged
  · exact nomatch judged
  split at judged
  · exact nomatch judged
  split at judged
  · rename_i attached
    cases judged
    exact attached
  · exact nomatch judged
  · exact nomatch judged

theorem CacheBut.judged (but : CacheBut none s.media) {f : Fin 4 → State → State}
    (passed : ∀ g, r.formOk = true → (s.media.regions[g]).state = .attached → CacheBut none (f g s).media) :
    CacheBut none (s.judged r f).media := by
  cases form : r.formOk with
  | false =>
    rw [judged_of_badForm form]
    exact (Serves.answer ..).cache but
  | true =>
    cases unit : s.judgeUnit r with
    | error e =>
      rw [judged_of_error form unit]
      exact (Serves.answer ..).cache but
    | ok g =>
      rw [judged_of_region form unit]
      split
      · exact (Serves.answer ..).cache but
      · exact passed g form (judgeUnit_attached unit)

theorem CacheBut.takeAnswer (but : CacheBut none s.media) {c : Instr} {k : TransferKind} {f : Fin 16 → Transfer → List Byte → State → State}
    (handled : ∀ e t p, (s.media.table[e]).use = some t → t.kind = k → CacheBut none (f e t p s).media) :
    CacheBut none (s.takeAnswer c k f).media := by
  refine but.takeMedia fun m command => ?_
  split
  · exact (Serves.onXfer ..).cache but
  · rename_i e t fits
    obtain ⟨-, entry, kind, -⟩ := answered_eq_some_iff.mp fits
    exact handled e t _ (by rw [entry]) kind

end

end Sys2Proof.Machine
end

section
/-! The sector cache over every step: the records of the media engine, the loader, and the one case split. -/

namespace Sys2Proof.Machine

section
variable {m : Media} {s t : State}

theorem CacheBut.safe (but : CacheBut none s.media) (safe : Safe s t) : CacheBut none t.media := (safe.cache but.sound).but

/-! ### Media records and attaches (R97, R98, R100, R103) -/

theorem CacheBut.runRecord {c : Instr} {h : Rec → State → Answer} (but : CacheBut none s.media)
    (kept : ∀ r t, CacheBut none t.media → CacheBut none (h r t).state.media) : CacheBut none (s.runRecord c h).media := by
  obtain safe | ⟨r, u, before, after⟩ := Safe.runRecord_cases s c h
  · exact but.safe safe
  · exact (kept r u (but.safe before)).safe after

theorem CacheBut.mediaAttach (r : Rec) (s : State) (but : CacheBut none s.media) : CacheBut none (s.mediaAttach r).state.media := by
  unfold State.mediaAttach
  split
  · exact but
  split
  · rename_i detached
    exact but.beginAttach detached
  · exact but

theorem CacheBut.detach (discard : Bool) (r : Rec) (s : State) (but : CacheBut none s.media) : CacheBut none (s.detach discard r).state.media := by
  unfold State.detach
  split
  · exact but
  dsimp only
  split
  · exact but
  · exact but.detachRegion ..

theorem CacheBut.mediaResume (r : Rec) (s : State) (but : CacheBut none s.media) : CacheBut none (s.mediaResume r).state.media := by
  unfold State.mediaResume
  split
  · exact but
  split
  · rename_i g _ faulted
    have faulted : (s.media.regions[g]).state = .faulted := faulted
    refine CacheBut.flushN 16 (but.enterRegion (fun out => by rcases out with out | out <;> exact nomatch out) (but.holders (.inl rfl)) ?_)
    exact Nat.le_of_eq (but.noInquiries (by rw [faulted]; nofun))
  · exact but

theorem CacheBut.autoAttachAll (but : CacheBut none s.media) : CacheBut none s.autoAttachAll.media := by
  refine List.foldlRecOn (motive := fun t : State => CacheBut none t.media) _ _ but fun t but g _ => ?_
  unfold State.autoAttach
  split
  · rename_i due
    simp only [Bool.and_eq_true, beq_iff_eq] at due
    exact but.beginAttach due.2
  · exact but

/-! ### The loader (R170 to R172, R177) -/

theorem CacheBut.completeStart (but : CacheBut none s.media) : CacheBut none s.completeStart.media := by
  have driven : Safe s (s.onPower PowerUnit.driveIdle) := Safe.elsewhere rfl
  have sensed := driven.trans (Safe.foldl Safe.beginSensing (List.finRange 4) _)
  have linked := (sensed.trans (Safe.takePhy .u _)).trans (Safe.takePhy .s _)
  unfold State.completeStart
  dsimp only
  exact ((but.safe ((linked.trans (Safe.onLine ..)).trans (Safe.setPhase ..))).autoAttachAll).safe (Safe.onLoader ..)

theorem CacheBut.loaderDone (but : CacheBut none s.media) (ack : EepromAck) : CacheBut none (s.loaderDone ack).media := by
  unfold State.loaderDone
  split
  · exact (but.safe (Safe.loadTables ack s)).completeStart
  · exact but

theorem CacheBut.restartReloadDone (but : CacheBut none s.media) (ack : EepromAck) : CacheBut none (s.restartReloadDone ack).media := by
  unfold State.restartReloadDone
  split
  · dsimp only
    exact (but.safe (((Safe.loadTables ack s).trans (Safe.addMark ..)).trans (Safe.setPhase ..))).autoAttachAll.safe (Safe.restarted _)
  · exact but

/-! ### Media frames (R105, R106, R128) -/

theorem CacheBut.blkRead (but : CacheBut none s.media) : CacheBut none s.blkRead.media :=
  but.takeRequest fun _ _ => but.judged fun _ _ attached => but.readRequest attached

theorem CacheBut.blkWrite (but : CacheBut none s.media) : CacheBut none s.blkWrite.media :=
  but.takeRequest fun _ command => but.judged fun _ form attached => by
    obtain ⟨-, write, -⟩ := op_of_command command (by simp)
    exact but.writeRequest ((formOk_write (write rfl)).mp form).1 (by rw [attached]; exact ⟨nofun, nofun⟩)

theorem CacheBut.blkInquire (but : CacheBut none s.media) : CacheBut none s.blkInquire.media :=
  but.takeRequest fun _ _ => but.judged fun _ _ _ => (Serves.answer ..).cache but

theorem CacheBut.blkSync (but : CacheBut none s.media) : CacheBut none s.blkSync.media :=
  but.takeRequest fun _ _ => but.judged fun _ _ attached => but.syncRequest attached

theorem CacheBut.blkMalformed (but : CacheBut none s.media) : CacheBut none s.blkMalformed.media :=
  but.takeRequest fun _ _ => (Serves.answer ..).cache but

theorem CacheBut.imgInfo (but : CacheBut none s.media) : CacheBut none s.imgInfo.media :=
  but.takeAnswer fun _ _ p use kind => but.inquiryAnswered use kind p

theorem CacheBut.imgData (but : CacheBut none s.media) : CacheBut none s.imgData.media :=
  but.takeAnswer fun _ _ p use kind => but.dataAnswered use kind p

theorem CacheBut.imgWriteAck (but : CacheBut none s.media) : CacheBut none s.imgWriteAck.media :=
  but.takeAnswer fun _ _ p use kind => but.ackAnswered use kind p

theorem CacheBut.imgMalformedAnswer (but : CacheBut none s.media) : CacheBut none s.imgMalformedAnswer.media :=
  but.takeMedia fun _ _ => (Serves.onXfer ..).cache but

end

/-! ### Every command -/

/-- What the commands that serve the media engine keep of the cache. -/
theorem exec_media {c : Instr} (serves : servesMedia c = true) (s : State) :
    ∃ t, exec c s = .next t ∧ (CacheBut none s.media → CacheBut none t.media) := by
  cases c with
  | loaderDone ack => exact ⟨_, rfl, fun but => but.loaderDone ack⟩
  | restartReloadDone ack => exact ⟨_, rfl, fun but => but.restartReloadDone ack⟩
  | mediaAttach => exact ⟨_, rfl, fun but => but.runRecord CacheBut.mediaAttach⟩
  | mediaDetach => exact ⟨_, rfl, fun but => but.runRecord (CacheBut.detach _)⟩
  | mediaDetachDiscard => exact ⟨_, rfl, fun but => but.runRecord (CacheBut.detach _)⟩
  | mediaResume => exact ⟨_, rfl, fun but => but.runRecord CacheBut.mediaResume⟩
  | blkRead => exact ⟨_, rfl, CacheBut.blkRead⟩
  | blkWrite => exact ⟨_, rfl, CacheBut.blkWrite⟩
  | blkInquire => exact ⟨_, rfl, CacheBut.blkInquire⟩
  | blkSync => exact ⟨_, rfl, CacheBut.blkSync⟩
  | blkMalformed => exact ⟨_, rfl, CacheBut.blkMalformed⟩
  | imgInfo => exact ⟨_, rfl, CacheBut.imgInfo⟩
  | imgData => exact ⟨_, rfl, CacheBut.imgData⟩
  | imgWriteAck => exact ⟨_, rfl, CacheBut.imgWriteAck⟩
  | imgMalformedAnswer => exact ⟨_, rfl, CacheBut.imgMalformedAnswer⟩
  | resourceRescan => exact ⟨_, rfl, CacheBut.resourceRescan⟩
  | transferDeadline e => exact ⟨_, rfl, fun but => but.transferDeadline e⟩
  | _ => exact nomatch serves

theorem cacheSound_of_exec {c : Instr} {s t : State} (sound : CacheSound s.media) (ran : exec c s = .next t) : CacheSound t.media := by
  cases serves : servesMedia c with
  | false =>
    obtain ⟨u, same, kept⟩ := exec_kept c s
    rw [ran] at same
    cases same
    exact kept.cache serves sound
  | true =>
    obtain ⟨u, same, kept⟩ := exec_media serves s
    rw [ran] at same
    cases same
    exact (kept sound.but).sound

theorem cacheSound_of_step {s t : State} (sound : CacheSound s.media) (stepped : step s = .next t) : CacheSound t.media :=
  step_keeps (P := fun s => CacheSound s.media) (fun _ _ h => h) (fun s => (Safe.tick s).cache) (fun _ _ _ => cacheSound_of_exec) sound stepped

end Sys2Proof.Machine
end

section
/-! How a line is had, what a fill takes and how a WRITE has its lines (R25, R109, R115, R118, R119). -/

namespace Sys2Proof.Machine

section
variable {m : Media} {s t : State} {g : Fin 4} {e : Fin 16} {x : Nat} {xs had : List Nat}

/-! ### One line (R25) -/

/-- There is room for one line more, below the ceiling and above the reserve (R25). -/
def State.RoomForLine (s : State) : Prop := 4 * s.media.lines.length + 4 ≤ s.pool.ceiling ∧ s.pool.reserve + 4 ≤ s.pool.free

theorem obtainLine_of_room (room : s.RoomForLine) : s.obtainLine = (true, s.onPool fun p => { p with
    free := p.free - 4, lowFree := min p.lowFree (p.free - 4), cacheAlloc := p.cacheAlloc + 1 }) := by
  unfold State.obtainLine
  exact (if_pos room).trans rfl

theorem obtainLine_of_evictee {l : CacheLine} (noRoom : ¬ s.RoomForLine) (evictee : s.media.evictee = some l) :
    s.obtainLine = (true, (s.dropLine l).onPool fun p => { p with cacheAlloc := p.cacheAlloc + 1, cacheEvict := p.cacheEvict + 1 }) := by
  unfold State.obtainLine
  refine (if_neg noRoom).trans ?_
  rw [evictee]

theorem obtainLine_of_no_evictee (noRoom : ¬ s.RoomForLine) (nothing : s.media.evictee = none) :
    s.obtainLine = (false, s.onPool fun p => { p with cacheAllocFail := p.cacheAllocFail + 1 }) := by
  unfold State.obtainLine
  refine (if_neg noRoom).trans ?_
  rw [nothing]

theorem evictee_eq_none (nothing : ∀ l ∈ m.lines, ¬ m.evictable l = true) : m.evictee = none := List.find?_eq_none.mpr nothing

/-! ### Several lines (R109, R119) -/

theorem fillLines_refused (refused : s.obtainLine.1 = false) : s.fillLines g e (x :: xs) = ([], s.obtainLine.2) := by
  rw [State.fillLines]
  generalize s.obtainLine = had at refused ⊢
  obtain ⟨granted, t⟩ := had
  cases refused
  rfl

theorem fillLines_granted (granted : s.obtainLine.1 = true)
    (rest : (s.obtainLine.2.addLine ⟨g, x, .filling e, []⟩).fillLines g e xs = (had, t)) : s.fillLines g e (x :: xs) = (x :: had, t) := by
  rw [State.fillLines]
  generalize s.obtainLine = first at granted rest ⊢
  obtain ⟨ok, u⟩ := first
  cases granted
  dsimp only at rest ⊢
  rw [rest]

theorem writeLines_present_head (present : s.media.findLine g x ≠ none) : s.writeLines g (x :: xs) = s.writeLines g xs := by
  rw [State.writeLines, if_pos (Option.isSome_iff_ne_none.mpr present)]

theorem writeLines_refused (missing : s.media.findLine g x = none) (refused : s.obtainLine.1 = false) :
    s.writeLines g (x :: xs) = ((false, []), s.obtainLine.2) := by
  rw [State.writeLines, if_neg (by rw [missing]; nofun)]
  generalize s.obtainLine = first at refused ⊢
  obtain ⟨ok, t⟩ := first
  cases refused
  rfl

theorem writeLines_granted {all : Bool} (missing : s.media.findLine g x = none) (granted : s.obtainLine.1 = true)
    (rest : (s.obtainLine.2.addLine ⟨g, x, .dirty, []⟩).writeLines g xs = ((all, had), t)) :
    s.writeLines g (x :: xs) = ((all, x :: had), t) := by
  rw [State.writeLines, if_neg (by rw [missing]; nofun)]
  generalize s.obtainLine = first at granted rest ⊢
  obtain ⟨ok, u⟩ := first
  cases granted
  dsimp only at rest ⊢
  rw [rest]

/-! ### A fill (R118 to R120) -/

/-- The run of a fill ends at the limit or at the first sector that has a line (R118). -/
theorem runFrom_eq {limit fuel n : Nat} (missing : ∀ i, i < n → m.findLine g (x + i) = none) (fuelled : n ≤ fuel) (within : x + n ≤ limit)
    (ends : x + n = limit ∨ m.findLine g (x + n) ≠ none) : m.runFrom g x limit fuel = (List.range n).map fun i => x + i := by
  rw [← List.range'_eq_map_range]
  induction n generalizing x fuel with
  | zero =>
    cases fuel with
    | zero => rfl
    | succ fuel =>
      refine if_neg fun ⟨below, missing⟩ => ends.elim (fun limited => ?_) fun found => found (Option.isNone_iff_eq_none.mp missing)
      omega
  | succ n ih =>
    obtain ⟨fuel, rfl⟩ := Nat.exists_eq_succ_of_ne_zero (show fuel ≠ 0 by omega)
    have next : ∀ i, x + 1 + i = x + (i + 1) := fun i => by omega
    have rest := ih (x := x + 1) (fuel := fuel) (fun i less => by rw [next]; exact missing (i + 1) (by omega)) (by omega) (by omega)
      (by rw [next]; exact ends)
    rw [Media.runFrom, if_pos ⟨by omega, Option.isNone_iff_eq_none.mpr (missing 0 (by omega))⟩, rest, List.range'_succ]

/-- A run that stays in the aligned block is no longer than a block. -/
theorem le_prefetch_of_runEnd {prefetch sectors n : Nat} (within : x + n ≤ runEnd prefetch sectors x) : n ≤ prefetch := by
  have block : x + n ≤ (x / prefetch + 1) * prefetch := Nat.le_trans within (Nat.min_le_left ..)
  have floor : x / prefetch * prefetch ≤ x := Nat.div_mul_le_self ..
  rw [Nat.add_mul, Nat.one_mul] at block
  omega

theorem ensureFill_present (present : s.media.findLine g x ≠ none) : s.ensureFill g x = (false, s) := by
  rw [State.ensureFill, if_pos (Option.isSome_iff_ne_none.mpr present)]

theorem ensureFill_full (missing : s.media.findLine g x = none) (full : s.media.freeEntry = none) :
    s.ensureFill g x = (decide (s.media.inUse .fetch < 12), s.deferFill) := by
  rw [State.ensureFill, if_neg (by rw [missing]; nofun), full]
  rfl

theorem ensureFill_limited (missing : s.media.findLine g x = none) (free : s.media.freeEntry = some e) (limited : 12 ≤ s.media.inUse .fetch) :
    s.ensureFill g x = (false, s.deferFill) := by
  rw [State.ensureFill, if_neg (by rw [missing]; nofun), free]
  exact if_pos limited

/-- The run that a fill of the sector would take. -/
def Media.fillRun (m : Media) (g : Fin 4) (x : Nat) : List Nat :=
  m.runFrom g x (runEnd (m.regions[g]).cfg.prefetch (m.regions[g]).sectors x) (m.regions[g]).cfg.prefetch

theorem ensureFill_refused (missing : s.media.findLine g x = none) (free : s.media.freeEntry = some e) (few : s.media.inUse .fetch < 12)
    (refused : s.fillLines g e (s.media.fillRun g x) = ([], t)) : s.ensureFill g x = (false, t.deferFill) := by
  rw [State.ensureFill, if_neg (by rw [missing]; nofun), free]
  dsimp only
  unfold Media.fillRun at refused
  refine (if_neg (Nat.not_le.mpr few)).trans ?_
  rw [refused]

theorem ensureFill_started {y : Nat} {ys : List Nat} (missing : s.media.findLine g x = none) (free : s.media.freeEntry = some e)
    (few : s.media.inUse .fetch < 12) (started : s.fillLines g e (s.media.fillRun g x) = (y :: ys, t)) :
    s.ensureFill g x = (false, (t.allocate .fetch g x (ys.length + 1) e).onXfer fun n => { n with
      fillsStarted := n.fillsStarted + 1, fillSectors := n.fillSectors + BitVec.ofNat 32 (ys.length + 1) }) := by
  rw [State.ensureFill, if_neg (by rw [missing]; nofun), free]
  dsimp only
  unfold Media.fillRun at started
  refine (if_neg (Nat.not_le.mpr few)).trans ?_
  rw [started]
  rfl

theorem inUse_fetch (m : Media) : m.inUse .fetch =
    (List.finRange 16).countP fun e => (m.table[e]).use.any fun t => t.kind == .fetch := by
  simp only [inUse_eq, Bool.and_true]

end

/-- Settles O52: every command keeps the cache sound (`cacheSound_of_step`), and the fills, WRITEs and lines by their equations. -/
theorem cacheLineGrantedOrEvicted : Obligations.CacheLineGrantedOrEvicted := by
  refine ⟨fun s t => cacheSound_of_step, fun s g x => ⟨ensureFill_present, fun missing full => ?_, fun e missing unused first => ?_⟩,
    fun s g e x xs => ⟨rfl, rfl, fillLines_refused, fun granted had t => fillLines_granted granted, writeLines_present_head,
      writeLines_refused, fun missing granted all had t => writeLines_granted missing granted⟩,
    fun s g joins x data => ?_, fun s => ⟨obtainLine_of_room, fun noRoom nothing => ?_, fun noRoom older l newer split before here => ?_⟩⟩
  · rw [ensureFill_full missing (freeEntry_eq_none_iff.mpr full), inUse_fetch]
    rfl
  · have free : s.media.freeEntry = some e := freeEntry_eq_some_iff.mpr ⟨unused, first⟩
    rw [← inUse_fetch]
    refine ⟨ensureFill_limited missing free, fun n few _ clear within ends => ?_⟩
    have run : s.media.fillRun g x = (List.range n).map fun i => x + i :=
      runFrom_eq clear (le_prefetch_of_runEnd within) within ends
    rw [← run]
    exact ⟨fun t => ensureFill_refused missing free few, fun y ys t => ensureFill_started missing free few⟩
  · rw [storeSector_eq]
    rfl
  · exact obtainLine_of_no_evictee noRoom (evictee_eq_none fun l member can => nothing l member (evictable_iff.mp can))
  · exact obtainLine_of_evictee noRoom (evictee_of_split split (fun k member can => before k member (evictable_iff.mp can))
      (evictable_iff.mpr here))

end Sys2Proof.Machine
end
